-- ==== Sys2Proof/Word.lean ====
section
/-! DEFINITION. The word types of the Icward Odique and their plainest arithmetic (00 R5). -/

namespace Sys2Proof

/-- A 64-bit scalar register or address value (03 R56). -/
abbrev Word := BitVec 64

/-- A byte of memory (00 R5). -/
abbrev Byte := BitVec 8

/-- A scalar register number s0-s63 (03 R56). -/
abbrev Reg := BitVec 6

/-- One row of a matrix register or of the scratchpad: 64 cells of 16 bits, cell j in bits [16j+15:16j] (03 R60). -/
abbrev Row := BitVec 1024

/-- One row of an accumulator tile: 64 cells of 32 bits (03 R69). -/
abbrev AccRow := BitVec 2048

end Sys2Proof
end

