-- ==== Sys2Proof/Syntax.lean ====
section
/-! DEFINITION. The instruction set as data: one constructor of `Instr` per row of the opcode table. Core
instructions carry their decoded operands (04 R84-R95); walker words carry their operand (10 R271); commands and
mailbox messages carry their 64 bytes as fields (15 R316, 23 R461); a step of another agent carries which agent
moves and what the outside supplies (a sensor reading, a victim, a host address). The stop bit S is no part of an
instruction: `Decode` reads it beside the instruction (04 R78). -/

namespace Sys2Proof

/-- Second operand of an SX instruction: register B when I = 0, IMM33 when I = 1 (04 R85, 05 R112). -/
inductive Src where
  | reg (r : Reg)
  | imm (v : BitVec 33)
  deriving DecidableEq, Repr

/-- Conditions of `cmp` in FN order (05 R119). -/
inductive Cc where
  | eq | ne | ltI | geI | ltN | geN | leI | gtI | leN | gtN | tst | ntst
  deriving DecidableEq, Repr

/-- A predicate operand with its negation: bit 3 negates, bits [2:0] name p0-p7 (03 R57). -/
abbrev Guard := BitVec 4

/-- The operand descriptor of 04 R89. -/
inductive Opd where
  | slice (dir : BitVec 2) (m : BitVec 6) (x : BitVec 6)
  | loadPort (p : BitVec 3)
  | storePort (t : BitVec 2)
  | aq
  | sreg (r : Reg)
  | const (i : BitVec 10)
  | zero
  deriving DecidableEq, Repr

/-- The fields shared by V-format instructions (04 R88). -/
structure VOp where
  ty : BitVec 4
  rnd : BitVec 3
  sat : Bool
  mask : BitVec 3
  deriving DecidableEq, Repr

/-- Index operand of `vbcast`: immediate or scalar register (06 R158). -/
inductive BIdx where
  | imm (i : BitVec 6)
  | sreg (r : Reg)
  deriving DecidableEq, Repr

/-- Base operand of `viota` (06 R159). -/
inductive IBase where
  | sreg (r : Reg)
  | zero
  deriving DecidableEq, Repr

/-- Fields of `mma` (07 R175) and `mmag` (07 R181). -/
structure MmaArgs where
  acc : BitVec 6
  pa : BitVec 3
  pb : BitVec 3
  ety : BitVec 4
  kch : BitVec 9
  ta : Bool
  q : Bool
  aux : BitVec 6
  sa : BitVec 6
  sb : BitVec 6
  srow : BitVec 6
  deriving DecidableEq, Repr

/-- Which parts `azero` clears (07 R185). -/
inductive ZMode where
  | both | side | cells
  deriving DecidableEq, Repr

/-- Which parts `amov` copies (07 R188). -/
inductive VMode where
  | cells | side | all
  deriving DecidableEq, Repr

/-- Fields of `aread` and `awrite` (07 R184, R186, R187): `side` selects the side-register form, `h` the half or
ROWSUM. -/
structure ARow where
  acc : BitVec 6
  rnd : BitVec 3
  rows : BitVec 9
  ety : BitVec 4
  side : Bool
  h : Bool
  sat : Bool
  m : BitVec 6
  d : BitVec 6
  f : BitVec 7
  deriving DecidableEq, Repr

/-- A WAIT8 set and the base address of an MA instruction (04 R91). -/
structure MAddr where
  wait : BitVec 8
  base : Reg
  disp : BitVec 23
  deriving DecidableEq, Repr

/-- Scopes in the SCOPE codes of 04 R91. -/
inductive Scope where
  | core | cluster | device | pod | system
  deriving DecidableEq, Repr

/-- Where each side of a copy lies (10 R251). -/
inductive CKind where
  | gg | gs | sg | ss
  deriving DecidableEq, Repr

/-- Fields of `cpy` and `cpyt` (10 R253). -/
structure CpyArgs where
  wait : BitVec 8
  k : BitVec 3
  rg : Reg
  kind : CKind
  w : BitVec 2
  waite : Bool
  srcw : Bool
  srcc : Bool
  deriving DecidableEq, Repr

/-- Fields of `walk` (10 R253). -/
structure WalkArgs where
  wait : BitVec 8
  k : BitVec 3
  rg : Reg
  w : BitVec 2
  npar : BitVec 3
  entry : BitVec 8
  chain : BitVec 8
  chen : Bool
  deriving DecidableEq, Repr

/-- Fields of the slot atomics (11 R278). -/
structure SArgs where
  g : Guard
  d : Reg
  s : Reg
  o : Reg
  deriving DecidableEq, Repr

/-- A command of 64 bytes beside its OP byte (15 R316): bytes 1-7 as the header fields, `a` bytes 8-15, `b` 16-23,
`caddr` 24-31, `seq` 32-39, `w5` 40-47, `w6` 48-55, `w7` 56-63. -/
structure Cmd where
  flags : BitVec 8
  phase : BitVec 16
  ceil : BitVec 8
  scope : BitVec 8
  z : BitVec 16
  a : Word
  b : Word
  caddr : Word
  seq : Word
  w5 : Word
  w6 : Word
  w7 : Word
  deriving DecidableEq, Repr

/-- A mailbox message of 64 bytes beside its TYPE byte (23 R461): SRC, SEQ, STATUS and seven payload words. -/
structure Msg where
  src : BitVec 8
  seq : BitVec 16
  status : BitVec 32
  p1 : Word
  p2 : Word
  p3 : Word
  p4 : Word
  p5 : Word
  p6 : Word
  p7 : Word
  deriving DecidableEq, Repr

/-- A strand of a task (03 R51). -/
inductive Side where
  | a | x
  deriving DecidableEq, Repr

/-- An operation of another device's strand, walker or block on a slot of this one (11 R277): an atomic, the compare of a wait, which
the device names by a tag, with the waiter's class, the end of such a wait, or a declaration (R294). -/
inductive SlotReq where
  | add (v : BitVec 32)
  | fadd (v : BitVec 32)
  | faddLive (v : BitVec 32)
  | cas (e v : BitVec 32)
  | set (v : BitVec 32)
  | wait (tag : Nat) (cond : BitVec 3) (t : BitVec 32) (cls : Nat)
  | unwait (tag : Nat)
  | declare
  deriving DecidableEq, Repr

/-- How another device answers an operation on one of its slots (11 R276, R279, R282): it has performed, and the slot held or holds a
value; the slot is another context's; the wait is armed, or refused for want of a monitor. -/
inductive SlotAns where
  | done (v : BitVec 32)
  | foreign
  | armed
  | refused
  deriving DecidableEq, Repr

/-- What another device asks of a peer port, or tells of itself (16 R339, R341, R356, R357; 09 R242; 11 R277-R295): `slotReply` answers
the operation at a place among those that await a reply, `slotClass` gives the best class of the armed waits on a slot of its own;
`migrating` and `refuse` name a range by address and LOG2, `hole` one that lies in no frame. -/
inductive PeerReq where
  | write (src : Nat) (pa : Nat) (bytes : List Byte)
  | read (src : Nat) (pa : Nat) (len : Nat)
  | marker (src : Nat) (path : Nat)
  | migrating (pa : Nat) (log2 : Nat)
  | repoint (pa : Nat) (log2 : Nat) (target : Nat)
  | page (src : Nat) (ctx : Nat) (va : Nat) (bytes : List (Nat × Byte))
  | discardPage (ctx : Nat) (va : Nat)
  | slotOp (src ctx slot : Nat) (op : SlotReq)
  | slotReply (k : Nat) (ans : SlotAns)
  | slotClass (slot : BitVec 22) (cls : Option Nat)
  | refuse (pa : Nat) (log2 : Nat)
  | hole (pa : Nat) (log2 : Nat)
  deriving DecidableEq, Repr

/-- What the fabric manager asks of F6 (16 R340, R343; 03 R76). -/
inductive RouteReq where
  | route (chip : Nat) (valid : Bool) (paths : BitVec 3)
  | stripe (set : Nat) (chips : List Nat)
  | chipId (id : BitVec 6)
  deriving DecidableEq, Repr

/-- A firmware image (25 R479): its security version and bytes, the vendor's two public keys with which it comes, and its signatures. -/
structure FwImage where
  version : Nat
  bytes : List Byte
  edKey : List Byte
  mlKey : List Byte
  edSig : List Byte
  mlSig : List Byte
  deriving DecidableEq, Repr

/-- The place in which a read finds an error (23 R448); `elem` is the number of the register, tile or shadow entry that it strikes
(23 R450). -/
inductive ErrPlace where
  | l1 (core : Nat) (pa : Nat)
  | l2 (pa : Nat) (slice way : Nat)
  | spill (core bank : Nat)
  | scratch (core bank row sector : Nat)
  | coreState (core bank : Nat) (side : Side) (sub : BitVec 8) (elem : Nat)
  | icache (core : Nat) (pa : Nat)
  | walkerStore (cluster : Nat)
  | staging (cluster w : Nat)
  | fennel (k : Nat)
  | dram (pa : Nat)
  | tag (pa : Nat) (slice way : Nat)
  | l1tag (core : Nat) (pa : Nat)
  deriving DecidableEq, Repr

/-- One constructor per row of the opcode table. Rows whose operands stand in the machine's own state carry none: an event
of a strand, core or cluster acts at the acting place `State.cur`, one of a walker's job at `State.job`, a mailbox request
on the message being served, a recovery operation on RCVCMD and RCVDATA. They stand last. -/
inductive Instr where
  /-- ADD (R114): sD := a + b modulo 2^64. -/
  | add (d a : Reg) (b : Src)
  /-- SUB (R114): sD := a - b modulo 2^64. -/
  | sub (d a : Reg) (b : Src)
  /-- MUL (R114): sD := the low 64 bits of a × b. -/
  | mul (d a : Reg) (b : Src)
  /-- MULH_I (R114): sD := the high 64 bits of the signed 128-bit product. -/
  | mulhI (d a : Reg) (b : Src)
  /-- MULH_N (R114): sD := the high 64 bits of the unsigned 128-bit product. -/
  | mulhN (d a : Reg) (b : Src)
  /-- DIV_I (R115): Signed division that truncates toward zero and never traps. -/
  | divI (d a : Reg) (b : Src)
  /-- DIV_N (R115): Unsigned division that never traps. -/
  | divN (d a : Reg) (b : Src)
  /-- REM_I (R115): Signed remainder that takes the sign of a. -/
  | remI (d a : Reg) (b : Src)
  /-- REM_N (R115): Unsigned remainder. -/
  | remN (d a : Reg) (b : Src)
  /-- AND (R114): Bitwise AND of two scalars. -/
  | and (d a : Reg) (b : Src)
  /-- OR (R114): Bitwise OR of two scalars. -/
  | or (d a : Reg) (b : Src)
  /-- XOR (R114): Bitwise XOR of two scalars. -/
  | xor (d a : Reg) (b : Src)
  /-- ANDN (R114): a AND NOT b. -/
  | andn (d a : Reg) (b : Src)
  /-- SHL (R114): Logical left shift of a scalar. -/
  | shl (d a : Reg) (b : Src)
  /-- SHR (R114): Logical right shift of a scalar. -/
  | shr (d a : Reg) (b : Src)
  /-- SAR (R114): Arithmetic right shift of a scalar. -/
  | sar (d a : Reg) (b : Src)
  /-- ROTL (R114): Left rotation of a scalar. -/
  | rotl (d a : Reg) (b : Src)
  /-- MIN_I (R114): Signed minimum of two scalars. -/
  | minI (d a : Reg) (b : Src)
  /-- MIN_N (R114): Unsigned minimum of two scalars. -/
  | minN (d a : Reg) (b : Src)
  /-- MAX_I (R114): Signed maximum of two scalars. -/
  | maxI (d a : Reg) (b : Src)
  /-- MAX_N (R114): Unsigned maximum of two scalars. -/
  | maxN (d a : Reg) (b : Src)
  /-- CLZ (R114): Counts the leading zero bits of a. -/
  | clz (d a : Reg)
  /-- POPC (R114): Counts the one bits of a. -/
  | popc (d a : Reg)
  /-- BEXT (R116): Extracts a bit field with zero extension. -/
  | bext (d a lo w : Reg)
  /-- BEXT_I (R116): Extracts a bit field with sign extension. -/
  | bextI (d a lo w : Reg)
  /-- BINS (R116): Inserts a bit field into sD. -/
  | bins (d a lo w : Reg)
  /-- LI (R117): Loads a sign-extended 48-bit immediate. -/
  | li (d : Reg) (imm : BitVec 48)
  /-- LI_N (R117): Loads a zero-extended 48-bit immediate. -/
  | liN (d : Reg) (imm : BitVec 48)
  /-- LUI (R117): Loads IMM48 into sD[63:16] and keeps sD[15:0]. -/
  | lui (d : Reg) (imm : BitVec 48)
  /-- LEA (R118): Forms a scaled address a + (b << h). -/
  | lea (d a : Reg) (b : Src) (h : BitVec 3)
  /-- CMP (R119): Compares two scalars under a condition and writes a predicate. -/
  | cmp (c : Cc) (p : BitVec 3) (a : Reg) (b : Src)
  /-- POP_AND (R120): ANDs two predicates. -/
  | popAnd (p : BitVec 3) (x y : Guard)
  /-- POP_OR (R120): ORs two predicates. -/
  | popOr (p : BitVec 3) (x y : Guard)
  /-- POP_XOR (R120): XORs two predicates. -/
  | popXor (p : BitVec 3) (x y : Guard)
  /-- SEL (R121): Chooses between sA and b by a selector predicate, under a guard. -/
  | sel (g : Guard) (d : Reg) (c : Guard) (a : Reg) (b : Src)
  /-- BR (R123): Guarded PC-relative branch. -/
  | br (g : Guard) (disp : BitVec 32)
  /-- JMP_DIRECT (R123): Guarded PC-relative jump. -/
  | jmpDirect (g : Guard) (disp : BitVec 32)
  /-- JMP_INDIRECT (R123): Guarded jump through the byte address in sA. -/
  | jmpIndirect (g : Guard) (a : Reg)
  /-- CALL_DIRECT (R123): Guarded PC-relative call that links into s63. -/
  | callDirect (g : Guard) (disp : BitVec 32)
  /-- CALL_INDIRECT (R123): Guarded call through sA that links into s63. -/
  | callIndirect (g : Guard) (a : Reg)
  /-- RET (R123): Guarded return through sA, by default s63. -/
  | ret (g : Guard) (a : Reg)
  /-- LOOP (R124): Closes a counted loop over LOOPC. -/
  | loop (disp : BitVec 32)
  /-- LOOPR (R125): Closes a counted loop and turns the rotating register ring. -/
  | loopr (disp : BitVec 32)
  /-- BQPUSH (R127): Pushes a predicate value to bq. -/
  | bqpush (g : Guard)
  /-- BQBR (R128): Pops bq and branches when the bit is 1. -/
  | bqbr (disp : BitVec 32)
  /-- QPUSH (R129): Pushes a scalar to aq or xq. -/
  | qpush (a : Reg)
  /-- QPOP (R129): Pops the head of xq or aq into a scalar. -/
  | qpop (d : Reg)
  /-- SRGET (R132): Reads a system register. -/
  | srget (d : Reg) (n : BitVec 6)
  /-- SRSET (R132): Writes a system register, checking its limits. -/
  | srset (n : BitVec 6) (a : Src)
  /-- WAITT (R133): Holds the strand until DT reaches an absolute target. -/
  | waitt (a : Reg) (b : Src)
  /-- WAITT_REL (R133): Holds the strand until DT reaches a target relative to issue. -/
  | waittRel (a : Reg) (b : Src)
  /-- TRAP (R136): Raises ILL 0x41 with a program code, fatal to the context. -/
  | trap (code : BitVec 16)
  /-- VADD (R145): Element-wise addition of vectors. -/
  | vadd (o : VOp) (d a b : Opd)
  /-- VSUB (R145): Element-wise subtraction of vectors. -/
  | vsub (o : VOp) (d a b : Opd)
  /-- VMUL (R145): Element-wise multiplication of vectors. -/
  | vmul (o : VOp) (d a b : Opd)
  /-- VFMA (R145): Element-wise fused multiply-add into D. -/
  | vfma (o : VOp) (d a b : Opd)
  /-- VMIN (R145): Element-wise minimum of vectors. -/
  | vmin (o : VOp) (d a b : Opd)
  /-- VMAX (R145): Element-wise maximum of vectors. -/
  | vmax (o : VOp) (d a b : Opd)
  /-- VABS (R145): Element-wise absolute value. -/
  | vabs (o : VOp) (d a : Opd)
  /-- VEXP2 (R147): Element-wise 2^x by the algorithm of R47. -/
  | vexp2 (o : VOp) (d a : Opd)
  /-- VLOG2 (R147): Element-wise log2 by the algorithm of R48. -/
  | vlog2 (o : VOp) (d a : Opd)
  /-- VRCP (R147): Element-wise reciprocal by the algorithm of R49. -/
  | vrcp (o : VOp) (d a : Opd)
  /-- VRSQ (R147): Element-wise reciprocal square root by the algorithm of R50. -/
  | vrsq (o : VOp) (d a : Opd)
  /-- VCVT (R148): Converts one part of a vector between element types. -/
  | vcvt (o : VOp) (d a : Opd) (p : BitVec 3) (u : BitVec 4)
  /-- VMXQ (R149): Quantises 32 FP32 elements into one MX block and its scale byte. -/
  | vmxq (o : VOp) (d a : Opd) (s : Reg) (p : BitVec 3)
  /-- VMXD (R150): Dequantises one MX block into FP32 elements. -/
  | vmxd (o : VOp) (d a : Opd) (s : Reg) (p : BitVec 3)
  /-- VCMP (R151): Compares vectors element-wise and writes a lane mask. -/
  | vcmp (o : VOp) (g : BitVec 3) (a b : Opd)
  /-- VSEL (R152): Selects each element from A or B by a lane mask. -/
  | vsel (o : VOp) (d a b : Opd)
  /-- VAND (R153): Bitwise AND of the active elements. -/
  | vand (o : VOp) (d a b : Opd)
  /-- VOR (R153): Bitwise OR of the active elements. -/
  | vor (o : VOp) (d a b : Opd)
  /-- VXOR (R153): Bitwise XOR of the active elements. -/
  | vxor (o : VOp) (d a b : Opd)
  /-- VSHL (R154): Element-wise left shift. -/
  | vshl (o : VOp) (d a b : Opd)
  /-- VSHR (R154): Element-wise logical right shift. -/
  | vshr (o : VOp) (d a b : Opd)
  /-- VSAR (R154): Element-wise arithmetic right shift. -/
  | vsar (o : VOp) (d a b : Opd)
  /-- VRED (R155): Reduces the active elements by a fixed pairwise tree. -/
  | vred (o : VOp) (op : BitVec 2) (d a : Opd)
  /-- VSCAN (R156): Inclusive scan of the active elements. -/
  | vscan (o : VOp) (op : BitVec 2) (d a : Opd)
  /-- VHIST (R157): Adds a 256-bin histogram of keys into four register rows. -/
  | vhist (o : VOp) (m x : BitVec 6) (a : Opd) (sh : BitVec 4)
  /-- VBCAST (R158): Broadcasts one element to every active element. -/
  | vbcast (o : VOp) (d a : Opd) (i : BIdx)
  /-- VIOTA (R159): Sets each active element to base + index. -/
  | viota (o : VOp) (d : Opd) (b : IBase)
  /-- VPERM (R160): Permutes elements of A by an index vector. -/
  | vperm (o : VOp) (d a b : Opd)
  /-- VSEED (R161): Seeds the 64 lane generators. -/
  | vseed (o : VOp) (a : Reg)
  /-- VRAND (R161): Steps the active lane generators and writes their states. -/
  | vrand (o : VOp) (d : Opd)
  /-- VCLASS (R162): Classifies each floating-point element as a one-hot integer. -/
  | vclass (o : VOp) (d a : Opd)
  /-- VORDER (R163): Maps elements to order-preserving unsigned keys, or back. -/
  | vorder (o : VOp) (inv : Bool) (d a : Opd)
  /-- MMOV (R164): Copies the active elements of a slice or operand into D. -/
  | mmov (o : VOp) (d a : Opd)
  /-- MZERO (R165): Zeroes a whole matrix register. -/
  | mzero (o : VOp) (m : BitVec 6)
  /-- MXPOSE (R166): Transposes a whole matrix register. -/
  | mxpose (o : VOp) (d a : BitVec 6)
  /-- MSHUF (R167): Rebuilds a matrix register from selected rows of another. -/
  | mshuf (o : VOp) (d a : BitVec 6) (b : Opd)
  /-- MMA (R177): Accumulates A × B into a tile chunk by chunk, in port or tile mode. -/
  | mma (m : MmaArgs)
  /-- MMAG (R182): Grouped matrix product with a per-row-block B from an adapter tile. -/
  | mmag (m : MmaArgs)
  /-- AZERO (R185): Clears the cells and/or side registers of a tile. -/
  | azero (t : BitVec 6) (md : ZMode)
  /-- AREAD (R186): Converts tile rows or side registers into matrix register rows. -/
  | aread (r : ARow)
  /-- AWRITE (R187): Writes matrix register rows into tile rows or side registers. -/
  | awrite (r : ARow)
  /-- ASMX (R191): Online softmax step: turns scores into probabilities and advances the running statistics. -/
  | asmx (s o : BitVec 6) (c : BitVec 16)
  /-- ARSC (R192): Rescales each row of a tile by the factor that asmx left. -/
  | arsc (o f : BitVec 6)
  /-- ANORM (R193): Divides each row of a tile by the row sum. -/
  | anorm (o t : BitVec 6)
  /-- ASTAT (R190): Computes row maxima and sums of a tile into side registers. -/
  | astat (x s : BitVec 6) (abs : Bool)
  /-- ABIAS (R189): Adds a column or row bias to every tile cell. -/
  | abias (t m : BitVec 6) (x : BitVec 6) (row : Bool)
  /-- AMOV (R188): Copies tile cells and/or side registers. -/
  | amov (d s : BitVec 6) (md : VMode)
  /-- ASCALE (R189): Multiplies every tile cell by a scalar or a column vector. -/
  | ascale (t r x : BitVec 6) (col : Bool)
  /-- MLD (R217): Moves r pops of a load port into matrix register rows. -/
  | mld (mask : BitVec 3) (m d : BitVec 6) (p : BitVec 3) (r : BitVec 6)
  /-- MST (R217): Pushes r matrix register rows through a store port. -/
  | mst (mask : BitVec 3) (t : BitVec 2) (m d : BitVec 6) (r : BitVec 6)
  /-- PSET (R211): Writes one word of a port's STAGED parameter set. -/
  | pset (wait : BitVec 8) (p : BitVec 4) (w : BitVec 2) (d : Reg)
  /-- PARM (R212): Hands STAGED to ACTIVE or PENDING of a port. -/
  | parm (wait : BitVec 8) (p : BitVec 4)
  /-- PSTOP (R212): Makes a port's ACTIVE and PENDING sets IDLE. -/
  | pstop (wait : BitVec 8) (p : BitVec 4)
  /-- PSTAT (R212): Returns a snapshot of a port's state. -/
  | pstat (wait : BitVec 8) (d : Reg) (p : BitVec 4)
  /-- TDEF (R213): Defines a tile-table entry. -/
  | tdef (d : Reg) (m : MAddr)
  /-- TFREE (R213): Makes a tile-table entry undefined. -/
  | tfree (m : MAddr)
  /-- TSTATE (R213): Returns the state of a tile-table entry. -/
  | tstate (d : Reg) (m : MAddr)
  /-- TFILL (R214): Fills the rows of a tile with a pattern and sets them FULL. -/
  | tfill (d : Reg) (m : MAddr)
  /-- TFILL_EMPTY (R214): Sets every row of a tile EMPTY. -/
  | tfillEmpty (m : MAddr)
  /-- TFILL_FULL (R214): Sets the rows of a tile FULL, except POISON rows. -/
  | tfillFull (m : MAddr)
  /-- LDF (R215): Scratchpad load that waits for a non-EMPTY tag. -/
  | ldf (sz : BitVec 3) (d : Reg) (m : MAddr)
  /-- LDX (R215): Scratchpad load that does not wait on the tag. -/
  | ldx (sz : BitVec 3) (d : Reg) (m : MAddr)
  /-- STE (R215): Scratchpad store that waits for the row not FULL and sets it FULL. -/
  | ste (g : Guard) (sz : BitVec 2) (d : Reg) (m : MAddr)
  /-- STX (R215): Scratchpad store that leaves the tag unchanged. -/
  | stx (g : Guard) (sz : BitVec 2) (d : Reg) (m : MAddr)
  /-- LD (R236): Weak global load through the L1. -/
  | ld (strm : Bool) (sz : BitVec 3) (d : Reg) (m : MAddr)
  /-- ST (R236): Weak global store into the L1. -/
  | st (strm : Bool) (g : Guard) (sz : BitVec 2) (d : Reg) (m : MAddr)
  /-- LDS (R237): Strong load at a scope. -/
  | lds (strm : Bool) (sc : Scope) (sz : BitVec 3) (d : Reg) (m : MAddr)
  /-- STS (R237): Strong store at a scope. -/
  | sts (strm : Bool) (sc : Scope) (g : Guard) (sz : BitVec 2) (d : Reg) (m : MAddr)
  /-- PREF (R239): Prefetches a line into the L1 and home L2, or the L2 only. -/
  | pref (strm : Bool) (m : MAddr)
  /-- PREF_ADAPTER (R239): Queues an address range as a hint to the cluster router. -/
  | prefAdapter (d : Reg) (m : MAddr)
  /-- DISC (R240): Drops lines from the L1 and every L2 slice without write-back. -/
  | disc (d : Reg) (m : MAddr)
  /-- DISCP (R240): Drops pages and returns unbacked pages to UNTOUCHED. -/
  | discp (d : Reg) (m : MAddr)
  /-- CLEAN (R241): Writes dirty L1 bytes of a range down to a scope. -/
  | clean (sc : Scope) (d : Reg) (m : MAddr)
  /-- INVAL (R241): Writes down and invalidates the L1 lines of a range. -/
  | inval (sc : Scope) (d : Reg) (m : MAddr)
  /-- FENCE_REL (R242): Release fence that writes down the whole L1 and gathers flush markers. -/
  | fenceRel (wait : BitVec 8) (sc : Scope)
  /-- FENCE_ACQ (R242): Acquire fence that invalidates valid L1 sectors. -/
  | fenceAcq (wait : BitVec 8) (sc : Scope)
  /-- RBIND (R243): Binds a memory region to a semaphore slot. -/
  | rbind (d : Reg) (m : MAddr)
  /-- RUNBIND (R243): Removes a region binding. -/
  | runbind (d : Reg) (m : MAddr)
  /-- SREL (R244): Writes down the bound regions and then adds to the slot. -/
  | srel (wait : BitVec 8) (sc : Scope) (d b : Reg)
  /-- SACQ (R245): Waits on a slot and then invalidates its bound regions. -/
  | sacq (wait : BitVec 8) (sc : Scope) (d b : Reg)
  /-- L1_EVICTION (R223): The L1 evicts a line on its own, writing its dirty bytes down. -/
  | l1Eviction (core : Nat) (line : Nat)
  /-- CPY (R255): Issues a strided copy to a walker and binds a token. -/
  | cpy (c : CpyArgs) (sig : Bool)
  /-- CPYM (R256): Issues a multicast copy into the landing entries of several cores. -/
  | cpym (wait : BitVec 8) (k : BitVec 3) (rg : Reg) (w : BitVec 2) (waite : Bool) (j : BitVec 2) (mask : BitVec 12)
  /-- CPYT (R259): Issues a copy held until a DT target. -/
  | cpyt (c : CpyArgs)
  /-- CPYG (R260): Issues an indexed gather copy. -/
  | cpyg (wait : BitVec 8) (k : BitVec 3) (rg : Reg) (scratch : Bool) (w : BitVec 2) (waite : Bool)
  /-- WALK (R270): Launches a walk program with parameters on a walker. -/
  | walk (a : WalkArgs)
  /-- PERMIT (R273): Adds permits to the walk program bound to a token. -/
  | permit (wait : BitVec 8) (k : BitVec 3) (n : BitVec 16)
  /-- PERMIT_LAND (R257): Sets up a multicast landing entry. -/
  | permitLand (wait : BitVec 8) (rg : Reg) (j : BitVec 2)
  /-- PERMIT_UNLAND (R257): Clears a multicast landing entry. -/
  | permitUnland (wait : BitVec 8) (j : BitVec 2)
  /-- TOKW (R264): Waits on tokens and optionally sets them IDLE. -/
  | tokw (wait : BitVec 8) (clr : Bool)
  /-- TOKST (R264): Reads a token's status without waiting. -/
  | tokst (wait : BitVec 8) (k : BitVec 3) (d : Reg)
  /-- WLOAD (R269): Loads walker words into the context's control-store partition. -/
  | wload (wait : BitVec 8) (k : BitVec 3) (rg : Reg) (w : BitVec 2)
  /-- WALKER_LIT (R271): Pushes a 15-bit literal. -/
  | walkerLit (v : BitVec 15)
  /-- WALKER_LITX (R271): Extends the top of stack by 10 bits. -/
  | walkerLitx (v : BitVec 10)
  /-- WALKER_LOOP (R271): Opens a counted loop or skips it when the count is zero. -/
  | walkerLoop (v : BitVec 10)
  /-- WALKER_FETCH (R271): Reads global bytes into the staging buffer. -/
  | walkerFetch (v : BitVec 10)
  /-- WALKER_SEND (R271): Lands staging bytes in scratchpad rows of the invoking task. -/
  | walkerSend (v : BitVec 10)
  /-- WALKER_WRITE (R271): Writes staging bytes to global memory. -/
  | walkerWrite (v : BitVec 10)
  /-- WALKER_AWAIT (R271): Waits for n permits and consumes them. -/
  | walkerAwait (v : BitVec 10)
  /-- WALKER_SIGNAL (R271): Adds a value to a slot as a release. -/
  | walkerSignal (v : BitVec 10)
  /-- WALKER_TOK (R271): Completes the program's token early with OK or ERR. -/
  | walkerTok (v : BitVec 10)
  /-- WALKER_CALL (R271): Calls a walker subroutine. -/
  | walkerCall (v : BitVec 10)
  /-- SADD (R279): Adds to a semaphore slot. -/
  | sadd (a : SArgs)
  /-- SFADD (R279): Fetches and adds on a slot. -/
  | sfadd (a : SArgs)
  /-- SFADD_LIVE (R279): Fetch-and-add that refuses an evicted or evicting slot. -/
  | sfaddLive (a : SArgs)
  /-- SCAS (R279): Compares and swaps a slot. -/
  | scas (a : SArgs)
  /-- SSET (R279): Sets a slot. -/
  | sset (a : SArgs)
  /-- SSETM (R284): Sets one slot number in many cores. -/
  | ssetm (g : Guard) (s o : Reg) (mask : BitVec 12) (cluster : BitVec 6) (all : Bool)
  /-- SWAIT (R283): Stalls the A-strand until a slot condition holds. -/
  | swait (c : BitVec 3) (p : BitVec 3) (s o : Reg)
  /-- SWAITV (R283): Waits on a slot condition, suspending the task when it fails. -/
  | swaitv (c : BitVec 3) (p : BitVec 3) (s o : Reg)
  /-- SDECL (R294): Declares or clears the task as a contributor to a slot. -/
  | sdecl (clr : Bool) (s : Reg)
  /-- PRIO (R294): Sets CLASS.SET, clamped to the ceiling. -/
  | prio (c : BitVec 2)
  /-- ENQ (R290): Spawns a continuation record into a stage queue. -/
  | enq (m s : Reg) (stage : BitVec 4) (cls : BitVec 2) (hasCls join : Bool)
  /-- SPLIT_ANY (R288): Ends the task and makes a continuation record. -/
  | splitAny (m s o : Reg) (c : BitVec 3) (slotw : Bool) (kw : BitVec 8)
  /-- SPLIT_HERE (R289): Suspends the task in its bank until a split condition holds. -/
  | splitHere (s o : Reg) (c : BitVec 3) (slotw : Bool) (kw : BitVec 8)
  /-- RETIRE (R293): Ends both strands, optionally retiring the records spawned below the task. -/
  | retire (tree : Bool)
  /-- RECORD_ADMISSION (R291): A waiting continuation record is admitted into a stage queue entry when one frees. -/
  | recordAdmission (launch stage : Nat)
  /-- TASK_DISPATCH (R326): The front end dispatches a record or saved task into an empty bank. -/
  | taskDispatch (launch : Nat)
  /-- GPSET (R330): Writes a graph parameter register of the task's queue. -/
  | gpset (n : BitVec 6) (a b : Reg) (x : Bool)
  /-- GPGET (R330): Reads a graph parameter register of the task's queue. -/
  | gpget (d : Reg) (n : BitVec 6) (b : Reg) (x : Bool)
  /-- XLQ (R361): Queries a translation or the context's reservation accounts. -/
  | xlq (d a : Reg) (res : Bool)
  /-- EQPUSH (R378): Releases a tile slot and pushes its descriptor to the stream's encoder. -/
  | eqpush (d a b : Reg)
  /-- SSLACK (R379): Returns a stream's slack. -/
  | sslack (d a : Reg) (x : Bool)
  /-- SRUNG (R379): Reports a step boundary and returns the rung after evaluation. -/
  | srung (d a : Reg)
  /-- SRUNG_PIN (R379): Sets ANCHOR on a KV window entry. -/
  | srungPin (d a : Reg)
  /-- SRUNG_UNPIN (R379): Clears ANCHOR on a KV window entry. -/
  | srungUnpin (d a : Reg)
  /-- SAMP (R383): Releases and hands a sampler request to a Sorrel engine. -/
  | samp (k : BitVec 3) (a : Reg)
  /-- BPOST (R400): Posts a sibling's answer hash to Shallot. -/
  | bpost (d a : Reg)
  /-- BSTAT (R408): Reads the state of a sibling group. -/
  | bstat (d a : Reg) (x : Bool)
  /-- CKPT (R420): Writes a one-task checkpoint image of the issuing task. -/
  | ckpt (d a b : Reg)
  /-- CKPT_SIZE (R420): Returns the length that ckpt would write. -/
  | ckptSize (d : Reg)
  /-- DBG_ST (R423): Reads the debug status of a task. -/
  | dbgSt (d a : Reg)
  /-- DBG_RD (R423): Reads 8 bytes of a halted task's state. -/
  | dbgRd (d a b : Reg)
  /-- DBG_WR (R423): Writes 8 bytes of a halted task's state where permitted. -/
  | dbgWr (d a b : Reg)
  /-- DBG_HALT (R423): Requests a debug halt of a task. -/
  | dbgHalt (a : Reg)
  /-- DBG_GO (R423): Resumes a halted task when its state passes the checks. -/
  | dbgGo (a : Reg)
  /-- BACKFAULT_RESOLVED (R345): F2 re-tests pending faults after an event and makes the resolved tasks ready. -/
  | backfaultResolved (ctx : Nat)
  /-- BACKFAULT_TIMEOUT (R345): A fault unresolved for the context's timeout terminates the context. -/
  | backfaultTimeout (ctx : Nat)
  /-- TASK_RESTORE (R417): A saved task is streamed into an empty bank and prepared to issue. -/
  | taskRestore (saved : Nat)
  /-- RESIDENCY_ALLOCATE (R350): The residency unit orders an allocating write to an UNTOUCHED page and binds a frame or applies the policy. -/
  | residencyAllocate (ctx : Nat) (va : Nat)
  /-- DOORBELL (R315): A host write of a queue doorbell sets TAIL or puts the queue into ERROR. -/
  | doorbell (fn q : Nat) (width : Nat) (v : Word)
  /-- LAUNCH (R320): Checks and restores a checkpoint image as a launch. -/
  | launch (c : Cmd)
  /-- REPLAY (R331): Runs a recorded graph of commands, patched from a snapshot of gp0-gp63. -/
  | replay (c : Cmd)
  /-- SETGP (R317): Sets one graph parameter register of the queue. -/
  | setgp (c : Cmd)
  /-- SPECDEPTH (R317): Sets SPECDEPTH.PEND for the context. -/
  | specdepth (c : Cmd)
  /-- FENCE_IB (R334): Discards prefetched indirect buffers of later commands. -/
  | fenceIb (c : Cmd)
  /-- WAIT (R317): Polls a 64-bit word until it reaches a target, then acquires. -/
  | wait (c : Cmd)
  /-- SIGNAL (R317): Only completes. -/
  | signal (c : Cmd)
  /-- SLOTFREE (R317): Frees a list of owned, unwaited slots. -/
  | slotfree (c : Cmd)
  /-- COMMAND_COMPLETION (R318): After a command's work ends, its cores write down their L1s and the status and SEQ are release-stored. -/
  | commandCompletion (q : Nat)
  /-- MAPLOAD (R358): Replaces a context's whole translation table. -/
  | mapload (c : Cmd)
  /-- MAPSET (R358): Writes one translation entry. -/
  | mapset (c : Cmd)
  /-- RESERVE (R358): Sets a context's residency reservation and fault timeout. -/
  | reserve (c : Cmd)
  /-- LATEPOOL (R352): Appends frames to a context's late-frame pool. -/
  | latepool (c : Cmd)
  /-- MIGRATE (R356): Moves an UNBACKED extent to a peer device. -/
  | migrate (c : Cmd)
  /-- STREAM_OPEN (R364): Reads a stream descriptor, binds an encoder and opens the stream. -/
  | streamOpen (c : Cmd)
  /-- STREAM_CLOSE (R364): Stops frame starts and completes when started frames are done. -/
  | streamClose (c : Cmd)
  /-- STREAM_UPDATE (R364): Replaces a stream's rise margin, deadline and ladder at the next frame start. -/
  | streamUpdate (c : Cmd)
  /-- FRAME_START (R367): At S_n Chard applies the ladder, slides the window and replays the rung's graph. -/
  | frameStart (st : Nat)
  /-- ENCODER_TILE_READ (R376): The encoder reads a pushed tile, drops its lines and adds 1 to CREDIT. -/
  | encoderTileRead (st : Nat)
  /-- FRAME_COMPLETE (R369): The encoder writes the bitstream and record and release-stores SEQ; Chard counts and refines estimates. -/
  | frameComplete (st : Nat)
  /-- DECODE (R381): A decoder decodes one picture into tiles. -/
  | decode (c : Cmd)
  /-- SAMPLER_REQUEST (R389): A Sorrel engine starts a request and runs its stage pipeline, acceptance and draw. -/
  | samplerRequest (engine : Nat)
  /-- GROUP_OPEN (R397): Opens a sibling group and attaches its prefix references. -/
  | groupOpen (c : Cmd)
  /-- GROUP_CLOSE (R405): Cancels running siblings and closes the group when it can. -/
  | groupClose (c : Cmd)
  /-- SIBLING_RELEASE (R404): A cancelled sibling's private range is discarded and its prefix reference dropped. -/
  | siblingRelease (gid i : Nat)
  /-- GROUP_RECORD (R406): At close Shallot writes the group record and release-stores SEQ. -/
  | groupRecord (gid : Nat)
  /-- DEBUG (R421): Enables or disables debugging for a context. -/
  | debug (c : Cmd)
  /-- CTXRESET (R467): Resets a context as termination does, with a wipe and no fault record. -/
  | ctxreset (c : Cmd)
  /-- ATTEST (R481): F5 writes a signed attestation report. -/
  | attest (c : Cmd)
  /-- L2_PATROL_SCRUB (R447): The patrol scrubber reads the next line of its slice. -/
  | l2PatrolScrub (slice : Nat)
  /-- MEMORY_SCRUB (R447): A memory controller scrubs the next sector of device memory. -/
  | memoryScrub (pa : Nat)
  /-- ERROR_HANDLING (R469): F3 writes the fault record, retires the page and requests termination of the owner. -/
  | errorHandling (corrected : Bool) (p : ErrPlace)
  /-- CONTEXT_TERMINATION (R452): A context's work, lines, slots and tables are ended and freed, leaving others untouched. -/
  | contextTermination (ctx : Nat)
  /-- WAY_QUARANTINE (R458): A failing L2 way is drained, its frames withdrawn and reservations recomputed. -/
  | wayQuarantine (slice way : Nat)
  /-- MBOUT_HEAD (R460): The host consumes outbound messages, making room for waiting posts. -/
  | mboutHead (fn : Nat) (v : Word)
  /-- MBIN_TAIL (R460): The host posts inbound requests, unless the write overfills or moves back. -/
  | mbinTail (fn : Nat) (v : Word)
  /-- REGISTER_WRITE (R6): A write to a register that has no row of its own, such as MBCTL, HBSTAT or RCVDATA. -/
  | registerWrite (fn off : Nat) (v : Word)
  /-- WATCHDOG_HANG (R463): A Fennel core is declared hung or crashed, dispatch freezes and recovery is raised. -/
  | watchdogHang (k : Nat) (crash : Bool)
  /-- POWER_BOUNDARY (R475): F4 measures module power and lowers or raises island operating points. -/
  | powerBoundary (mw : Nat)
  /-- OPERATING_POINT_CHANGE (R474): An island's new clock and voltage take effect at a cc boundary. -/
  | operatingPointChange (cluster mhz : Nat)
  /-- TEMPERATURE_SAMPLE (R477): An island's temperature is sampled and its limits applied. -/
  | temperatureSample (cluster deg : Nat)
  /-- VOLTAGE_DROOP (R477): A supply droop stretches the island's clock until it recovers. -/
  | voltageDroop (cluster : Nat)
  /-- PTM_SYNC (R488): PTM on port 0 adjusts DT by at most one tick per 4096 ticks. -/
  | ptmSync (add skip : Bool)
  /-- CONTEXT_RESET (R467): A function-level reset of a virtual function resets its context. -/
  | contextReset (ctx : Nat)
  /-- FIRMWARE_LOAD (R479): After the wipe, the boot ROM and F5 verify the firmware images, those of F0 to F7 and the recovery copy, or enter
  BOOTFAIL. -/
  | firmwareLoad (images : List FwImage)
  /-- HOST_MEMORY_WRITE (R233): A host write to device memory through port 0 performs at the home L2, possibly as a page's allocating access. -/
  | hostMemoryWrite (ctx : Nat) (va : Nat) (bytes : List Byte)
  /-- PEER_PORT_REQUEST (R341): A memory request, flush marker, migration notice or page transfer from another device arrives on a peer port and is performed or gathered here. -/
  | peerPortRequest (r : PeerReq)
  /-- ROUTING_TABLE_UPDATE (R340): On the fabric manager's instruction, F6 programs a routing entry, a stripe set or the chip id. -/
  | routingTableUpdate (r : RouteReq)
  /-- LPDDR_TRAINING_DONE (R484): An LPDDR-6 package finishes training or fails, setting DEVSTAT.LPTRAINED or an LPFAIL bit. -/
  | lpddrTrainingDone (k : Nat) (passed : Bool)
  /-- CXL_LINK_CHANGE (R484): A CXL port links up, times out or goes down, changing DEVSTAT.CXL0 or CXL1 and the frames of its window. -/
  | cxlLinkChange (port : Nat) (up : Bool) (cap : Nat)
  /-- DROOP_RECOVERY (R477): The island supply recovers after a droop and the clock stretch ends. -/
  | droopRecovery (cluster : Nat)
  /-- NOP (R138): Does nothing and takes an S slot. -/
  | nop
  /-- WAITT_HOLD_END (R133): DT reaches the waitt target and the held strand issues again. -/
  | waittHoldEnd
  /-- END (R135): Ends the issuing strand. -/
  | end_
  /-- BRK (R137): Breakpoint: raises DBG when debugging is enabled, otherwise acts as nop. -/
  | brk
  /-- HINT_SERVE (R239): An idle walker brings the lines of a queued hint range into their home L2. -/
  | hintServe
  /-- CPYT_DUE (R259): A timed copy falls due and enters its walker's accept queue. -/
  | cpytDue
  /-- COPY_ROW (R248): A walker reads one record row and writes or lands it, waiting on tags and reservations. -/
  | copyRow
  /-- TOKEN_COMPLETE (R263): A copy or walk program completes and its token leaves PENDING. -/
  | tokenComplete
  /-- WALKER_DUP (R271): Duplicates the top of stack. -/
  | walkerDup
  /-- WALKER_DROP (R271): Pops the top of stack. -/
  | walkerDrop
  /-- WALKER_SWAP (R271): Exchanges the top two entries. -/
  | walkerSwap
  /-- WALKER_OVER (R271): Pushes a copy of the second entry. -/
  | walkerOver
  /-- WALKER_ADD (R271): Adds the top two entries. -/
  | walkerAdd
  /-- WALKER_SUB (R271): Subtracts the top entry from the second. -/
  | walkerSub
  /-- WALKER_MUL (R271): Multiplies the top two entries. -/
  | walkerMul
  /-- WALKER_SHL (R271): Shifts the second entry left by the top. -/
  | walkerShl
  /-- WALKER_AND (R271): ANDs the top two entries. -/
  | walkerAnd
  /-- WALKER_ENDL (R271): Closes a counted loop. -/
  | walkerEndl
  /-- WALKER_RET (R271): Returns from a walker subroutine. -/
  | walkerRet
  /-- WALKER_HALT (R270): Ends the program or continues once at CHAIN. -/
  | walkerHalt
  /-- WALKER_LAUNCH_DONE (R271): A fetch, send or write launch completes and the walk program continues. -/
  | walkerLaunchDone
  /-- SLOT_OPERATION (R277): A semaphore operation arrives at its slot's file, performs in one step and is checked for ownership. -/
  | slotOperation
  /-- REMOTE_WAIT_RETRY (R282): A remote wait refused for want of a monitor is re-sent after 256 uncore cycles. -/
  | remoteWaitRetry
  /-- YIELD (R289): Suspends the task with a condition that holds at once. -/
  | yield
  /-- TASK_RETIREMENT (R292): A task whose strands have ended and whose work has drained retires, freeing its bank. -/
  | taskRetirement
  /-- BANK_SWITCH (R295): The picker switches issue to the standby bank at a group boundary. -/
  | bankSwitch
  /-- BCHK (R408): Cancellation point with no other effect. -/
  | bchk
  /-- TASK_SAVE (R416): A task is stopped and its state streamed into the save area. -/
  | taskSave
  /-- SHADOW_ENTRY_PERFORM (R413): A shadow entry writes its NEW cells in resumed issue cycle REM. -/
  | shadowEntryPerform
  /-- STAGE_BALANCER (R328): Every 4096 ticks the balancer may move one core per cluster per launch between stages. -/
  | stageBalancer
  /-- BALLOT_APPLY (R401): Shallot applies a post and decides the group when a hash reaches quorum. -/
  | ballotApply
  /-- QRESET (R314): Resets a queue in ERROR, discarding its ring contents. -/
  | qreset
  /-- QCREATE (R313): Creates a command queue for a context. -/
  | qcreate
  /-- QDESTROY (R461): Destroys an idle queue and frees its number. -/
  | qdestroy
  /-- LCREQ (R483): Requests a life-cycle transition, checking any token and starting the wipe. -/
  | lcreq
  /-- LIFECYCLE_WIPE_DONE (R482): The transition wipe completes and the new life-cycle state takes effect. -/
  | lifecycleWipeDone
  /-- DBGREQ (R421): F7 serves a debug operation from a host mailbox. -/
  | dbgreq
  /-- FLTREAD (R461): Returns one fault record of the ring. -/
  | fltread
  /-- UNKNOWN_MAILBOX_REQUEST (R461): A request of an unknown or inadmissible type receives a reply with STATUS 0xFFFF_FFFF. -/
  | unknownMailboxRequest
  /-- ENTER_HOST_DRIVEN_MODE (R464): RCVCMD OP 0x01 enters host-driven mode. -/
  | enterHostDrivenMode
  /-- RUN_ONE_COMMAND (R465): RCVCMD OP 0x02 runs one command in a named queue. -/
  | runOneCommand
  /-- RESTART_FENNEL_CORES (R466): RCVCMD OP 0x03 restarts Fennel cores from the verified firmware image. -/
  | restartFennelCores
  /-- LEAVE_HOST_DRIVEN_MODE (R466): RCVCMD OP 0x04 resumes dispatch and ring reading. -/
  | leaveHostDrivenMode
  /-- READ_FAULT_RECORD (R464): RCVCMD OP 0x05 reads one fault record into RCVDATA. -/
  | readFaultRecord
  /-- READ_DEVICE_MEMORY (R464): RCVCMD OP 0x06 reads 64 bytes of device memory into RCVDATA. -/
  | readDeviceMemory
  /-- DEVICE_RESET (R467): A hot reset, physical-function reset or I3C reset wipes volatile state and starts bring-up. -/
  | deviceReset
  /-- FULL_SERVICE (R486): Once memories have trained and links settled, full service begins at one tick. -/
  | fullService
  /-- POWER_UP (R455): Module power returns after a loss and the device starts bring-up with its non-volatile store intact. -/
  | powerUp
  deriving DecidableEq, Repr

end Sys2Proof
end

