-- ==== Sys2Proof/Decode.lean ====
section
/-! DEFINITION. Decoding and encoding of instruction words (04 R78-R98 and the encodings of the home chapters), walker
words (10 R271) and 64-byte commands (15 R316). A decode answers the instruction or the ILL subcode of 04 R98; where a
word meets several conditions the lowest subcode is answered (04 R83). Conditions that depend on the strand, on the
other words of the group or on machine state (0x05-0x08, 0x21, 0x22, and 0x0D of a write not permitted) are checked on
the decoded group in `Machine/Group.lean`. -/

namespace Sys2Proof

/-- What a core word decodes to: an instruction, an ILL subcode of 04 R98 beside the instruction that the word's fields
name (its names still count in the dependence check of 04 R82), or an ILL subcode of a code that names no instruction. -/
inductive Decoded where
  | ok (i : Instr)
  | flawed (sub : Nat) (i : Instr)
  | ill (sub : Nat)
  deriving DecidableEq, Repr

/-- The lowest subcode among the conditions that hold (04 R83). -/
def lowestSub : List (Bool × Nat) → Option Nat
  | [] => none
  | (c, n) :: r =>
    match lowestSub r with
    | none => if c then some n else none
    | some m => if c && decide (n ≤ m) then some n else some m

/-- The instruction when no condition holds, else the lowest subcode. -/
def judge (l : List (Bool × Nat)) (i : Instr) : Decoded :=
  match lowestSub l with
  | none => .ok i
  | some n => .flawed n i

/-- Bits [lo + len - 1 : lo] of a word (00 R5). -/
def fld (w : BitVec 64) (lo len : Nat) : BitVec len := w.extractLsb' lo len

/-- One bit as a Bool. -/
def bitAt (w : BitVec 64) (n : Nat) : Bool := w.getLsbD n

/-- A Bool as a one-bit field. -/
def b1 (b : Bool) : BitVec 1 := BitVec.ofBool b

/-- The stop bit S (04 R78). -/
def stopBit (w : BitVec 64) : Bool := bitAt w 63

/-! ### SX, SL and BR formats (04 R85-R87) -/

/-- Second operand of an SX word (05 R112). -/
def srcOf (w : BitVec 64) : Src :=
  if bitAt w 33 then .imm (fld w 0 33) else .reg (fld w 27 6)

/-- [26:0] is nonzero though I = 0 (04 R85). -/
def sxPad (w : BitVec 64) : Bool := !bitAt w 33 && fld w 0 27 != 0

/-- Low 34 bits of an SX word: I, and B or IMM33. -/
def srcBits : Src → BitVec 34
  | .reg r => (0#1 ++ r ++ 0#27 : BitVec 34)
  | .imm v => (1#1 ++ v : BitVec 34)

/-- An SX word (04 R85). -/
def sxWord (s : Bool) (maj : BitVec 7) (fn : BitVec 6) (grd : BitVec 4) (d a : BitVec 6) (low : BitVec 34) :
    BitVec 64 := (b1 s ++ maj ++ fn ++ grd ++ d ++ a ++ low : BitVec 64)

/-- An SL word (04 R86). -/
def slWord (s : Bool) (maj : BitVec 7) (d : BitVec 6) (fn : BitVec 2) (imm : BitVec 48) : BitVec 64 :=
  (b1 s ++ maj ++ d ++ fn ++ imm : BitVec 64)

/-- A BR word (04 R87). -/
def brWord (s : Bool) (maj : BitVec 7) (grd : BitVec 4) (fn a : BitVec 6) (disp : BitVec 32) : BitVec 64 :=
  (b1 s ++ maj ++ grd ++ fn ++ a ++ 0#8 ++ disp : BitVec 64)

/-- A shift immediate outside 0-63 (05 R114). -/
def shiftBad : Src → Bool
  | .reg _ => false
  | .imm v => decide (63 < v.toNat)

/-- Whether a Src is an immediate. -/
def Src.isImm : Src → Bool
  | .reg _ => false
  | .imm _ => true

/-- MAJ 0x01 (05 R114). -/
def decodeAlu (w : BitVec 64) : Decoded :=
  let d := fld w 40 6; let a := fld w 34 6; let b := srcOf w
  let g := fld w 46 4 != 0; let r := sxPad w
  let two (i : Instr) : Decoded := judge [(r, 3), (g, 4)] i
  let sh (i : Instr) : Decoded := judge [(r, 3), (g, 4), (shiftBad b, 14)] i
  let one (i : Instr) : Decoded := judge [(fld w 0 34 != 0, 3), (g, 4)] i
  match (fld w 50 6).toNat with
  | 0 => two (.add d a b)
  | 1 => two (.sub d a b)
  | 2 => two (.mul d a b)
  | 3 => two (.mulhI d a b)
  | 4 => two (.mulhN d a b)
  | 5 => two (.divI d a b)
  | 6 => two (.divN d a b)
  | 7 => two (.remI d a b)
  | 8 => two (.remN d a b)
  | 9 => two (.and d a b)
  | 10 => two (.or d a b)
  | 11 => two (.xor d a b)
  | 12 => two (.andn d a b)
  | 13 => sh (.shl d a b)
  | 14 => sh (.shr d a b)
  | 15 => sh (.sar d a b)
  | 16 => sh (.rotl d a b)
  | 17 => two (.minI d a b)
  | 18 => two (.minN d a b)
  | 19 => two (.maxI d a b)
  | 20 => two (.maxN d a b)
  | 21 => one (.clz d a)
  | 22 => one (.popc d a)
  | _ => .ill 2

/-- MAJ 0x02 (05 R116): I = 1, low bit and width - 1 in IMM33[11:0]. -/
def decodeBits (w : BitVec 64) : Decoded :=
  let d := fld w 40 6; let a := fld w 34 6; let lo := fld w 0 6; let wd := fld w 6 6
  let bad := [(!bitAt w 33, 3), (fld w 12 21 != 0, 3), (fld w 46 4 != 0, 4), (decide (64 < lo.toNat + wd.toNat + 1), 14)]
  match (fld w 50 6).toNat with
  | 0 => judge bad (.bext d a lo wd)
  | 1 => judge bad (.bextI d a lo wd)
  | 2 => judge bad (.bins d a lo wd)
  | _ => .ill 2

/-- The condition of a `cmp` FN (05 R119). -/
def ccOf (n : Nat) : Option Cc :=
  [Cc.eq, .ne, .ltI, .geI, .ltN, .geN, .leI, .gtI, .leN, .gtN, .tst, .ntst][n]?

/-- The FN of a `cmp` condition. -/
def ccBits : Cc → BitVec 6
  | .eq => 0 | .ne => 1 | .ltI => 2 | .geI => 3 | .ltN => 4 | .geN => 5
  | .leI => 6 | .gtI => 7 | .leN => 8 | .gtN => 9 | .tst => 10 | .ntst => 11

/-- MAJ 0x06 (05 R119). -/
def decodeCmp (w : BitVec 64) : Decoded :=
  match ccOf (fld w 50 6).toNat with
  | none => .ill 2
  | some c => judge [(sxPad w, 3), (fld w 43 3 != 0, 3), (fld w 46 4 != 0, 4)] (.cmp c (fld w 40 3) (fld w 34 6) (srcOf w))

/-- MAJ 0x07 (05 R120): predicates in D[42:40], A[37:34], B[30:27]. -/
def decodePop (w : BitVec 64) : Decoded :=
  let bad := [(bitAt w 33, 3), (sxPad w, 3), (fld w 43 3 != 0, 3), (fld w 38 2 != 0, 3), (fld w 31 2 != 0, 3),
    (fld w 46 4 != 0, 4)]
  let d := fld w 40 3; let x := fld w 34 4; let y := fld w 27 4
  match (fld w 50 6).toNat with
  | 0 => judge bad (.popAnd d x y)
  | 1 => judge bad (.popOr d x y)
  | 2 => judge bad (.popXor d x y)
  | _ => .ill 2

/-- A `pop` word. -/
def popWord (s : Bool) (fn : BitVec 6) (d : BitVec 3) (x y : Guard) : BitVec 64 :=
  sxWord s 7 fn 0 (0#3 ++ d : BitVec 6) (0#2 ++ x : BitVec 6) (0#3 ++ y ++ 0#27 : BitVec 34)

/-- BR majors 0x10-0x17 (05 R123-R128). -/
def decodeBr (maj : Nat) (w : BitVec 64) : Decoded :=
  let g := fld w 52 4; let a := fld w 40 6; let disp := fld w 0 32
  let r := fld w 32 8 != 0; let az := a != 0; let dz := disp != 0; let gz := g != 0
  match maj, (fld w 46 6).toNat with
  | 0x10, 0 => judge [(r, 3), (az, 3)] (.br g disp)
  | 0x11, 0 => judge [(r, 3), (az, 3)] (.jmpDirect g disp)
  | 0x11, 1 => judge [(r, 3), (dz, 3)] (.jmpIndirect g a)
  | 0x12, 0 => judge [(r, 3), (az, 3)] (.callDirect g disp)
  | 0x12, 1 => judge [(r, 3), (dz, 3)] (.callIndirect g a)
  | 0x13, 0 => judge [(r, 3), (dz, 3)] (.ret g a)
  | 0x14, 0 => judge [(r, 3), (az, 3), (gz, 4)] (.loop disp)
  | 0x15, 0 => judge [(r, 3), (az, 3), (gz, 4)] (.loopr disp)
  | 0x16, 0 => judge [(r, 3), (az, 3), (dz, 3)] (.bqpush g)
  | 0x17, 0 => judge [(r, 3), (az, 3), (gz, 4)] (.bqbr disp)
  | _, _ => .ill 2

/-- The other SX and SL majors (05). -/
def decodeScalar (maj : Nat) (w : BitVec 64) : Decoded :=
  let fn := fld w 50 6; let d := fld w 40 6; let a := fld w 34 6
  let gz := fld w 46 4 != 0; let r := sxPad w; let lz := fld w 0 34 != 0
  match maj with
  | 0x00 => if fn != 0 then .ill 2 else judge [(fld w 0 46 != 0, 3), (gz, 4)] .nop
  | 0x01 => decodeAlu w
  | 0x02 => decodeBits w
  | 0x03 =>
    match (fld w 48 2).toNat with
    | 0 => .ok (.li (fld w 50 6) (fld w 0 48))
    | 1 => .ok (.liN (fld w 50 6) (fld w 0 48))
    | _ => .ill 2
  | 0x04 => if fld w 48 2 != 0 then .ill 2 else .ok (.lui (fld w 50 6) (fld w 0 48))
  | 0x05 => if decide (4 < fn.toNat) then .ill 2 else judge [(r, 3), (gz, 4)] (.lea d a (srcOf w) (fld w 50 3))
  | 0x06 => decodeCmp w
  | 0x07 => decodePop w
  | 0x08 => judge [(r, 3), (fld w 54 2 != 0, 3)] (.sel (fld w 46 4) d (fld w 50 4) a (srcOf w))
  | 0x18 => if fn != 0 then .ill 2 else judge [(d != 0, 3), (lz, 3), (gz, 4)] (.qpush a)
  | 0x19 => if fn != 0 then .ill 2 else judge [(a != 0, 3), (lz, 3), (gz, 4)] (.qpop d)
  | 0x1A => judge [(a != 0, 3), (lz, 3), (gz, 4), (decide (0x15 < fn.toNat), 13)] (.srget d fn)
  | 0x1B =>
    let src : Src := if bitAt w 33 then .imm (fld w 0 33) else .reg a
    judge [(d != 0, 3), (bitAt w 33 && a != 0, 3), (!bitAt w 33 && lz, 3), (gz, 4), (decide (0x15 < fn.toNat), 13)]
      (.srset fn src)
  | 0x1C =>
    match fn.toNat with
    | 0 => judge [(r, 3), (d != 0, 3), (gz, 4)] (.waitt a (srcOf w))
    | 1 => judge [(r, 3), (d != 0, 3), (gz, 4)] (.waittRel a (srcOf w))
    | _ => .ill 2
  | 0x1D => if fn != 0 then .ill 2 else judge [(fld w 0 46 != 0, 3), (gz, 4)] .end_
  | 0x1E => if fn != 0 then .ill 2 else
      judge [(!bitAt w 33, 3), (fld w 16 17 != 0, 3), (a != 0, 3), (d != 0, 3), (gz, 4)] (.trap (fld w 0 16))
  | _ => if fn != 0 then .ill 2 else judge [(fld w 0 46 != 0, 3), (gz, 4)] .brk

/-! ### V format (04 R88, R89; 06 R142, R143) -/

/-- An operand descriptor (04 R89). -/
def opdOf (b : BitVec 15) : Opd :=
  if b.getLsbD 14 then
    match (b.extractLsb' 10 4).toNat with
    | 12 => .aq
    | 13 => .sreg (b.extractLsb' 0 6)
    | 14 => .const (b.extractLsb' 0 10)
    | 15 => .zero
    | k => if k < 8 then .loadPort (b.extractLsb' 10 3) else .storePort (b.extractLsb' 10 2)
  else .slice (b.extractLsb' 12 2) (b.extractLsb' 6 6) (b.extractLsb' 0 6)

/-- A reserved bit of an operand descriptor is nonzero (04 R84, R89). -/
def opdPad (b : BitVec 15) : Bool :=
  b.getLsbD 14 &&
    match (b.extractLsb' 10 4).toNat with
    | 13 => b.extractLsb' 6 4 != 0
    | 14 => false
    | _ => b.extractLsb' 0 10 != 0

/-- The bits of an operand (04 R89). -/
def opdBits : Opd → BitVec 15
  | .slice dir m x => (0#1 ++ dir ++ m ++ x : BitVec 15)
  | .loadPort q => (0b10#2 ++ q ++ 0#10 : BitVec 15)
  | .storePort t => (0b110#3 ++ t ++ 0#10 : BitVec 15)
  | .aq => (0b11100#5 ++ 0#10 : BitVec 15)
  | .sreg r => (0b11101#5 ++ 0#4 ++ r : BitVec 15)
  | .const i => (0b11110#5 ++ i : BitVec 15)
  | .zero => (0b11111#5 ++ 0#10 : BitVec 15)

/-- A destination is a slice or a store port (06 R142, R143). -/
def Opd.isDest : Opd → Bool
  | .slice _ _ _ => true
  | .storePort _ => true
  | _ => false

/-- A source is anything but a store port (04 R89). -/
def Opd.isSource : Opd → Bool
  | .storePort _ => false
  | _ => true

/-- A slice. -/
def Opd.isSlice : Opd → Bool
  | .slice _ _ _ => true
  | _ => false

/-- A slice or a load port. -/
def Opd.isSliceOrLoad : Opd → Bool
  | .slice _ _ _ => true
  | .loadPort _ => true
  | _ => false

/-- The shared V fields. -/
def vopOf (w : BitVec 64) : VOp := { ty := fld w 52 4, rnd := fld w 49 3, sat := bitAt w 48, mask := fld w 45 3 }

/-- A V word. -/
def vWord (s : Bool) (maj : BitVec 7) (v : VOp) (d a b : BitVec 15) : BitVec 64 :=
  (b1 s ++ maj ++ v.ty ++ v.rnd ++ b1 v.sat ++ v.mask ++ d ++ a ++ b : BitVec 64)

/-- The type sets of 06 R142. -/
def tyF (t : Nat) : Bool := t < 3
def tyI (t : Nat) : Bool := 6 ≤ t && t ≤ 11
def tyW (t : Nat) : Bool := t < 3 || (8 ≤ t && t ≤ 11)
def tyX (t : Nat) : Bool := t < 12
def tyM (t : Nat) : Bool := 12 ≤ t && t ≤ 14

/-- Bits of an element of a type (06 R141). -/
def tyBits (t : Nat) : Nat :=
  match t with
  | 0 | 10 | 11 => 32
  | 1 | 2 | 8 | 9 => 16
  | 5 | 13 => 4
  | _ => 8

/-- Elements of a type in a vector (06 R141). -/
def tyCount (t : Nat) : Nat := 1024 / tyBits t

/-- The part limit of `vcvt` (06 R148). -/
def cvtParts (t u : Nat) : Nat :=
  if tyCount u ≤ tyCount t then tyCount t / tyCount u else tyCount u / tyCount t

/-- A whole-register operand: DIR 00, index 0 (06 R142). -/
def wholeBad (b : BitVec 15) : Bool :=
  b.getLsbD 14 || b.extractLsb' 12 2 != 0 || b.extractLsb' 0 6 != 0

/-- The descriptor of a whole register. -/
def wholeBits (m : BitVec 6) : BitVec 15 := (0#3 ++ m ++ 0#6 : BitVec 15)

/-- The KIND 1101 descriptor with a part number in [8:6] (06 R142, R149). -/
def partBits (s : Reg) (q : BitVec 3) : BitVec 15 := (0b11101#5 ++ 0#1 ++ q ++ s : BitVec 15)

/-- Descriptor bits of a `vbcast` index (06 R158). -/
def bidxBits : BIdx → BitVec 15
  | .imm i => (0#9 ++ i : BitVec 15)
  | .sreg r => (0b11101#5 ++ 0#4 ++ r : BitVec 15)

/-- Descriptor bits of a `viota` base (06 R159). -/
def ibaseBits : IBase → BitVec 15
  | .sreg r => (0b11101#5 ++ 0#4 ++ r : BitVec 15)
  | .zero => (0b11111#5 ++ 0#10 : BitVec 15)

/-- Conditions of a destination descriptor. -/
def destBad (b : BitVec 15) : List (Bool × Nat) := [(opdPad b, 3), (!(opdOf b).isDest, 9)]

/-- Conditions of a source descriptor. -/
def sourceBad (b : BitVec 15) : List (Bool × Nat) := [(opdPad b, 3), (!(opdOf b).isSource, 9)]

/-- KIND 1101 in a descriptor. -/
def isSregKind (b : BitVec 15) : Bool := b.extractLsb' 10 5 == 0b11101#5

/-- Majors 0x20-0x3F and 0x4C-0x4F (06 R142, R143), 0x56 and 0x57 (08 R217). -/
def decodeV (maj : Nat) (w : BitVec 64) : Decoded :=
  let v := vopOf w; let t := v.ty.toNat
  let bd : BitVec 15 := fld w 30 15; let ba : BitVec 15 := fld w 15 15; let bb : BitVec 15 := fld w 0 15
  let d := opdOf bd; let a := opdOf ba; let b := opdOf bb
  let rn := (v.rnd == 7, 10); let s0 := (v.sat, 3)
  let az := (ba != 0, 3); let bz := (bb != 0, 3); let m0 := (v.mask != 0, 3)
  let dd := destBad bd; let aa := sourceBad ba; let bbs := sourceBad bb
  match maj with
  | 0x20 => judge ([(!(fun t => tyF t || tyI t) t, 11), rn] ++ dd ++ aa ++ bbs) (.vadd v d a b)
  | 0x21 => judge ([(!(fun t => tyF t || tyI t) t, 11), rn] ++ dd ++ aa ++ bbs) (.vsub v d a b)
  | 0x22 => judge ([(!(fun t => tyF t || tyI t) t, 11), rn] ++ dd ++ aa ++ bbs) (.vmul v d a b)
  | 0x23 => judge ([(!tyF t, 11), rn, (opdPad bd, 3), (!d.isSlice, 9)] ++ aa ++ bbs) (.vfma v d a b)
  | 0x24 => judge ([(!(fun t => tyF t || tyI t) t, 11), rn, s0] ++ dd ++ aa ++ bbs) (.vmin v d a b)
  | 0x25 => judge ([(!(fun t => tyF t || tyI t) t, 11), rn, s0] ++ dd ++ aa ++ bbs) (.vmax v d a b)
  | 0x26 => judge ([(!(tyF t || t == 6 || t == 8 || t == 10), 11), rn, bz] ++ dd ++ aa) (.vabs v d a)
  | 0x27 => judge ([(!tyF t, 11), rn, bz] ++ dd ++ aa) (.vexp2 v d a)
  | 0x28 => judge ([(!tyF t, 11), rn, bz] ++ dd ++ aa) (.vlog2 v d a)
  | 0x29 => judge ([(!tyF t, 11), rn, bz] ++ dd ++ aa) (.vrcp v d a)
  | 0x2A => judge ([(!tyF t, 11), rn, bz] ++ dd ++ aa) (.vrsq v d a)
  | 0x2B =>
    let u := (fld w 0 4).toNat
    judge ([(!tyX t, 11), (!tyX u, 11), rn, (fld w 7 8 != 0, 3), (decide (cvtParts t u ≤ (fld w 4 3).toNat), 14)] ++ dd ++ aa)
      (.vcvt v d a (fld w 4 3) (fld w 0 4))
  | 0x2C =>
    judge ([(!tyM t, 11), rn, s0, m0, (!isSregKind bb, 9), (isSregKind bb && bitAt w 9, 3),
      (isSregKind bb && t != 13 && decide (3 < (fld w 6 3).toNat), 14), (!isSregKind bb && opdPad bb, 3)] ++ dd ++ aa) (.vmxq v d a (fld w 0 6) (fld w 6 3))
  | 0x2D =>
    judge ([(!tyM t, 11), rn, (!isSregKind bb, 9), (isSregKind bb && bitAt w 9, 3),
      (isSregKind bb && t != 13 && decide (3 < (fld w 6 3).toNat), 14), (!isSregKind bb && opdPad bb, 3)] ++ dd ++ aa) (.vmxd v d a (fld w 0 6) (fld w 6 3))
  | 0x2E => judge ([(!tyW t, 11), (v.rnd == 6 && !tyF t, 11), rn, s0, (fld w 33 12 != 0, 3)] ++ aa ++ bbs)
      (.vcmp v (fld w 30 3) a b)
  | 0x2F => judge ([(!tyX t, 11), rn, s0] ++ dd ++ aa ++ bbs) (.vsel v d a b)
  | 0x30 => judge ([(!tyX t, 11), rn, s0] ++ dd ++ aa ++ bbs) (.vand v d a b)
  | 0x31 => judge ([(!tyX t, 11), rn, s0] ++ dd ++ aa ++ bbs) (.vor v d a b)
  | 0x32 => judge ([(!tyX t, 11), rn, s0] ++ dd ++ aa ++ bbs) (.vxor v d a b)
  | 0x33 => judge ([(!tyI t, 11), rn] ++ dd ++ aa ++ bbs) (.vshl v d a b)
  | 0x34 => judge ([(!tyI t, 11), rn, s0] ++ dd ++ aa ++ bbs) (.vshr v d a b)
  | 0x35 => judge ([(!tyI t, 11), rn, s0] ++ dd ++ aa ++ bbs) (.vsar v d a b)
  | 0x36 => judge ([(fld w 0 2 == 3, 2), (!tyW t, 11), rn, (fld w 2 13 != 0, 3)] ++ dd ++ aa) (.vred v (fld w 0 2) d a)
  | 0x37 => judge ([(fld w 0 2 == 3, 2), (!tyW t, 11), rn, (fld w 2 13 != 0, 3)] ++ dd ++ aa) (.vscan v (fld w 0 2) d a)
  | 0x38 => judge ([(t != 9, 11), rn, (fld w 4 11 != 0, 3), (decide (8 < (fld w 0 4).toNat), 14), (opdPad bd, 3),
      (!(d.isSlice && fld w 42 2 == 0), 9), (d.isSlice && fld w 30 2 != 0, 14)] ++ aa)
      (.vhist v (fld w 36 6) (fld w 30 6) a (fld w 0 4))
  | 0x39 => if isSregKind bb then
        judge ([(!tyW t, 11), rn, s0, (opdPad bb, 3)] ++ dd ++ aa) (.vbcast v d a (.sreg (fld w 0 6)))
      else
        judge ([(!tyW t, 11), rn, s0, (bitAt w 14, 9), (opdPad bb, 3), (!bitAt w 14 && fld w 6 8 != 0, 3),
          (!bitAt w 14 && decide (tyCount t ≤ (fld w 0 6).toNat), 14)] ++ dd ++ aa) (.vbcast v d a (.imm (fld w 0 6)))
  | 0x3A => judge ([(!(8 ≤ t && t ≤ 11), 11), rn, az, (opdPad bb, 3), (!(isSregKind bb || b == .zero), 9)] ++ dd)
      (.viota v d (if isSregKind bb then .sreg (fld w 0 6) else .zero))
  | 0x3B => judge ([(!(fun t => t < 5 || (6 ≤ t && t ≤ 11)) t, 11), rn, s0] ++ dd ++ aa ++ bbs) (.vperm v d a b)
  | 0x3C => judge [(t != 11, 11), rn, s0, m0, (bd != 0, 3), (!isSregKind ba, 9), (opdPad ba, 3), bz]
      (.vseed v (fld w 15 6))
  | 0x3D => judge ([(!(t == 9 || t == 11), 11), rn, s0, az, bz] ++ dd) (.vrand v d)
  | 0x3E => judge ([(!tyF t, 11), rn, s0, bz] ++ dd ++ aa) (.vclass v d a)
  | 0x3F => judge ([(!(t < 5 || t == 6 || t == 8 || t == 10), 11), rn, s0, (fld w 1 14 != 0, 3)] ++ dd ++ aa)
      (.vorder v (bitAt w 0) d a)
  | 0x4C => judge ([(!tyX t, 11), rn, s0, bz] ++ dd ++ aa) (.mmov v d a)
  | 0x4D => judge [(t == 15, 11), rn, s0, m0, (opdPad bd, 3), (wholeBad bd, 9), az, bz] (.mzero v (fld w 36 6))
  | 0x4E => judge [(!tyW t, 11), rn, s0, m0, (opdPad bd, 3), (opdPad ba, 3), (wholeBad bd, 9), (wholeBad ba, 9), bz] (.mxpose v (fld w 36 6) (fld w 21 6))
  | 0x4F => judge [(t == 15, 11), rn, s0, (opdPad bd, 3), (opdPad ba, 3), (wholeBad bd, 9), (wholeBad ba, 9), (opdPad bb, 3),
      (!b.isSliceOrLoad, 9)]
      (.mshuf v (fld w 36 6) (fld w 21 6) b)
  | 0x56 => judge [(t != 9, 11), (v.rnd == 7, 10), (v.rnd != 0, 3), s0, (opdPad bd, 3), (!(d.isSlice && fld w 42 2 == 0), 9),
      (opdPad ba, 3), (!(ba.extractLsb' 13 2 == 2#2), 9), (fld w 6 9 != 0, 3),
      (decide (64 < (fld w 30 6).toNat + (fld w 0 6).toNat + 1), 14)]
      (.mld v.mask (fld w 36 6) (fld w 30 6) (fld w 25 3) (fld w 0 6))
  | _ => judge [(t != 9, 11), (v.rnd == 7, 10), (v.rnd != 0, 3), s0, (!(bd.extractLsb' 12 3 == 6#3), 9), (opdPad bd, 3),
      (opdPad ba, 3), (!(a.isSlice && fld w 27 2 == 0), 9), (fld w 6 9 != 0, 3),
      (decide (64 < (fld w 15 6).toNat + (fld w 0 6).toNat + 1), 14)]
      (.mst v.mask (fld w 40 2) (fld w 21 6) (fld w 15 6) (fld w 0 6))

/-! ### MX format (04 R90; 07 R175, R181, R184) -/

/-- An MX word. -/
def mxWord (s : Bool) (maj : BitVec 7) (acc : BitVec 6) (pa pb : BitVec 3) (ety : BitVec 4) (kch : BitVec 9)
    (mode : BitVec 3) (aux : BitVec 6) (low : BitVec 22) : BitVec 64 :=
  (b1 s ++ maj ++ acc ++ pa ++ pb ++ ety ++ kch ++ mode ++ aux ++ low : BitVec 64)

/-- Majors 0x40-0x4B. `awrite`, whose MODE 07 R184 gives as SIDE, H, 0, has subcode 0x03 for a nonzero last bit, not the 0x02 of an
unassigned MODE (DESIGN CHOICE, log 104). -/
def decodeMx (maj : Nat) (w : BitVec 64) : Decoded :=
  let acc := fld w 50 6; let pa := fld w 47 3; let pb := fld w 44 3; let ety := fld w 40 4; let kch := fld w 31 9
  let mode := fld w 28 3; let aux := fld w 22 6; let n := fld w 16 6; let x := fld w 10 6
  let e := ety.toNat; let md := mode.toNat
  let ta := bitAt w 29; let q := bitAt w 28
  let args : MmaArgs :=
    { acc := acc, pa := pa, pb := pb, ety := ety, kch := kch, ta := ta, q := q, aux := aux, sa := n, sb := x,
      srow := fld w 4 6 }
  let qb := q && (e == 6 || e == 7)
  let rw : ARow :=
    { acc := acc, rnd := pa, rows := kch, ety := ety, side := bitAt w 30, h := bitAt w 29, sat := bitAt w 28, m := n,
      d := x, f := fld w 3 7 }
  -- fields that the entries of 07 R184 mark 0
  let z (paz : Bool) (auxz nz xz lowz : Bool) : List (Bool × Nat) :=
    [(paz && pa != 0, 3), (pb != 0, 3), (kch != 0, 3), (e != 0, 11), (auxz && aux != 0, 3), (nz && n != 0, 3),
     (xz && x != 0, 3), (lowz && fld w 0 10 != 0, 3)]
  match maj with
  | 0x40 => judge [(bitAt w 30, 3), (fld w 0 4 != 0, 3), (ta && pa != 0, 3), (!ta && aux != 0, 3),
      (!tyM e && fld w 4 18 != 0, 3), (!ta && pa == pb, 9), (!(e < 8 || tyM e), 11), (qb, 11)] (.mma args)
  | 0x41 => judge [(bitAt w 30, 3), (ta, 3), (fld w 0 22 != 0, 3), (pa == pb, 9), (!(1 ≤ e && e ≤ 7), 11), (qb, 11)]
      (.mmag args)
  | 0x42 => judge ([(decide (2 < md), 2)] ++ z true true true true true)
      (.azero acc (if md = 0 then .both else if md = 1 then .side else .cells))
  | 0x43 => judge [(pb != 0, 3), (aux != 0, 3), (fld w 0 3 != 0, 3), (pa == 7, 10),
      (!(e < 5 || (6 ≤ e && e ≤ 11)), 11), (rw.side && e != 0, 11)] (.aread rw)
  | 0x44 => judge [(pa != 0, 3), (pb != 0, 3), (aux != 0, 3), (fld w 0 3 != 0, 3), (bitAt w 28, 3),
      (!(e < 5 || (6 ≤ e && e ≤ 11)), 11), (rw.side && e != 0, 11)] (.awrite rw)
  | 0x45 => judge ([(md != 0, 2)] ++ z true false true false false) (.asmx acc aux (fld w 0 16))
  | 0x46 => judge ([(md != 0, 2)] ++ z true false true true true) (.arsc acc aux)
  | 0x47 => judge ([(md != 0, 2)] ++ z true false true true true) (.anorm acc aux)
  | 0x48 => judge ([(decide (1 < md), 2)] ++ z true false true true true) (.astat aux acc q)
  | 0x49 => judge ([(decide (1 < md), 2)] ++ z true true false false true) (.abias acc n x q)
  | 0x4A => judge ([(decide (2 < md), 2)] ++ z true false true true true)
      (.amov acc aux (if md = 0 then .cells else if md = 1 then .side else .all))
  | _ => judge ([(decide (1 < md), 2)] ++ z true true false (!q) true) (.ascale acc n x q)

/-! ### MA format (04 R91; 08 R210, 09 R234) -/

/-- An MA word. -/
def maWord (s : Bool) (maj : BitVec 7) (wait : BitVec 8) (grd : BitVec 4) (d base : BitVec 6) (size : BitVec 4)
    (scope : BitVec 3) (ord : BitVec 2) (disp : BitVec 23) : BitVec 64 :=
  (b1 s ++ maj ++ wait ++ grd ++ d ++ base ++ size ++ scope ++ ord ++ disp : BitVec 64)

/-- The SCOPE codes (04 R91). -/
def scopeOf (n : Nat) : Scope :=
  match n with
  | 0 => .core | 1 => .cluster | 2 => .device | 3 => .pod | _ => .system

/-- The code of a scope. -/
def scopeBits : Scope → BitVec 3
  | .core => 0 | .cluster => 1 | .device => 2 | .pod => 3 | .system => 4

/-- Majors 0x50-0x55 and 0x58-0x5F. -/
def decodeMa (maj : Nat) (w : BitVec 64) : Decoded :=
  let wait := fld w 48 8; let g := fld w 44 4; let d := fld w 38 6; let base := fld w 32 6
  let size := (fld w 28 4).toNat; let sc := fld w 25 3; let ord := (fld w 23 2).toNat; let disp := fld w 0 23
  let m : MAddr := { wait := wait, base := base, disp := disp }
  let sz3 : BitVec 3 := fld w 28 3; let sz2 : BitVec 2 := fld w 28 2
  let scope := scopeOf sc.toNat
  let gz := (g != 0, 4); let dz := (d != 0, 3); let bz := (base != 0, 3); let ez := (disp != 0, 3)
  let s0 := (sc != 0, 12); let s4 := (decide (4 < sc.toNat), 12); let o0 := (ord != 0, 2); let o1 := (decide (1 < ord), 2)
  let pz := (fld w 4 19 != 0, 3); let pc := (decide (11 < (fld w 0 4).toNat), 14); let pn : BitVec 4 := fld w 0 4
  match maj with
  | 0x50 => judge [(decide (3 < size), 2), o0, gz, bz, s0, pz, pc] (.pset wait pn sz2 d)
  | 0x51 =>
    match size with
    | 0 => judge [o0, gz, dz, bz, s0, pz, pc] (.parm wait pn)
    | 1 => judge [o0, gz, dz, bz, s0, pz, pc] (.pstop wait pn)
    | 2 => judge [o0, gz, bz, s0, pz, pc] (.pstat wait d pn)
    | _ => .ill 2
  | 0x52 =>
    match size with
    | 0 => judge [o0, gz, s0] (.tdef d m)
    | 1 => judge [o0, gz, dz, s0] (.tfree m)
    | 2 => judge [o0, gz, s0] (.tstate d m)
    | _ => .ill 2
  | 0x53 =>
    match size with
    | 0 => judge [o0, gz, s0] (.tfill d m)
    | 1 => judge [o0, gz, dz, s0] (.tfillEmpty m)
    | 2 => judge [o0, gz, dz, s0] (.tfillFull m)
    | _ => .ill 2
  | 0x54 =>
    if decide (6 < size) then .ill 2 else
    match ord with
    | 0 => judge [gz, s0] (.ldf sz3 d m)
    | 1 => judge [gz, s0] (.ldx sz3 d m)
    | _ => .ill 2
  | 0x55 =>
    if decide (3 < size) then .ill 2 else
    match ord with
    | 0 => judge [s0] (.ste g sz2 d m)
    | 1 => judge [s0] (.stx g sz2 d m)
    | _ => .ill 2
  | 0x58 => judge [(decide (6 < size), 2), o1, gz, s0] (.ld (ord == 1) sz3 d m)
  | 0x59 => judge [(decide (3 < size), 2), o1, s0] (.st (ord == 1) g sz2 d m)
  | 0x5A => judge [(decide (6 < size), 2), o1, gz, s4] (.lds (ord == 1) scope sz3 d m)
  | 0x5B => judge [(decide (3 < size), 2), o1, s4] (.sts (ord == 1) scope g sz2 d m)
  | 0x5C =>
    match size with
    | 0 => judge [o1, gz, dz, s0] (.pref (ord == 1) m)
    | 1 => judge [(ord != 1, 2), gz, s0] (.prefAdapter d m)
    | _ => .ill 2
  | 0x5D =>
    match size with
    | 0 => judge [o0, gz, s0] (.disc d m)
    | 1 => judge [o0, gz, s0] (.discp d m)
    | _ => .ill 2
  | 0x5E =>
    let whole := (d == 0 && (base != 0 || disp != 0), 3)
    match size with
    | 0 => judge [o0, gz, s4, whole] (.clean scope d m)
    | 1 => judge [o0, gz, s4, whole] (.inval scope d m)
    | 2 =>
      match ord with
      | 1 => judge [gz, dz, bz, ez, s4] (.fenceRel wait scope)
      | 2 => judge [gz, dz, bz, ez, s4] (.fenceAcq wait scope)
      | _ => .ill 2
    | _ => .ill 2
  | _ =>
    match size with
    | 0 => judge [o0, gz, s0] (.rbind d m)
    | 1 => judge [o0, gz, s0] (.runbind d m)
    | 2 => judge [o0, gz, ez, s4] (.sacq wait scope d base)
    | 3 => judge [o0, gz, ez, s4] (.srel wait scope d base)
    | _ => .ill 2

/-! ### CP format (04 R92; 10 R253) -/

/-- A CP word. -/
def cpWord (s : Bool) (maj : BitVec 7) (wait : BitVec 8) (k : BitVec 3) (rg : BitVec 6) (kind : BitVec 3)
    (cmask : BitVec 12) (flags : BitVec 24) : BitVec 64 :=
  (b1 s ++ maj ++ wait ++ k ++ rg ++ kind ++ cmask ++ flags : BitVec 64)

/-- KIND of a copy (10 R251). -/
def ckindOf (n : Nat) : CKind :=
  match n with
  | 0 => .gg | 1 => .gs | 2 => .sg | _ => .ss

/-- The code of a copy KIND. -/
def ckindBits : CKind → BitVec 3
  | .gg => 0 | .gs => 1 | .sg => 2 | .ss => 3

/-- Majors 0x60-0x67. -/
def decodeCp (maj : Nat) (w : BitVec 64) : Decoded :=
  let wait := fld w 48 8; let k := fld w 45 3; let rg := fld w 39 6; let kind := (fld w 36 3).toNat
  let cm := fld w 24 12; let ws := fld w 0 2
  let dstG := kind == 0 || kind == 2; let srcG := kind == 0 || kind == 1
  let args : CpyArgs :=
    { wait := wait, k := k, rg := rg, kind := ckindOf kind, w := ws, waite := bitAt w 2, srcw := bitAt w 3,
      srcc := bitAt w 4 }
  let rl := (decide (58 < rg.toNat), 14); let cz := (cm != 0, 3); let kz := (k != 0, 3); let rz := (rg != 0, 3)
  let k3 := (decide (3 < kind), 2); let we := (dstG && bitAt w 2, 2); let sc := (srcG && (bitAt w 3 || bitAt w 4), 2)
  match maj with
  | 0x60 => judge [k3, (fld w 6 18 != 0, 2), we, sc, cz, rl] (.cpy args (bitAt w 5))
  | 0x61 => judge [(kind != 1, 2), (fld w 3 4 != 0, 2), (fld w 9 15 != 0, 2), (cm == 0, 14), rl]
      (.cpym wait k rg ws (bitAt w 2) (fld w 7 2) cm)
  | 0x62 => judge [k3, (fld w 5 19 != 0, 2), we, sc, cz, rl] (.cpyt args)
  | 0x63 => judge [(decide (1 < kind), 2), (fld w 3 21 != 0, 2), we, cz, rl] (.cpyg wait k rg (kind == 1) ws (bitAt w 2))
  | 0x64 => judge [(kind != 0, 2), (fld w 22 2 != 0, 2), (fld w 2 3 == 7, 2), cz, (fld w 2 3 == 0 && rg != 0, 3), rl]
      (.walk { wait := wait, k := k, rg := rg, w := ws, npar := fld w 2 3, entry := fld w 5 8, chain := fld w 13 8,
               chen := bitAt w 21 })
  | 0x65 =>
    match kind with
    | 0 => judge [(fld w 16 8 != 0, 2), (fld w 0 16 == 0, 2), cz, rz, rl] (.permit wait k (fld w 0 16))
    | 1 => judge [(fld w 2 22 != 0, 2), cz, kz, rl] (.permitLand wait rg (fld w 0 2))
    | 2 => judge [(fld w 2 22 != 0, 2), cz, kz, rz, rl] (.permitUnland wait (fld w 0 2))
    | _ => .ill 2
  | 0x66 =>
    match kind with
    | 0 => judge [(fld w 1 23 != 0, 2), cz, kz, rz, rl] (.tokw wait (bitAt w 0))
    | 1 => judge [(fld w 0 24 != 0, 2), cz, rl] (.tokst wait k rg)
    | _ => .ill 2
  | _ => judge [(kind != 0, 2), (fld w 2 22 != 0, 2), cz, rl] (.wload wait k rg ws)

/-! ### SM and SY formats (04 R93, R94; 11, 15-19) -/

/-- An SM or SY word. -/
def smWord (s : Bool) (maj : BitVec 7) (fn : BitVec 6) (grd : BitVec 4) (d a b : BitVec 6) (imm : BitVec 28) :
    BitVec 64 := (b1 s ++ maj ++ fn ++ grd ++ d ++ a ++ b ++ imm : BitVec 64)

/-- Majors 0x68-0x6F (11). -/
def decodeSm (maj : Nat) (w : BitVec 64) : Decoded :=
  let fn := (fld w 50 6).toNat; let g := fld w 46 4; let d := fld w 40 6; let sr := fld w 34 6; let o := fld w 28 6
  let im : BitVec 28 := fld w 0 28
  let gz := (g != 0, 4); let dz := (d != 0, 3); let sz := (sr != 0, 3); let oz := (o != 0, 3); let iz := (im != 0, 3)
  let sa : SArgs := { g := g, d := d, s := sr, o := o }
  match maj, fn with
  | 0x68, 0 => judge [dz, iz] (.sadd sa)
  | 0x68, 1 => judge [iz] (.sfadd sa)
  | 0x68, 2 => judge [iz] (.sfaddLive sa)
  | 0x68, 3 => judge [iz] (.scas sa)
  | 0x68, 4 => judge [dz, iz] (.sset sa)
  | 0x69, 0 => judge [dz, (fld w 19 9 != 0, 3), (fld w 0 12 == 0, 14)]
      (.ssetm g sr o (fld w 0 12) (fld w 12 6) (bitAt w 18))
  | 0x6A, 0 => judge [(bitAt w 2, 2), gz, (fld w 43 3 != 0, 3), (fld w 3 25 != 0, 3)]
      (.swait (fld w 0 3) (fld w 40 3) sr o)
  | 0x6A, 1 => judge [(bitAt w 2, 2), gz, (fld w 43 3 != 0, 3), (fld w 3 25 != 0, 3)]
      (.swaitv (fld w 0 3) (fld w 40 3) sr o)
  | 0x6B, 0 => judge [gz, dz, oz, (fld w 1 27 != 0, 3)] (.sdecl (bitAt w 0) sr)
  | 0x6C, 0 => judge [gz, dz, sz, oz, (fld w 2 26 != 0, 3)] (.prio (fld w 0 2))
  | 0x6D, 0 => judge [gz, oz, (fld w 8 20 != 0, 3), (!bitAt w 6 && fld w 4 2 != 0, 3), (!bitAt w 7 && sr != 0, 14)]
      (.enq d sr (fld w 0 4) (fld w 4 2) (bitAt w 6) (bitAt w 7))
  | 0x6E, 0 => judge [(bitAt w 2, 2), gz, (fld w 12 16 != 0, 3), (!bitAt w 3 && (sr != 0 || o != 0), 3),
      (fld w 4 8 != 0, 14), (!bitAt w 3 && fld w 0 3 != 0, 14)]
      (.splitAny d sr o (fld w 0 3) (bitAt w 3) (fld w 4 8))
  | 0x6E, 1 => judge [(bitAt w 2, 2), gz, dz, (fld w 12 16 != 0, 3), (!bitAt w 3 && (sr != 0 || o != 0), 3),
      (!bitAt w 3 && fld w 0 3 != 0, 14)] (.splitHere sr o (fld w 0 3) (bitAt w 3) (fld w 4 8))
  | 0x6E, 2 => judge [gz, dz, sz, oz, iz] .yield
  | 0x6F, 0 => judge [gz, dz, sz, oz, (fld w 1 27 != 0, 3)] (.retire (bitAt w 0))
  | _, _ => .ill 2

/-- Majors 0x70-0x73, 0x78-0x7A, 0x7C, 0x7D (15-19). -/
def decodeSy (maj : Nat) (w : BitVec 64) : Decoded :=
  let fn := (fld w 50 6).toNat; let d := fld w 40 6; let a := fld w 34 6; let b := fld w 28 6
  let im : BitVec 28 := fld w 0 28
  let r := (fld w 46 4 != 0, 3); let dz := (d != 0, 3); let az := (a != 0, 3); let bz := (b != 0, 3); let iz := (im != 0, 3)
  let x := bitAt w 6
  let gpx := [((!x && b != 0), 3), ((x && fld w 0 6 != 0), 3), (fld w 7 21 != 0, 3)]
  match maj, fn with
  | 0x70, 0 => judge ([r, dz] ++ gpx) (.gpset (fld w 0 6) a b x)
  | 0x70, 1 => judge ([r, az] ++ gpx) (.gpget d (fld w 0 6) b x)
  | 0x71, 0 => judge [r, iz] (.eqpush d a b)
  | 0x72, 0 => judge [r, bz, (fld w 1 27 != 0, 3), (!bitAt w 0 && a != 0, 3)] (.sslack d a (bitAt w 0))
  | 0x72, 1 =>
    match (fld w 0 2).toNat with
    | 0 => judge [r, bz, (fld w 2 26 != 0, 3)] (.srung d a)
    | 1 => judge [r, bz, (fld w 2 26 != 0, 3)] (.srungPin d a)
    | 2 => judge [r, bz, (fld w 2 26 != 0, 3)] (.srungUnpin d a)
    | _ => .ill 2
  | 0x73, 0 => judge [r, bz, (fld w 1 27 != 0, 3), (bitAt w 0 && a != 0, 3)] (.xlq d a (bitAt w 0))
  | 0x78, 0 => judge [r, dz, bz, (fld w 3 25 != 0, 3)] (.samp (fld w 0 3) a)
  | 0x79, 0 => judge [r, bz, iz] (.bpost d a)
  | 0x7A, 0 => judge [r, dz, az, bz, iz] .bchk
  | 0x7A, 1 => judge [r, bz, (fld w 1 27 != 0, 3), (!bitAt w 0 && a != 0, 3)] (.bstat d a (bitAt w 0))
  | 0x7C, 0 => judge [r, iz] (.ckpt d a b)
  | 0x7C, 1 => judge [r, az, bz, iz] (.ckptSize d)
  | 0x7D, 0 => judge [r, bz, iz] (.dbgSt d a)
  | 0x7D, 1 => judge [r, iz] (.dbgRd d a b)
  | 0x7D, 2 => judge [r, iz] (.dbgWr d a b)
  | 0x7D, 3 => judge [r, dz, bz, iz] (.dbgHalt a)
  | 0x7D, 4 => judge [r, dz, bz, iz] (.dbgGo a)
  | _, _ => .ill 2

/-- A core word: its instruction or the lowest ILL subcode of the word (04 R83, R96). -/
def decodeWord (w : BitVec 64) : Decoded :=
  let maj := (fld w 56 7).toNat
  if maj ≤ 0x08 then decodeScalar maj w
  else if maj < 0x10 then .ill 1
  else if maj ≤ 0x17 then decodeBr maj w
  else if maj ≤ 0x1F then decodeScalar maj w
  else if maj ≤ 0x3F then decodeV maj w
  else if maj ≤ 0x4B then decodeMx maj w
  else if maj ≤ 0x4F then decodeV maj w
  else if maj ≤ 0x55 then decodeMa maj w
  else if maj ≤ 0x57 then decodeV maj w
  else if maj ≤ 0x5F then decodeMa maj w
  else if maj ≤ 0x67 then decodeCp maj w
  else if maj ≤ 0x6F then decodeSm maj w
  else if maj ≤ 0x73 then decodeSy maj w
  else if maj = 0x78 ∨ maj = 0x79 ∨ maj = 0x7A ∨ maj = 0x7C ∨ maj = 0x7D then decodeSy maj w
  else .ill 1

/-! ### Walker words (04 R95, 10 R271, R272) -/

/-- What a walker word decodes to: a walker instruction, or the WALK subcode 0x01 or 0x02. -/
inductive WDecoded where
  | ok (i : Instr)
  | bad (sub : Nat)
  deriving DecidableEq, Repr

/-- A word that takes no operand (10 R272: 0x02). -/
def plainWalk (v : BitVec 10) (i : Instr) : WDecoded := if v = 0 then .ok i else .bad 2

/-- A walker word (10 R271). -/
def decodeWalker (w : BitVec 16) : WDecoded :=
  if w.getLsbD 15 then .ok (.walkerLit (w.extractLsb' 0 15))
  else
    let v : BitVec 10 := w.extractLsb' 0 10
    match (w.extractLsb' 10 5).toNat with
    | 0 => .ok (.walkerLitx v)
    | 1 => plainWalk v .walkerDup
    | 2 => plainWalk v .walkerDrop
    | 3 => plainWalk v .walkerSwap
    | 4 => plainWalk v .walkerOver
    | 5 => plainWalk v .walkerAdd
    | 6 => plainWalk v .walkerSub
    | 7 => plainWalk v .walkerMul
    | 8 => plainWalk v .walkerShl
    | 9 => plainWalk v .walkerAnd
    | 10 => .ok (.walkerLoop v)
    | 11 => plainWalk v .walkerEndl
    | 12 => .ok (.walkerFetch v)
    | 13 => .ok (.walkerSend v)
    | 14 => .ok (.walkerWrite v)
    | 15 => .ok (.walkerAwait v)
    | 16 => .ok (.walkerSignal v)
    | 17 => .ok (.walkerTok v)
    | 18 => .ok (.walkerCall v)
    | 19 => plainWalk v .walkerRet
    | 20 => plainWalk v .walkerHalt
    | _ => .bad 1

/-- The word of operation `op` with operand `v` (04 R95). -/
def walkWord (op : BitVec 5) (v : BitVec 10) : BitVec 16 := (0#1 ++ op ++ v : BitVec 16)

/-- The word of a walker instruction; none for any other instruction. -/
def encodeWalker : Instr → Option (BitVec 16)
  | .walkerLit v => some (1#1 ++ v : BitVec 16)
  | .walkerLitx v => some (walkWord 0 v)
  | .walkerDup => some (walkWord 1 0)
  | .walkerDrop => some (walkWord 2 0)
  | .walkerSwap => some (walkWord 3 0)
  | .walkerOver => some (walkWord 4 0)
  | .walkerAdd => some (walkWord 5 0)
  | .walkerSub => some (walkWord 6 0)
  | .walkerMul => some (walkWord 7 0)
  | .walkerShl => some (walkWord 8 0)
  | .walkerAnd => some (walkWord 9 0)
  | .walkerLoop v => some (walkWord 10 v)
  | .walkerEndl => some (walkWord 11 0)
  | .walkerFetch v => some (walkWord 12 v)
  | .walkerSend v => some (walkWord 13 v)
  | .walkerWrite v => some (walkWord 14 v)
  | .walkerAwait v => some (walkWord 15 v)
  | .walkerSignal v => some (walkWord 16 v)
  | .walkerTok v => some (walkWord 17 v)
  | .walkerCall v => some (walkWord 18 v)
  | .walkerRet => some (walkWord 19 0)
  | .walkerHalt => some (walkWord 20 0)
  | _ => none

/-! ### Commands (15 R316 and the chapters that own the OPs) -/

/-- The fields of a 64-byte command beside its OP. -/
def cmdOf (w : BitVec 512) : Cmd :=
  { flags := w.extractLsb' 8 8, phase := w.extractLsb' 16 16, ceil := w.extractLsb' 32 8, scope := w.extractLsb' 40 8,
    z := w.extractLsb' 48 16, a := w.extractLsb' 64 64, b := w.extractLsb' 128 64, caddr := w.extractLsb' 192 64,
    seq := w.extractLsb' 256 64, w5 := w.extractLsb' 320 64, w6 := w.extractLsb' 384 64, w7 := w.extractLsb' 448 64 }

/-- The 64 bytes of a command. -/
def cmdWord (op : BitVec 8) (c : Cmd) : BitVec 512 :=
  (c.w7 ++ c.w6 ++ c.w5 ++ c.seq ++ c.caddr ++ c.b ++ c.a ++ c.z ++ c.scope ++ c.ceil ++ c.phase ++ c.flags ++ op :
    BitVec 512)

/-- The command of an OP byte, if one is assigned (15 R316; 16 R358; 17 R364, R381; 18 R397; 19 R421; 23 R467; 25 R481). -/
def commandOf (op : Nat) (c : Cmd) : Option Instr :=
  match op with
  | 0x01 => some (.launch c)
  | 0x02 => some (.replay c)
  | 0x03 => some (.setgp c)
  | 0x04 => some (.specdepth c)
  | 0x05 => some (.fenceIb c)
  | 0x06 => some (.wait c)
  | 0x07 => some (.signal c)
  | 0x08 => some (.slotfree c)
  | 0x10 => some (.mapload c)
  | 0x11 => some (.mapset c)
  | 0x12 => some (.reserve c)
  | 0x13 => some (.latepool c)
  | 0x14 => some (.migrate c)
  | 0x18 => some (.streamOpen c)
  | 0x19 => some (.streamClose c)
  | 0x1A => some (.streamUpdate c)
  | 0x1B => some (.decode c)
  | 0x20 => some (.groupOpen c)
  | 0x21 => some (.groupClose c)
  | 0x28 => some (.debug c)
  | 0x30 => some (.ctxreset c)
  | 0x38 => some (.attest c)
  | _ => none

/-- The OP byte and fields of a command instruction. -/
def commandParts : Instr → Option (BitVec 8 × Cmd)
  | .launch c => some (0x01, c)
  | .replay c => some (0x02, c)
  | .setgp c => some (0x03, c)
  | .specdepth c => some (0x04, c)
  | .fenceIb c => some (0x05, c)
  | .wait c => some (0x06, c)
  | .signal c => some (0x07, c)
  | .slotfree c => some (0x08, c)
  | .mapload c => some (0x10, c)
  | .mapset c => some (0x11, c)
  | .reserve c => some (0x12, c)
  | .latepool c => some (0x13, c)
  | .migrate c => some (0x14, c)
  | .streamOpen c => some (0x18, c)
  | .streamClose c => some (0x19, c)
  | .streamUpdate c => some (0x1A, c)
  | .decode c => some (0x1B, c)
  | .groupOpen c => some (0x20, c)
  | .groupClose c => some (0x21, c)
  | .debug c => some (0x28, c)
  | .ctxreset c => some (0x30, c)
  | .attest c => some (0x38, c)
  | _ => none

/-- The command that 64 bytes hold. -/
def decodeCommand (w : BitVec 512) : Option Instr := commandOf (w.extractLsb' 0 8).toNat (cmdOf w)

/-- The 64 bytes of a command instruction. -/
def encodeCommand (i : Instr) : Option (BitVec 512) := (commandParts i).map (fun e => cmdWord e.1 e.2)

/-! ### The encoder of core words -/

/-- The word of a core instruction with stop bit `s`; none for a row that is no core word. -/
def encode (s : Bool) : Instr → Option (BitVec 64)
  | .nop => some (sxWord s 0 0 0 0 0 0)
  | .add d a b => some (sxWord s 1 0 0 d a (srcBits b))
  | .sub d a b => some (sxWord s 1 1 0 d a (srcBits b))
  | .mul d a b => some (sxWord s 1 2 0 d a (srcBits b))
  | .mulhI d a b => some (sxWord s 1 3 0 d a (srcBits b))
  | .mulhN d a b => some (sxWord s 1 4 0 d a (srcBits b))
  | .divI d a b => some (sxWord s 1 5 0 d a (srcBits b))
  | .divN d a b => some (sxWord s 1 6 0 d a (srcBits b))
  | .remI d a b => some (sxWord s 1 7 0 d a (srcBits b))
  | .remN d a b => some (sxWord s 1 8 0 d a (srcBits b))
  | .and d a b => some (sxWord s 1 9 0 d a (srcBits b))
  | .or d a b => some (sxWord s 1 10 0 d a (srcBits b))
  | .xor d a b => some (sxWord s 1 11 0 d a (srcBits b))
  | .andn d a b => some (sxWord s 1 12 0 d a (srcBits b))
  | .shl d a b => some (sxWord s 1 13 0 d a (srcBits b))
  | .shr d a b => some (sxWord s 1 14 0 d a (srcBits b))
  | .sar d a b => some (sxWord s 1 15 0 d a (srcBits b))
  | .rotl d a b => some (sxWord s 1 16 0 d a (srcBits b))
  | .minI d a b => some (sxWord s 1 17 0 d a (srcBits b))
  | .minN d a b => some (sxWord s 1 18 0 d a (srcBits b))
  | .maxI d a b => some (sxWord s 1 19 0 d a (srcBits b))
  | .maxN d a b => some (sxWord s 1 20 0 d a (srcBits b))
  | .clz d a => some (sxWord s 1 21 0 d a 0)
  | .popc d a => some (sxWord s 1 22 0 d a 0)
  | .bext d a lo w => some (sxWord s 2 0 0 d a (1#1 ++ 0#21 ++ w ++ lo : BitVec 34))
  | .bextI d a lo w => some (sxWord s 2 1 0 d a (1#1 ++ 0#21 ++ w ++ lo : BitVec 34))
  | .bins d a lo w => some (sxWord s 2 2 0 d a (1#1 ++ 0#21 ++ w ++ lo : BitVec 34))
  | .li d imm => some (slWord s 3 d 0 imm)
  | .liN d imm => some (slWord s 3 d 1 imm)
  | .lui d imm => some (slWord s 4 d 0 imm)
  | .lea d a b h => some (sxWord s 5 (0#3 ++ h : BitVec 6) 0 d a (srcBits b))
  | .cmp c q a b => some (sxWord s 6 (ccBits c) 0 (0#3 ++ q : BitVec 6) a (srcBits b))
  | .popAnd q x y => some (popWord s 0 q x y)
  | .popOr q x y => some (popWord s 1 q x y)
  | .popXor q x y => some (popWord s 2 q x y)
  | .sel g d c a b => some (sxWord s 8 (0#2 ++ c : BitVec 6) g d a (srcBits b))
  | .br g t => some (brWord s 0x10 g 0 0 t)
  | .jmpDirect g t => some (brWord s 0x11 g 0 0 t)
  | .jmpIndirect g a => some (brWord s 0x11 g 1 a 0)
  | .callDirect g t => some (brWord s 0x12 g 0 0 t)
  | .callIndirect g a => some (brWord s 0x12 g 1 a 0)
  | .ret g a => some (brWord s 0x13 g 0 a 0)
  | .loop t => some (brWord s 0x14 0 0 0 t)
  | .loopr t => some (brWord s 0x15 0 0 0 t)
  | .bqpush g => some (brWord s 0x16 g 0 0 0)
  | .bqbr t => some (brWord s 0x17 0 0 0 t)
  | .qpush a => some (sxWord s 0x18 0 0 0 a 0)
  | .qpop d => some (sxWord s 0x19 0 0 d 0 0)
  | .srget d n => some (sxWord s 0x1A n 0 d 0 0)
  | .srset n (.reg a) => some (sxWord s 0x1B n 0 0 a 0)
  | .srset n (.imm v) => some (sxWord s 0x1B n 0 0 0 (srcBits (.imm v)))
  | .waitt a b => some (sxWord s 0x1C 0 0 0 a (srcBits b))
  | .waittRel a b => some (sxWord s 0x1C 1 0 0 a (srcBits b))
  | .end_ => some (sxWord s 0x1D 0 0 0 0 0)
  | .trap c => some (sxWord s 0x1E 0 0 0 0 (1#1 ++ 0#17 ++ c : BitVec 34))
  | .brk => some (sxWord s 0x1F 0 0 0 0 0)
  | .vadd v d a b => some (vWord s 0x20 v (opdBits d) (opdBits a) (opdBits b))
  | .vsub v d a b => some (vWord s 0x21 v (opdBits d) (opdBits a) (opdBits b))
  | .vmul v d a b => some (vWord s 0x22 v (opdBits d) (opdBits a) (opdBits b))
  | .vfma v d a b => some (vWord s 0x23 v (opdBits d) (opdBits a) (opdBits b))
  | .vmin v d a b => some (vWord s 0x24 v (opdBits d) (opdBits a) (opdBits b))
  | .vmax v d a b => some (vWord s 0x25 v (opdBits d) (opdBits a) (opdBits b))
  | .vabs v d a => some (vWord s 0x26 v (opdBits d) (opdBits a) 0)
  | .vexp2 v d a => some (vWord s 0x27 v (opdBits d) (opdBits a) 0)
  | .vlog2 v d a => some (vWord s 0x28 v (opdBits d) (opdBits a) 0)
  | .vrcp v d a => some (vWord s 0x29 v (opdBits d) (opdBits a) 0)
  | .vrsq v d a => some (vWord s 0x2A v (opdBits d) (opdBits a) 0)
  | .vcvt v d a q u => some (vWord s 0x2B v (opdBits d) (opdBits a) (0#8 ++ q ++ u : BitVec 15))
  | .vmxq v d a r q => some (vWord s 0x2C v (opdBits d) (opdBits a) (partBits r q))
  | .vmxd v d a r q => some (vWord s 0x2D v (opdBits d) (opdBits a) (partBits r q))
  | .vcmp v g a b => some (vWord s 0x2E v (0#12 ++ g : BitVec 15) (opdBits a) (opdBits b))
  | .vsel v d a b => some (vWord s 0x2F v (opdBits d) (opdBits a) (opdBits b))
  | .vand v d a b => some (vWord s 0x30 v (opdBits d) (opdBits a) (opdBits b))
  | .vor v d a b => some (vWord s 0x31 v (opdBits d) (opdBits a) (opdBits b))
  | .vxor v d a b => some (vWord s 0x32 v (opdBits d) (opdBits a) (opdBits b))
  | .vshl v d a b => some (vWord s 0x33 v (opdBits d) (opdBits a) (opdBits b))
  | .vshr v d a b => some (vWord s 0x34 v (opdBits d) (opdBits a) (opdBits b))
  | .vsar v d a b => some (vWord s 0x35 v (opdBits d) (opdBits a) (opdBits b))
  | .vred v q d a => some (vWord s 0x36 v (opdBits d) (opdBits a) (0#13 ++ q : BitVec 15))
  | .vscan v q d a => some (vWord s 0x37 v (opdBits d) (opdBits a) (0#13 ++ q : BitVec 15))
  | .vhist v m x a sh => some (vWord s 0x38 v (0#3 ++ m ++ x : BitVec 15) (opdBits a) (0#11 ++ sh : BitVec 15))
  | .vbcast v d a i => some (vWord s 0x39 v (opdBits d) (opdBits a) (bidxBits i))
  | .viota v d b => some (vWord s 0x3A v (opdBits d) 0 (ibaseBits b))
  | .vperm v d a b => some (vWord s 0x3B v (opdBits d) (opdBits a) (opdBits b))
  | .vseed v a => some (vWord s 0x3C v 0 (opdBits (.sreg a)) 0)
  | .vrand v d => some (vWord s 0x3D v (opdBits d) 0 0)
  | .vclass v d a => some (vWord s 0x3E v (opdBits d) (opdBits a) 0)
  | .vorder v n d a => some (vWord s 0x3F v (opdBits d) (opdBits a) (0#14 ++ b1 n : BitVec 15))
  | .mmov v d a => some (vWord s 0x4C v (opdBits d) (opdBits a) 0)
  | .mzero v m => some (vWord s 0x4D v (wholeBits m) 0 0)
  | .mxpose v d a => some (vWord s 0x4E v (wholeBits d) (wholeBits a) 0)
  | .mshuf v d a b => some (vWord s 0x4F v (wholeBits d) (wholeBits a) (opdBits b))
  | .mma m => some (mxWord s 0x40 m.acc m.pa m.pb m.ety m.kch (0#1 ++ b1 m.ta ++ b1 m.q : BitVec 3) m.aux (m.sa ++ m.sb ++ m.srow ++ 0#4 : BitVec 22))
  | .mmag m => some (mxWord s 0x41 m.acc m.pa m.pb m.ety m.kch (0#1 ++ b1 m.ta ++ b1 m.q : BitVec 3) m.aux (m.sa ++ m.sb ++ m.srow ++ 0#4 : BitVec 22))
  | .azero t .both => some (mxWord s 0x42 t 0 0 0 0 0 0 0)
  | .azero t .side => some (mxWord s 0x42 t 0 0 0 0 1 0 0)
  | .azero t .cells => some (mxWord s 0x42 t 0 0 0 0 2 0 0)
  | .aread r => some (mxWord s 0x43 r.acc r.rnd 0 r.ety r.rows (b1 r.side ++ b1 r.h ++ b1 r.sat : BitVec 3) 0 (r.m ++ r.d ++ r.f ++ 0#3 : BitVec 22))
  | .awrite r => some (mxWord s 0x44 r.acc r.rnd 0 r.ety r.rows (b1 r.side ++ b1 r.h ++ b1 r.sat : BitVec 3) 0 (r.m ++ r.d ++ r.f ++ 0#3 : BitVec 22))
  | .asmx t o c => some (mxWord s 0x45 t 0 0 0 0 0 o (0#6 ++ c : BitVec 22))
  | .arsc o f => some (mxWord s 0x46 o 0 0 0 0 0 f 0)
  | .anorm o t => some (mxWord s 0x47 o 0 0 0 0 0 t 0)
  | .astat x t q => some (mxWord s 0x48 t 0 0 0 0 (0#2 ++ b1 q : BitVec 3) x 0)
  | .abias t m x q => some (mxWord s 0x49 t 0 0 0 0 (0#2 ++ b1 q : BitVec 3) 0 (m ++ x ++ 0#10 : BitVec 22))
  | .amov d t .cells => some (mxWord s 0x4A d 0 0 0 0 0 t 0)
  | .amov d t .side => some (mxWord s 0x4A d 0 0 0 0 1 t 0)
  | .amov d t .all => some (mxWord s 0x4A d 0 0 0 0 2 t 0)
  | .ascale t r x q => some (mxWord s 0x4B t 0 0 0 0 (0#2 ++ b1 q : BitVec 3) 0 (r ++ x ++ 0#10 : BitVec 22))
  | .mld k m d q r => some (vWord s 0x56 { ty := 9, rnd := 0, sat := false, mask := k } (opdBits (.slice 0 m d)) (opdBits (.loadPort q)) (0#9 ++ r : BitVec 15))
  | .mst k t m d r => some (vWord s 0x57 { ty := 9, rnd := 0, sat := false, mask := k } (opdBits (.storePort t)) (opdBits (.slice 0 m d)) (0#9 ++ r : BitVec 15))
  | .pset k q n d => some (maWord s 0x50 k 0 d 0 (0#2 ++ n : BitVec 4) 0 0 (0#19 ++ q : BitVec 23))
  | .parm k q => some (maWord s 0x51 k 0 0 0 0 0 0 (0#19 ++ q : BitVec 23))
  | .pstop k q => some (maWord s 0x51 k 0 0 0 1 0 0 (0#19 ++ q : BitVec 23))
  | .pstat k d q => some (maWord s 0x51 k 0 d 0 2 0 0 (0#19 ++ q : BitVec 23))
  | .tdef d m => some (maWord s 0x52 m.wait 0 d m.base 0 0 0 m.disp)
  | .tfree m => some (maWord s 0x52 m.wait 0 0 m.base 1 0 0 m.disp)
  | .tstate d m => some (maWord s 0x52 m.wait 0 d m.base 2 0 0 m.disp)
  | .tfill d m => some (maWord s 0x53 m.wait 0 d m.base 0 0 0 m.disp)
  | .tfillEmpty m => some (maWord s 0x53 m.wait 0 0 m.base 1 0 0 m.disp)
  | .tfillFull m => some (maWord s 0x53 m.wait 0 0 m.base 2 0 0 m.disp)
  | .ldf z d m => some (maWord s 0x54 m.wait 0 d m.base (0#1 ++ z : BitVec 4) 0 0 m.disp)
  | .ldx z d m => some (maWord s 0x54 m.wait 0 d m.base (0#1 ++ z : BitVec 4) 0 1 m.disp)
  | .ste g z d m => some (maWord s 0x55 m.wait g d m.base (0#2 ++ z : BitVec 4) 0 0 m.disp)
  | .stx g z d m => some (maWord s 0x55 m.wait g d m.base (0#2 ++ z : BitVec 4) 0 1 m.disp)
  | .ld t z d m => some (maWord s 0x58 m.wait 0 d m.base (0#1 ++ z : BitVec 4) 0 (0#1 ++ b1 t : BitVec 2) m.disp)
  | .st t g z d m => some (maWord s 0x59 m.wait g d m.base (0#2 ++ z : BitVec 4) 0 (0#1 ++ b1 t : BitVec 2) m.disp)
  | .lds t c z d m => some (maWord s 0x5A m.wait 0 d m.base (0#1 ++ z : BitVec 4) (scopeBits c) (0#1 ++ b1 t : BitVec 2) m.disp)
  | .sts t c g z d m => some (maWord s 0x5B m.wait g d m.base (0#2 ++ z : BitVec 4) (scopeBits c) (0#1 ++ b1 t : BitVec 2) m.disp)
  | .pref t m => some (maWord s 0x5C m.wait 0 0 m.base 0 0 (0#1 ++ b1 t : BitVec 2) m.disp)
  | .prefAdapter d m => some (maWord s 0x5C m.wait 0 d m.base 1 0 1 m.disp)
  | .disc d m => some (maWord s 0x5D m.wait 0 d m.base 0 0 0 m.disp)
  | .discp d m => some (maWord s 0x5D m.wait 0 d m.base 1 0 0 m.disp)
  | .clean c d m => some (maWord s 0x5E m.wait 0 d m.base 0 (scopeBits c) 0 m.disp)
  | .inval c d m => some (maWord s 0x5E m.wait 0 d m.base 1 (scopeBits c) 0 m.disp)
  | .fenceRel k c => some (maWord s 0x5E k 0 0 0 2 (scopeBits c) 1 0)
  | .fenceAcq k c => some (maWord s 0x5E k 0 0 0 2 (scopeBits c) 2 0)
  | .rbind d m => some (maWord s 0x5F m.wait 0 d m.base 0 0 0 m.disp)
  | .runbind d m => some (maWord s 0x5F m.wait 0 d m.base 1 0 0 m.disp)
  | .sacq k c d b => some (maWord s 0x5F k 0 d b 2 (scopeBits c) 0 0)
  | .srel k c d b => some (maWord s 0x5F k 0 d b 3 (scopeBits c) 0 0)
  | .cpy c g => some (cpWord s 0x60 c.wait c.k c.rg (ckindBits c.kind) 0 (0#18 ++ b1 g ++ b1 c.srcc ++ b1 c.srcw ++ b1 c.waite ++ c.w : BitVec 24))
  | .cpym k n r w e j q => some (cpWord s 0x61 k n r 1 q (0#15 ++ j ++ 0#4 ++ b1 e ++ w : BitVec 24))
  | .cpyt c => some (cpWord s 0x62 c.wait c.k c.rg (ckindBits c.kind) 0 (0#19 ++ b1 c.srcc ++ b1 c.srcw ++ b1 c.waite ++ c.w : BitVec 24))
  | .cpyg k n r g w e => some (cpWord s 0x63 k n r (0#2 ++ b1 g : BitVec 3) 0 (0#21 ++ b1 e ++ w : BitVec 24))
  | .walk a => some (cpWord s 0x64 a.wait a.k a.rg 0 0 (0#2 ++ b1 a.chen ++ a.chain ++ a.entry ++ a.npar ++ a.w : BitVec 24))
  | .permit k n q => some (cpWord s 0x65 k n 0 0 0 (0#8 ++ q : BitVec 24))
  | .permitLand k r j => some (cpWord s 0x65 k 0 r 1 0 (0#22 ++ j : BitVec 24))
  | .permitUnland k j => some (cpWord s 0x65 k 0 0 2 0 (0#22 ++ j : BitVec 24))
  | .tokw k c => some (cpWord s 0x66 k 0 0 0 0 (0#23 ++ b1 c : BitVec 24))
  | .tokst k n d => some (cpWord s 0x66 k n d 1 0 0)
  | .wload k n r w => some (cpWord s 0x67 k n r 0 0 (0#22 ++ w : BitVec 24))
  | .sadd a => some (smWord s 0x68 0 a.g 0 a.s a.o 0)
  | .sfadd a => some (smWord s 0x68 1 a.g a.d a.s a.o 0)
  | .sfaddLive a => some (smWord s 0x68 2 a.g a.d a.s a.o 0)
  | .scas a => some (smWord s 0x68 3 a.g a.d a.s a.o 0)
  | .sset a => some (smWord s 0x68 4 a.g 0 a.s a.o 0)
  | .ssetm g r o q c a => some (smWord s 0x69 0 g 0 r o (0#9 ++ b1 a ++ c ++ q : BitVec 28))
  | .swait c q r o => some (smWord s 0x6A 0 0 (0#3 ++ q : BitVec 6) r o (0#25 ++ c : BitVec 28))
  | .swaitv c q r o => some (smWord s 0x6A 1 0 (0#3 ++ q : BitVec 6) r o (0#25 ++ c : BitVec 28))
  | .sdecl c r => some (smWord s 0x6B 0 0 0 r 0 (0#27 ++ b1 c : BitVec 28))
  | .prio c => some (smWord s 0x6C 0 0 0 0 0 (0#26 ++ c : BitVec 28))
  | .enq m r t c h j => some (smWord s 0x6D 0 0 m r 0 (0#20 ++ b1 j ++ b1 h ++ c ++ t : BitVec 28))
  | .splitAny m r o c w k => some (smWord s 0x6E 0 0 m r o (0#16 ++ k ++ b1 w ++ c : BitVec 28))
  | .splitHere r o c w k => some (smWord s 0x6E 1 0 0 r o (0#16 ++ k ++ b1 w ++ c : BitVec 28))
  | .yield => some (smWord s 0x6E 2 0 0 0 0 0)
  | .retire t => some (smWord s 0x6F 0 0 0 0 0 (0#27 ++ b1 t : BitVec 28))
  | .gpset n a b x => some (smWord s 0x70 0 0 0 a b (0#21 ++ b1 x ++ n : BitVec 28))
  | .gpget d n b x => some (smWord s 0x70 1 0 d 0 b (0#21 ++ b1 x ++ n : BitVec 28))
  | .eqpush d a b => some (smWord s 0x71 0 0 d a b 0)
  | .sslack d a x => some (smWord s 0x72 0 0 d a 0 (0#27 ++ b1 x : BitVec 28))
  | .srung d a => some (smWord s 0x72 1 0 d a 0 0)
  | .srungPin d a => some (smWord s 0x72 1 0 d a 0 1)
  | .srungUnpin d a => some (smWord s 0x72 1 0 d a 0 2)
  | .xlq d a x => some (smWord s 0x73 0 0 d a 0 (0#27 ++ b1 x : BitVec 28))
  | .samp k a => some (smWord s 0x78 0 0 0 a 0 (0#25 ++ k : BitVec 28))
  | .bpost d a => some (smWord s 0x79 0 0 d a 0 0)
  | .bchk => some (smWord s 0x7A 0 0 0 0 0 0)
  | .bstat d a x => some (smWord s 0x7A 1 0 d a 0 (0#27 ++ b1 x : BitVec 28))
  | .ckpt d a b => some (smWord s 0x7C 0 0 d a b 0)
  | .ckptSize d => some (smWord s 0x7C 1 0 d 0 0 0)
  | .dbgSt d a => some (smWord s 0x7D 0 0 d a 0 0)
  | .dbgRd d a b => some (smWord s 0x7D 1 0 d a b 0)
  | .dbgWr d a b => some (smWord s 0x7D 2 0 d a b 0)
  | .dbgHalt a => some (smWord s 0x7D 3 0 0 a 0 0)
  | .dbgGo a => some (smWord s 0x7D 4 0 0 a 0 0)
  | _ => none

/-- The instruction that an instruction's bits give, numbered as the opcode table numbers them: walker words have 16
bits, core words 64, commands 512. -/
def decodeTableWord (nbits w : Nat) : Option Instr :=
  if nbits = 16 then
    match decodeWalker (BitVec.ofNat 16 w) with
    | .ok i => some i
    | .bad _ => none
  else if nbits = 64 then
    match decodeWord (BitVec.ofNat 64 w) with
    | .ok i => some i
    | _ => none
  else if nbits = 512 then decodeCommand (BitVec.ofNat 512 w)
  else none

end Sys2Proof
end

