-- ==== Sys2Proof/Config.lean ====
section
/-! DEFINITION. What the manual leaves open, as constants without a body: nothing can evaluate them, so a claim holds
whatever they are. Each is named in the assumption log. -/

namespace Sys2Proof.Config

/-- A value drawn for the counter `State.fresh`: a choice that the manual leaves open (09 R222, R223, R240). -/
opaque freeNat : Nat → Nat

/-- A choice between two outcomes that the manual allows (09 R240, 23 R449). -/
opaque freeBool : Nat → Bool

/-- The bytes of an encoded frame: stream descriptor and frame numbers in, bitstream out (17 R380). -/
opaque bitstream : List Nat → List (BitVec 8)

/-- The bytes that an encoder leaves in its reference store with a frame, from its first byte on (17 R365, R380). -/
opaque references : List Nat → List (BitVec 8)

/-- A decoded picture (17 R381): its size, whether its samples have 10 bits, its samples by place (tile, then plane, then raster order), and
the bytes that the decoder leaves in its working store. -/
structure Picture where
  w : Nat
  h : Nat
  deep : Bool
  sample : Nat → Nat
  work : List (BitVec 8)

/-- The picture of a bitstream, or none where it fails: the counter `State.fresh`, the codec and the bitstream in (17 R381). -/
opaque decoded : Nat → Nat → List (BitVec 8) → Option Picture

/-- SHA-384 of some bytes (25 R479, R481). -/
opaque sha384 : List (BitVec 8) → List (BitVec 8)

/-- Whether an Ed25519 signature verifies: public key, message, signature (25 R479). -/
opaque edVerify : List (BitVec 8) → List (BitVec 8) → List (BitVec 8) → Bool

/-- Whether an ML-DSA-65 signature verifies: public key, message, signature (25 R479). -/
opaque mlVerify : List (BitVec 8) → List (BitVec 8) → List (BitVec 8) → Bool

/-- The SHA-384 digests of the vendor's two public keys as the device's fuses hold them (25 R479). -/
opaque fusedDigests : List (BitVec 8) × List (BitVec 8)

/-- The vendor's two public keys, Ed25519 and ML-DSA-65 (25 R479). -/
opaque vendorKeys : List (BitVec 8) × List (BitVec 8)

/-- The two identity public keys of the key pairs with a number (25 R480). -/
opaque publicKeys : Nat → List (BitVec 8)

/-- The vendor's certificate over the public halves of the key pairs with a number: its bytes and two signatures (25 R479, R480). -/
opaque certificate : Nat → List (BitVec 8) × List (BitVec 8) × List (BitVec 8)

/-- The Ed25519 and ML-DSA-65 signatures over some bytes with the private halves of the key pairs with a number (25 R479, R481). -/
opaque signatures : Nat → List (BitVec 8) → List (BitVec 8)

/-- The lowest voltage step, in steps of 10 mV from that of the clock, that an island whose process oscillator has a reading may have at a
clock (25 R476, R477). -/
opaque voltageFloor : Nat → Nat → Int

/-- The oscillations of an island's process oscillator in 1300 ticks, as a bring-up reads them (25 R477). -/
opaque oscillations : Nat → Nat → Nat

/-- The power of the module in mW that F4 measures at a boundary, drawn for the counter `State.fresh` (25 R475). -/
opaque modulePower : Nat → Nat

/-- The place in a function's BAR 0 of its MSI-X table, which PCIe lets the device choose (23 R462). -/
opaque msixTable : Nat

/-- The place in a function's BAR 0 of its MSI-X pending bits, which PCIe lets the device choose (23 R462). -/
opaque msixPending : Nat

/-- A free 64-bit value drawn for the counter (values the manual does not state). -/
opaque freeWord : Nat → BitVec 64

end Sys2Proof.Config
end

