-- ==== Sys2Proof/Machine/Float.lean ====
section
/-! DEFINITION. Number formats and exact arithmetic (02): floating-point values as dyadic numbers, one rounding for every
format and mode, integer conversions, the lane generators, MX blocks and the transcendentals. Bit patterns are natural
numbers here; the callers cut them out of cells. -/

namespace Sys2Proof.Machine

/-! ### Formats and values -/

/-- How a format treats exponent all ones (R22, R23). -/
inductive FStyle where
  | ieee | noInf | finite
  deriving DecidableEq, Repr

/-- A floating-point format (R22): exponent bits, fraction bits, bias. -/
structure Fmt where
  e : Nat
  f : Nat
  bias : Nat
  style : FStyle
  deriving DecidableEq, Repr

def fp32 : Fmt := { e := 8, f := 23, bias := 127, style := .ieee }
def fp16 : Fmt := { e := 5, f := 10, bias := 15, style := .ieee }
def bf16 : Fmt := { e := 8, f := 7, bias := 127, style := .ieee }
def e5m2 : Fmt := { e := 5, f := 2, bias := 15, style := .ieee }
def e4m3 : Fmt := { e := 4, f := 3, bias := 7, style := .noInf }
def e2m1 : Fmt := { e := 2, f := 1, bias := 1, style := .finite }

/-- An exact value: NaN, an infinity, or (-1)^neg × m × 2^e. A zero keeps its sign. -/
inductive Val where
  | nan
  | inf (neg : Bool)
  | fin (neg : Bool) (m : Nat) (e : Int)
  deriving DecidableEq, Repr

/-- The largest finite magnitude's code (R25). -/
def Fmt.maxCode (t : Fmt) : Nat :=
  match t.style with
  | .ieee => (2 ^ t.e - 1) * 2 ^ t.f - 1
  | .noInf => 2 ^ (t.e + t.f) - 2
  | .finite => 2 ^ (t.e + t.f) - 1

/-- The canonical NaN (R24). -/
def Fmt.nanCode (t : Fmt) : Nat :=
  match t.style with
  | .ieee => (2 ^ t.e - 1) * 2 ^ t.f + 2 ^ (t.f - 1)
  | .noInf => 2 ^ (t.e + t.f) - 1
  | .finite => 0

/-- A magnitude's code with its sign bit. -/
def Fmt.signed (t : Fmt) (neg : Bool) (n : Nat) : Nat := if neg then n + 2 ^ (t.e + t.f) else n

/-- What an infinite result is written as (R31, R33): ±max under SAT, else ±infinity, the canonical NaN of E4M3, or
±6.0 of E2M1. -/
def Fmt.infCode (t : Fmt) (sat neg : Bool) : Nat :=
  if sat then t.signed neg t.maxCode
  else
    match t.style with
    | .ieee => t.signed neg ((2 ^ t.e - 1) * 2 ^ t.f)
    | .noInf => t.nanCode
    | .finite => t.signed neg t.maxCode

/-- The value of a code (R22, R23). -/
def Fmt.val (t : Fmt) (n : Nat) : Val :=
  let neg := n.testBit (t.e + t.f)
  let ex := n / 2 ^ t.f % 2 ^ t.e
  let fr := n % 2 ^ t.f
  let ones := ex == 2 ^ t.e - 1
  let lo : Int := 1 - (t.bias : Int) - (t.f : Int)
  let num : Val := if ex == 0 then .fin neg fr lo else .fin neg (2 ^ t.f + fr) (lo + (ex : Int) - 1)
  match t.style with
  | .ieee => if ones then (if fr == 0 then .inf neg else .nan) else num
  | .noInf => if ones && fr == 2 ^ t.f - 1 then .nan else num
  | .finite => num

/-! ### Rounding -/

/-- Rounding modes after RNDM has been looked up (R30). -/
inductive Mode where
  | rne | rz | rd | ru | rna | sr
  deriving DecidableEq, Repr

/-- The mode of a RND or RNDM code; 110 and 111 never come here (R30). -/
def modeOf (n : Nat) : Mode :=
  match n with
  | 1 => .rz
  | 2 => .rd
  | 3 => .ru
  | 4 => .rna
  | 5 => .sr
  | _ => .rne

/-- `m / 2^d` rounded to an integer magnitude (R30, R37); `x` is the stepped generator state under SR. -/
def roundShift (md : Mode) (x : BitVec 32) (neg : Bool) (m d : Nat) : Nat :=
  let k := m / 2 ^ d
  let r := m % 2 ^ d
  let up : Bool :=
    match md with
    | .rne => decide (2 ^ d < 2 * r) || (2 * r == 2 ^ d && d != 0 && k % 2 == 1)
    | .rz => false
    | .rd => neg && r != 0
    | .ru => !neg && r != 0
    | .rna => d != 0 && decide (2 ^ d ≤ 2 * r)
    | .sr =>
      let e := min d 32
      decide (2 ^ e ≤ r / 2 ^ (d - e) + x.toNat / 2 ^ (32 - e))
  if up then k + 1 else k

/-- Rounding a magnitude m × 2^e to the nearest multiples of 2^q under the mode. -/
def roundAt (md : Mode) (x : BitVec 32) (neg : Bool) (m : Nat) (e q : Int) : Nat :=
  if q ≤ e then m * 2 ^ (e - q).toNat else roundShift md x neg m (q - e).toNat

/-- What an overflow is written as (R33). -/
def Fmt.overflow (t : Fmt) (md : Mode) (sat neg : Bool) : Nat :=
  let toMax : Bool :=
    match md with
    | .rne | .rna | .sr => false
    | .rz => true
    | .rd => !neg
    | .ru => neg
  if toMax then t.signed neg t.maxCode else t.infCode sat neg

/-- A value rounded once into a format (R31, R33): the code of the result. -/
def Fmt.round (t : Fmt) (md : Mode) (sat : Bool) (x : BitVec 32) (v : Val) : Nat :=
  match v with
  | .nan => t.nanCode
  | .inf neg => t.infCode sat neg
  | .fin neg m e =>
    if m == 0 then t.signed neg 0
    else
      let lo : Int := 1 - (t.bias : Int) - (t.f : Int)
      let q : Int := max lo ((Nat.log2 m : Int) + e - (t.f : Int))
      let n := (q - lo).toNat * 2 ^ t.f + roundAt md x neg m e q
      if t.maxCode < n then t.overflow md sat neg else t.signed neg n

/-! ### Exact operations (R31) -/

/-- Sign of a zero result of exact addition (R31): -0 under RD, else +0. -/
def zeroSum (md : Mode) : Val := .fin (decide (md = .rd)) 0 0

/-- The signed multiple of 2^e that a finite value is, for e at or below its own exponent. -/
def scaled (neg : Bool) (m : Nat) (e lo : Int) : Int :=
  let n : Int := (m * 2 ^ (e - lo).toNat : Nat)
  if neg then -n else n

/-- A signed multiple of 2^e as a value; zero is +0. -/
def ofScaled (n : Int) (e : Int) : Val := .fin (decide (n < 0)) n.natAbs e

/-- The exact sum. -/
def Val.add (md : Mode) (a b : Val) : Val :=
  match a, b with
  | .nan, _ => .nan
  | _, .nan => .nan
  | .inf s, .inf r => if s = r then .inf s else .nan
  | .inf s, .fin _ _ _ => .inf s
  | .fin _ _ _, .inf s => .inf s
  | .fin s m e, .fin r n f =>
    let lo := min e f
    let t := scaled s m e lo + scaled r n f lo
    if t = 0 then (if s = r then .fin s 0 0 else zeroSum md) else ofScaled t lo

/-- The negated value. -/
def Val.neg : Val → Val
  | .nan => .nan
  | .inf s => .inf (!s)
  | .fin s m e => .fin (!s) m e

/-- The absolute value. -/
def Val.abs : Val → Val
  | .nan => .nan
  | .inf _ => .inf false
  | .fin _ m e => .fin false m e

/-- The exact product. -/
def Val.mul (a b : Val) : Val :=
  match a, b with
  | .nan, _ => .nan
  | _, .nan => .nan
  | .inf s, .inf r => .inf (s != r)
  | .inf s, .fin r n _ => if n = 0 then .nan else .inf (s != r)
  | .fin s m _, .inf r => if m = 0 then .nan else .inf (s != r)
  | .fin s m e, .fin r n f => .fin (s != r) (m * n) (e + f)

/-- The exact a × b + c. -/
def Val.fma (md : Mode) (a b c : Val) : Val := (a.mul b).add md c

/-- The value times 2^k. -/
def Val.shift (a : Val) (k : Int) : Val :=
  match a with
  | .nan => .nan
  | .inf s => .inf s
  | .fin s m e => .fin s m (e + k)

/-- NaN. -/
def Val.isNan : Val → Bool
  | .nan => true
  | _ => false

/-- The sign of a finite value or infinity. -/
def Val.sign : Val → Bool
  | .nan => false
  | .inf s => s
  | .fin s _ _ => s

/-- Zero of either sign. -/
def Val.isZero : Val → Bool
  | .fin _ m _ => m == 0
  | _ => false

/-- Strictly less, for values that are no NaN; zeros are equal. -/
def Val.lt (a b : Val) : Bool :=
  match a, b with
  | .nan, _ => false
  | _, .nan => false
  | .inf s, .inf r => s && !r
  | .inf s, .fin _ _ _ => s
  | .fin _ _ _, .inf r => !r
  | .fin s m e, .fin r n f => decide (scaled s m e (min e f) < scaled r n f (min e f))

/-- Equal, for values that are no NaN; zeros are equal. -/
def Val.eq (a b : Val) : Bool := !a.isNan && !b.isNan && !a.lt b && !b.lt a

/-- The order of `vmin` and `vmax`: -0 stands below +0 (R32). -/
def Val.below (a b : Val) : Bool := a.lt b || (a.isZero && b.isZero && a.sign && !b.sign)

/-- `vmin` (R32). -/
def Val.min (a b : Val) : Val := if a.isNan then b else if b.isNan then a else if b.below a then b else a

/-- `vmax` (R32). -/
def Val.max (a b : Val) : Val := if a.isNan then b else if b.isNan then a else if a.below b then b else a

/-! ### Integers (R26, R35) -/

/-- An integer type: width and whether it is signed. -/
structure ITy where
  w : Nat
  s : Bool
  deriving DecidableEq, Repr

/-- The least value. -/
def ITy.lo (t : ITy) : Int := if t.s then -(2 ^ (t.w - 1) : Nat) else 0

/-- The greatest value. -/
def ITy.hi (t : ITy) : Int := if t.s then (2 ^ (t.w - 1) : Nat) - 1 else (2 ^ t.w : Nat) - 1

/-- The value of a code below 2^w. -/
def ITy.val (t : ITy) (n : Nat) : Int := if t.s && n.testBit (t.w - 1) then (n : Int) - (2 ^ t.w : Nat) else n

/-- The code of an integer: clamped when `sat`, else the low bits (R35). -/
def ITy.code (t : ITy) (sat : Bool) (v : Int) : Nat :=
  let c := if sat then max t.lo (min t.hi v) else v
  (c % (2 ^ t.w : Nat)).toNat

/-- A finite value rounded to an integer. -/
def roundInt (md : Mode) (x : BitVec 32) (neg : Bool) (m : Nat) (e : Int) : Int :=
  let n : Int := (roundAt md x neg m e 0 : Nat)
  if neg then -n else n

/-- Floating point to integer (R35). -/
def ITy.ofVal (t : ITy) (md : Mode) (sat : Bool) (x : BitVec 32) (v : Val) : Nat :=
  match v with
  | .nan => 0
  | .inf s => t.code true (if s then t.lo else t.hi)
  | .fin s m e => t.code sat (roundInt md x s m e)

/-- An integer as an exact value. -/
def Val.ofInt (n : Int) : Val := ofScaled n 0

/-! ### Lane generators (R36, R37) -/

/-- One step of a lane. -/
def laneStep (x : BitVec 32) : BitVec 32 :=
  let x := x ^^^ (x <<< 13)
  let x := x ^^^ (x >>> 17)
  x ^^^ (x <<< 5)

/-- What `vseed s` sets lane i to. -/
def laneSeed (s : BitVec 32) (i : Nat) : BitVec 32 :=
  let v := s + BitVec.ofNat 32 ((i + 1) * 0x9E3779B9)
  if v = 0 then 0x6D2B79F5 else v

/-! ### MX blocks (R28, R29) -/

/-- MX element kinds. -/
inductive MxTy where
  | e4m3 | e2m1 | i8
  deriving DecidableEq, Repr

/-- The element code's value before its scale (R28). -/
def MxTy.elem (t : MxTy) (n : Nat) : Val :=
  match t with
  | .e4m3 => Sys2Proof.Machine.e4m3.val n
  | .e2m1 => Sys2Proof.Machine.e2m1.val n
  | .i8 => ofScaled ((ITy.mk 8 true).val n) (-6)

/-- A block element under scale X (R28). -/
def MxTy.val (t : MxTy) (x n : Nat) : Val := if x == 255 then .nan else (t.elem n).shift ((x : Int) - 127)

/-- floor(log2 |v|) of a finite nonzero value. -/
def Val.log2 : Val → Int
  | .fin _ m e => (Nat.log2 m : Int) + e
  | _ => 0

/-- emax (R29). -/
def MxTy.emax : MxTy → Int
  | .e4m3 => 8
  | .e2m1 => 2
  | .i8 => 0

/-- The greatest magnitude of a list of finite values. -/
def amax : List Val → Val
  | [] => .fin false 0 0
  | v :: r => let b := amax r; if b.lt v.abs then v.abs else b

/-- The scale of a block (R29, steps 1 to 3). -/
def mxScale (t : MxTy) (vs : List Val) : Nat :=
  if vs.any (fun v => match v with | .fin _ _ _ => false | _ => true) then 255
  else
    let a := amax vs
    if a.isZero then 0 else (max 0 (min 254 (a.log2 - t.emax + 127))).toNat

/-- An element of a block under scale X (R29, steps 1, 2, 4, 5). -/
def mxElem (t : MxTy) (md : Mode) (g : BitVec 32) (x : Nat) (zero : Bool) (v : Val) : Nat :=
  if x == 255 || zero then 0
  else
    let y := v.shift (127 - (x : Int))
    match t with
    | .e4m3 => Sys2Proof.Machine.e4m3.round md true g y
    | .e2m1 => Sys2Proof.Machine.e2m1.round md true g y
    | .i8 =>
      match y with
      | .fin s m e => (ITy.mk 8 true).code true (max (-127) (min 127 (roundInt md g s m (e + 6))))
      | _ => 0

/-! ### Tables (R46) -/

/-- EXP2T (R46): 2^(i/64) to FP32 RNE. -/
def exp2T : List Nat :=
  [0x3F800000, 0x3F8164D2, 0x3F82CD87, 0x3F843A29, 0x3F85AAC3, 0x3F871F62, 0x3F88980F, 0x3F8A14D5,
   0x3F8B95C2, 0x3F8D1ADF, 0x3F8EA43A, 0x3F9031DC, 0x3F91C3D3, 0x3F935A2B, 0x3F94F4F0, 0x3F96942D] ++
  [0x3F9837F0, 0x3F99E046, 0x3F9B8D3A, 0x3F9D3EDA, 0x3F9EF532, 0x3FA0B051, 0x3FA27043, 0x3FA43516,
   0x3FA5FED7, 0x3FA7CD94, 0x3FA9A15B, 0x3FAB7A3A, 0x3FAD583F, 0x3FAF3B79, 0x3FB123F6, 0x3FB311C4] ++
  [0x3FB504F3, 0x3FB6FD92, 0x3FB8FBAF, 0x3FBAFF5B, 0x3FBD08A4, 0x3FBF179A, 0x3FC12C4D, 0x3FC346CD,
   0x3FC5672A, 0x3FC78D75, 0x3FC9B9BE, 0x3FCBEC15, 0x3FCE248C, 0x3FD06334, 0x3FD2A81E, 0x3FD4F35B] ++
  [0x3FD744FD, 0x3FD99D16, 0x3FDBFBB8, 0x3FDE60F5, 0x3FE0CCDF, 0x3FE33F89, 0x3FE5B907, 0x3FE8396A,
   0x3FEAC0C7, 0x3FED4F30, 0x3FEFE4BA, 0x3FF28177, 0x3FF5257D, 0x3FF7D0DF, 0x3FFA83B3, 0x3FFD3E0C]

/-- LOG2T (R46): log2(1 + i/64) to FP32 RNE. -/
def log2T : List Nat :=
  [0x00000000, 0x3CB73CB4, 0x3D35D69C, 0x3D8759C5, 0x3DB31FB8, 0x3DDE4212, 0x3E0462C4, 0x3E19574F,
   0x3E2E00D2, 0x3E42615F, 0x3E567AF1, 0x3E6A4F72, 0x3E7DE0B6, 0x3E88983F, 0x3E92203D, 0x3E9B8926] ++
  [0x3EA4D3C2, 0x3EAE00D2, 0x3EB7110E, 0x3EC0052B, 0x3EC8DDD4, 0x3ED19BB0, 0x3EDA3F60, 0x3EE2C97D,
   0x3EEB3A9F, 0x3EF39355, 0x3EFBD42B, 0x3F01FED4, 0x3F060828, 0x3F0A0650, 0x3F0DF989, 0x3F11E20F] ++
  [0x3F15C01A, 0x3F1993E3, 0x3F1D5DA0, 0x3F211D84, 0x3F24D3C2, 0x3F28808C, 0x3F2C2411, 0x3F2FBE80,
   0x3F335004, 0x3F36D8CB, 0x3F3A58FF, 0x3F3DD0C8, 0x3F41404F, 0x3F44A7BA, 0x3F480731, 0x3F4B5ED7] ++
  [0x3F4EAED0, 0x3F51F740, 0x3F553848, 0x3F587209, 0x3F5BA4A4, 0x3F5ED039, 0x3F61F4E5, 0x3F6512C7,
   0x3F6829FB, 0x3F6B3A9F, 0x3F6E44CD, 0x3F7148A1, 0x3F744636, 0x3F773DA4, 0x3F7A2F04, 0x3F7D1A71]

/-- RCPT (R46): 1 / (1 + i/64) to FP32 RNE. -/
def rcpT : List Nat :=
  [0x3F800000, 0x3F7C0FC1, 0x3F783E10, 0x3F74898D, 0x3F70F0F1, 0x3F6D7304, 0x3F6A0EA1, 0x3F66C2B4,
   0x3F638E39, 0x3F607038, 0x3F5D67C9, 0x3F5A740E, 0x3F579436, 0x3F54C77B, 0x3F520D21, 0x3F4F6475] ++
  [0x3F4CCCCD, 0x3F4A4588, 0x3F47CE0C, 0x3F4565C8, 0x3F430C31, 0x3F40C0C1, 0x3F3E82FA, 0x3F3C5264,
   0x3F3A2E8C, 0x3F381703, 0x3F360B61, 0x3F340B41, 0x3F321643, 0x3F302C0B, 0x3F2E4C41, 0x3F2C7692] ++
  [0x3F2AAAAB, 0x3F28E83F, 0x3F272F05, 0x3F257EB5, 0x3F23D70A, 0x3F2237C3, 0x3F20A0A1, 0x3F1F1166,
   0x3F1D89D9, 0x3F1C09C1, 0x3F1A90E8, 0x3F191F1A, 0x3F17B426, 0x3F164FDA, 0x3F14F209, 0x3F139A86] ++
  [0x3F124925, 0x3F10FDBC, 0x3F0FB824, 0x3F0E7835, 0x3F0D3DCB, 0x3F0C08C1, 0x3F0AD8F3, 0x3F09AE41,
   0x3F088889, 0x3F0767AB, 0x3F064B8A, 0x3F053408, 0x3F042108, 0x3F03126F, 0x3F020821, 0x3F010204]

/-- RSQT (R46): 1/sqrt(1 + i/32), then 1/sqrt(2 + (i - 32)/16), to FP32 RNE. -/
def rsqT : List Nat :=
  [0x3F800000, 0x3F7C1764, 0x3F785B42, 0x3F74C867, 0x3F715BEF, 0x3F6E133E, 0x3F6AEBF5, 0x3F67E3ED,
   0x3F64F92E, 0x3F6229ED, 0x3F5F7483, 0x3F5CD76E, 0x3F5A514A, 0x3F57E0CF, 0x3F5584CD, 0x3F533C2E] ++
  [0x3F5105EC, 0x3F4EE116, 0x3F4CCCCD, 0x3F4AC83F, 0x3F48D2AB, 0x3F46EB5A, 0x3F4511A3, 0x3F4344E6,
   0x3F41848F, 0x3F3FD012, 0x3F3E26EB, 0x3F3C889F, 0x3F3AF4BA, 0x3F396ACE, 0x3F37EA74, 0x3F36734A] ++
  [0x3F3504F3, 0x3F32416A, 0x3F2F9D53, 0x3F2D166C, 0x3F2AAAAB, 0x3F285835, 0x3F261D5F, 0x3F23F8A2,
   0x3F21E89B, 0x3F1FEC04, 0x3F1E01B3, 0x3F1C2896, 0x3F1A5FB2, 0x3F18A61F, 0x3F16FB06, 0x3F155DA2] ++
  [0x3F13CD3A, 0x3F124925, 0x3F10D0C3, 0x3F0F6381, 0x3F0E00D5, 0x3F0CA83F, 0x3F0B5948, 0x3F0A137D,
   0x3F08D677, 0x3F07A1D2, 0x3F067532, 0x3F05503E, 0x3F0432A5, 0x3F031C1A, 0x3F020C52, 0x3F01030A]

/-! ### Transcendentals (R45-R50): the exact value that `final` rounds -/

/-- An FP32 RNE rounding inside an algorithm (R45). -/
def f32 (v : Val) : Val := fp32.val (fp32.round .rne false 0 v)

/-- An FP32 code as a value. -/
def f32c (n : Nat) : Val := fp32.val n

/-- fma with one FP32 rounding. -/
def fma32 (a b c : Val) : Val := f32 (Val.fma .rne a b c)

/-- mul with one FP32 rounding. -/
def mul32 (a b : Val) : Val := f32 (a.mul b)

/-- A table entry. -/
def tabAt (t : List Nat) (i : Nat) : Val := f32c (t.getD i 0)

/-- floor of m × 2^e with a sign. -/
def floorVal (neg : Bool) (m : Nat) (e : Int) : Int :=
  if 0 ≤ e then (if neg then -(m * 2 ^ e.toNat : Nat) else (m * 2 ^ e.toNat : Nat))
  else
    let d := 2 ^ (-e).toNat
    if neg then -((m + d - 1) / d : Nat) else (m / d : Nat)

/-- 2^x (R47). The fraction f = x - k/64 is kept exact where it is no FP32 value (DESIGN CHOICE, log 102). -/
def exp2Val (x : Val) : Val :=
  match x with
  | .nan => .nan
  | .inf s => if s then .fin false 0 0 else .inf false
  | .fin s m e =>
    if !x.lt (.fin false 128 0) then .inf false
    else if x.lt (.fin true 160 0) then .fin false 0 0
    else
      let k := floorVal s m (e + 6)
      let f := Val.add .rne x (ofScaled (-k) (-6))
      let i := (k % 64).toNat
      let ex := (k - i) / 64
      let q := fma32 f (f32c 0x3D635847) (f32c 0x3E75FDF0)
      let q := fma32 f q (f32c 0x3F317218)
      let p := mul32 f q
      let t := tabAt exp2T i
      (fma32 t p t).shift ex

/-- The exponent of a finite nonzero magnitude and its mantissa in [1, 2) (R46). -/
def decompose (m : Nat) (e : Int) : Int × Val := ((Nat.log2 m : Int) + e, .fin false m (-(Nat.log2 m : Int)))

/-- floor((mant - 1) × n) for n a power of two 2^k: the k bits under the leading one. -/
def topBits (m k : Nat) : Nat :=
  let l := Nat.log2 m
  if k ≤ l then m / 2 ^ (l - k) - 2 ^ k else m * 2 ^ (k - l) - 2 ^ k

/-- log2 x (R48): the exact s + t. -/
def log2Val (md : Mode) (x : Val) : Val :=
  match x with
  | .nan => .nan
  | .inf s => if s then .nan else .inf false
  | .fin s m ex =>
    if m = 0 then .inf true
    else if s then .nan
    else
      let (e, mant) := decompose m ex
      let i := topBits m 6
      let u := mul32 (Val.add .rne mant (.fin true (64 + i) (-6))) (tabAt rcpT i)
      let h := fma32 u (f32c 0x3EF6384F) (f32c 0xBF38AA3B)
      let h := fma32 u h (f32c 0x3FB8AA3B)
      let t := mul32 u h
      let a := f32 (Val.add .rne (Val.ofInt e) (tabAt log2T i))
      a.add md t

/-- 1 / x (R49). -/
def rcpVal (x : Val) : Val :=
  match x with
  | .nan => .nan
  | .inf s => .fin s 0 0
  | .fin s m ex =>
    if m = 0 then .inf s
    else
      let (e, mant) := decompose m ex
      let y := tabAt rcpT (topBits m 6)
      let one := Val.fin false 1 0
      let step (y : Val) : Val := fma32 y (fma32 mant.neg y one) y
      let y := step (step y)
      (if s then y.neg else y).shift (-e)

/-- 1 / sqrt x (R50). -/
def rsqVal (x : Val) : Val :=
  match x with
  | .nan => .nan
  | .inf s => if s then .nan else .fin false 0 0
  | .fin s m ex =>
    if m = 0 then .inf s
    else if s then .nan
    else
      let (e, mant) := decompose m ex
      let odd := e % 2 != 0
      let mant := if odd then mant.shift 1 else mant
      let e := if odd then e - 1 else e
      let j := if odd then 32 + topBits m 5 else topBits m 5
      let y := tabAt rsqT j
      let h := mant.shift (-1)
      let step (y : Val) : Val := fma32 y (fma32 h.neg (mul32 y y) (.fin false 1 (-1))) y
      let y := step (step y)
      y.shift (-(e / 2))

end Sys2Proof.Machine
end

