-- ==== Sys2Proof/Machine/Tab.lean ====
section
/-! DEFINITION. Sparse tables: a register file, a memory or any numbered set as a list of (number, value) pairs with
strictly rising numbers and no entry equal to what an unlisted number reads as, so that equal tables are equal lists.
No rule of the spec: the model's own way of writing numbered state down. -/

namespace Sys2Proof.Machine

/-- A sparse table. -/
abbrev Tab (α : Type) := List (Nat × α)

/-- The value at number `k`, `d` where none is listed. -/
def tget {α : Type} (d : α) : Tab α → Nat → α
  | [], _ => d
  | (n, v) :: r, k => if k = n then v else tget d r k

/-- The entry at number `k`, if one is listed. -/
def tfind {α : Type} : Tab α → Nat → Option α
  | [], _ => none
  | (n, v) :: r, k => if k = n then some v else tfind r k

/-- The table with `v` listed at `k`. -/
def tins {α : Type} : Tab α → Nat → α → Tab α
  | [], k, v => [(k, v)]
  | (n, w) :: r, k, v =>
    if k = n then (k, v) :: r else if k < n then (k, v) :: (n, w) :: r else (n, w) :: tins r k v

/-- The table with nothing listed at `k`. -/
def tdel {α : Type} : Tab α → Nat → Tab α
  | [], _ => []
  | (n, w) :: r, k => if k = n then tdel r k else (n, w) :: tdel r k

/-- Writing `v` at `k` in a table whose unlisted numbers read as `d`: the canonical form is kept. -/
def tset {α : Type} [DecidableEq α] (d : α) (t : Tab α) (k : Nat) (v : α) : Tab α :=
  if v = d then tdel t k else tins t k v

/-- Entries with strictly rising numbers, all above `lo`. -/
def trising {α : Type} : Nat → Tab α → Bool
  | _, [] => true
  | lo, (n, _) :: r => decide (lo ≤ n) && trising (n + 1) r

/-- The canonical form: strictly rising numbers, no listed default. -/
def twf {α : Type} [DecidableEq α] (d : α) (t : Tab α) : Bool :=
  trising 0 t && t.all (fun e => decide (e.2 ≠ d))

/-- Apply a change to the listed entry at `k`, if there is one. -/
def tmod {α : Type} (t : Tab α) (k : Nat) (f : α → α) : Tab α :=
  match tfind t k with
  | none => t
  | some v => tins t k (f v)

/-- Apply a change to every listed entry. -/
def tmap {α : Type} (t : Tab α) (f : Nat → α → α) : Tab α :=
  t.map (fun e => (e.1, f e.1 e.2))

end Sys2Proof.Machine
end

