-- ==== Sys2Proof/Machine/State.lean ====
section
/-! DEFINITION. The state of the whole device as plain data (INVENTORY.md, '## State'): tasks with both strands, cores,
clusters, memory, contexts, the front end and the central blocks, and the model's own fields that say who moves next. -/

namespace Sys2Proof.Machine

/-- Reasons the model stops with a fault. -/
inductive Fault where
  /-- Raised by the meaning of a core instruction when no task stands at the acting place `State.cur`. `step` never
  executes a core instruction there, so no run raises it. Safe: the machine stops. -/
  | noTask
  /-- Raised by the meaning of a walker word when `State.job` names no walk program in flight. `step` never executes
  a walker word then, so no run raises it. Safe: the machine stops. -/
  | noWalk
  deriving DecidableEq, Repr

/-- Reasons the model refuses an instruction. -/
inductive Refusal where
  /-- The instruction has no meaning in this model yet; raised by `exec` only. Safe: nothing is claimed. -/
  | notModelled (mnemonic : String)
  deriving DecidableEq, Repr

/-- TRAPINFO (03 R76). -/
structure TrapInfo where
  code : BitVec 8
  sub : BitVec 8
  fatal : Bool
  deriving DecidableEq, Repr

/-- What both strands hold (03 R51). `pc` and `trappc` are word addresses; `regs` lists s1-s63; `preds` bit j is pj;
`hold` is the WAITT target in force (05 R133, R134); `ended` is 05 R135; `via` is the
branch word whose target has not yet been fetched (05 R122). -/
structure Strand where
  pc : Word
  regs : Tab Word
  preds : BitVec 8
  loopc : BitVec 32
  trap : TrapInfo
  trappc : Word
  hold : Option Word
  ended : Bool
  via : Option Word
  deriving DecidableEq, Repr

/-- States of a token (03 R73). -/
inductive TokState where
  | idle | pending | ok | err
  deriving DecidableEq, Repr

/-- A token (03 R73, 10 R264); `job` is the copy, walk or sampler request it is bound to (the model's number). -/
structure Token where
  st : TokState
  errc : BitVec 4
  done : BitVec 32
  job : Nat
  deriving DecidableEq, Repr

/-- An entry of the binding table (09 R243). -/
structure Binding where
  base : Word
  len : BitVec 32
  slot : BitVec 22
  deriving DecidableEq, Repr

/-- A landing entry (10 R257). -/
structure Landing where
  base : BitVec 14
  slot : BitVec 22
  deriving DecidableEq, Repr

/-- What a wait on a slot does when it completes (11 R281, R283, R287; 09 R245). -/
inductive WaitKind where
  | swait (p : BitVec 3)
  | swaitv (p : BitVec 3)
  | sacq (sc : Scope)
  | split
  deriving DecidableEq, Repr

/-- How far a wait on a slot has come: sent and not yet compared, armed, refused for want of a monitor at a tick, over; or, for a
`sacq`, over but for bytes of its regions on their way to the devices of a mask (09 R245). -/
inductive WaitPhase where
  | sent
  | armed
  | refused (at_ : Nat)
  | fired
  | acquiring (chips : BitVec 64)
  deriving DecidableEq, Repr

/-- A wait on a slot in progress (11 R282): `t` is the target, `cond` the condition, `pc` its word. -/
structure SlotWait where
  kind : WaitKind
  slot : BitVec 22
  cond : BitVec 3
  t : BitVec 32
  phase : WaitPhase
  pc : Word
  deriving DecidableEq, Repr

/-- Forms of `tfill` (08 R214). -/
inductive FillForm where
  | pattern | empty | full
  deriving DecidableEq, Repr

/-- A `tfill` in progress: rows `next` to `last - 1` are still to do. -/
structure Fill where
  form : FillForm
  pat : Word
  next : Nat
  last : Nat
  deriving DecidableEq, Repr

/-- Who sent a slot operation (11 R276, R277): a strand, the record of a `split.any`, a walker of a cluster with its job and the PC of
its walk program (10 R249), a central block in the order of R277 (0 the front end, 1-8 F0-F7, 9 Chard, 10 Shallot, 11-18 the Sorrel engines,
19-34 the encoders), GROUP_OPEN of a queue for its prefix slots (18 R399), the front end for a saved task's wait, or another device. -/
inductive SemSrc where
  | strand
  | record
  | signal (cluster w pc job : Nat)
  | block (n : Nat)
  | attach (queue : Nat)
  | saved (k : Nat)
  | peer (chip : Nat)
  deriving DecidableEq, Repr

/-- What a slot operation does (11 R279, R281, R284, R294): `declare` checks the owner only, `peerWait` and `peerEnd` are the waits of
another device's strands, which it names by a tag, and their end. -/
inductive SemOp where
  | add (v : BitVec 32)
  | fadd (d : Nat) (v : BitVec 32)
  | faddLive (d : Nat) (v : BitVec 32)
  | cas (d : Nat) (e v : BitVec 32)
  | set (v : BitVec 32)
  | mset (v : BitVec 32)
  | wait
  | declare
  | peerWait (tag : Nat) (cond : BitVec 3) (t : BitVec 32) (cls : Nat)
  | peerEnd (tag : Nat)
  deriving DecidableEq, Repr

/-- A slot operation on its way to its file (11 R277, R280): the sender with its task and word, the context it acts for,
the slot number in the file (the whole id of a slot of another device), and when it performs: for an operation of the file's own
core (`own`) that core's cc, else DT. -/
structure SemMsg where
  src : SemSrc
  core : Nat
  bank : Nat
  id : BitVec 32
  pc : Word
  ctx : Nat
  slot : Nat
  op : SemOp
  own : Bool
  due : Nat
  deriving DecidableEq, Repr

/-- What a `samp` that waits for its engine's queue has fixed (18 R383): the engine, its token's job, SPECDEPTH.CUR and its class. -/
structure Hand where
  engine : Nat
  job : Nat
  spec : Nat
  lat : Bool
  deriving DecidableEq, Repr

/-- What the A-strand alone holds (03 R51; 08, 09, 10, 11). `issued` marks the slots S, MEM, SEM of a group that have
issued while others wait (19 R419 ISSUED), `nextpc` the pc such a group goes on with; `ready` counts the cc until a
result may be read (04 R102), register sj at j and predicate pj at 64 + j; `awaited` lists results that a reply brings;
`outst` counts its slot operations, sent and not yet performed (11 R280); `gap` is the stall cc of a taken branch (04 R103);
`mskip` is the word of an `ssetm` that skipped a target (11 R284); `blocked` holds the MEM and SEM slots until the slot operations sent have performed (09 R238);
`samp` is a `samp` that waits for its engine; `group` holds the slots of the group at the head once it has been tried. -/
structure AState where
  toks : Tab Token
  issued : BitVec 3
  nextpc : Option Word
  podmask : BitVec 64
  binds : List Binding
  decls : List (BitVec 22)
  lands : Tab Landing
  wait : Option SlotWait
  fill : Option Fill
  ready : Tab Nat
  awaited : List Nat
  outst : Nat
  blocked : Bool
  mskip : Option Word
  gap : Nat
  samp : Option Hand
  group : BitVec 3
  deriving DecidableEq, Repr

/-- A register slot (03 R65): the physical register it is bound to, or SPILLED; `age` is the issue cycle of its last
performed write since dispatch (03 R66). -/
structure Slot where
  phys : Option Nat
  age : Option Nat
  deriving DecidableEq, Repr

/-- A port parameter set of four words (08 R203). -/
structure PSet where
  w0 : Word
  w1 : Word
  w2 : Word
  w3 : Word
  deriving DecidableEq, Repr

/-- A port: its sets, walk position and access count (08 R203, R204, R212). -/
structure Port where
  staged : PSet
  active : Option PSet
  pending : Option PSet
  i0 : BitVec 16
  i1 : BitVec 16
  i2 : BitVec 16
  i3 : BitVec 16
  count : BitVec 32
  deriving DecidableEq, Repr

/-- A row that the matrix engine has popped for a chunk not yet performed (07 R171, R174). `blk` is the row block of an
`mmag` pop. -/
structure Pop where
  isB : Bool
  idx : Nat
  blk : Nat
  row : Nat
  data : Row
  deriving DecidableEq, Repr

/-- An `mma` or `mmag` in flight (07 R175-R183): scales and adapters read at issue, the skip exponent in force, rows
popped, pops made, columns of the A tile read in tile mode; `startA` and `startB` hold, for each chunk not yet performed, its
port as it stood before the chunk's first pop (R183). -/
structure MmaJob where
  args : MmaArgs
  grouped : Bool
  skip : Option Int
  scaleA : List Row
  scaleB : List Row
  adapters : List (Option Nat)
  pops : List Pop
  madeA : Nat
  madeB : Nat
  acols : Tab (List (BitVec 32))
  startA : Tab Port
  startB : Tab Port
  dead : Option Nat
  deriving DecidableEq, Repr

/-- Accumulator operations that perform at one offset (07 R185, R188-R193), with the register operands they read at
issue. -/
inductive AccOp where
  | azero (t : Nat) (md : ZMode)
  | amov (d s : Nat) (md : VMode)
  | abias (t : Nat) (row : Bool) (rows : List Row)
  | ascale (t : Nat) (v : BitVec 32)
  | ascaleCol (t : Nat) (rows : List Row)
  | arsc (o f : Nat)
  | anorm (o t : Nat)
  | astat (x s : Nat) (abs : Bool)
  | asmx (s o : Nat) (c : BitVec 16)
  deriving DecidableEq, Repr

/-- What an X-strand write in flight does (03 R59, 19 R412 KIND). Rows of cells come as (row, value, cell mask). -/
inductive FKind where
  | sreg (r : Nat) (v : Word)
  | sbyte (r p : Nat) (v : Byte)
  | pred (p : Nat) (b : Bool)
  | gmask (g : Nat) (v : BitVec 64)
  | cells (slot : Nat) (rows : List (Nat × Row × Row))
  | prow (row : Nat) (v m : Row)
  | mld (slot d port r : Nat) (m : Row) (made : Nat) (rows : List (Nat × Row))
  | mst (port : Nat) (m : Row) (todo : List Row) (made : Nat) (rows : List (Nat × Nat × Row))
  | aread (slot tile : Nat) (r : ARow) (mode : BitVec 3) (gens : List (List (BitVec 32)))
  | awrite (tile : Nat) (r : ARow) (rows : List Row)
  | acc (op : AccOp)
  | mma (j : MmaJob)
  deriving DecidableEq, Repr

/-- An X-strand instruction in flight: the address of the word that issued it, its age in issue cycles, the offset of its last
result, and for `mld` and `mst` the word itself (19 R419). When the bank stops issuing, entries stand here as its shadow entries and engine record (19 R412, R414). -/
structure Flight where
  pc : Word
  age : Nat
  lat : Nat
  kind : FKind
  word : Word
  deriving DecidableEq, Repr

/-- What the X-strand alone holds (03 R51). `gens` lists lane generators, `mrows` rows of matrix registers at
slot * 64 + row, `gap` the empty issue cycles still to pass (04 R103), `freeze` the cc of a reload left (03 R68),
`array` the issue cycles the array is held (07 R169), `ic` the issue cycles passed since dispatch, `named` the register
slots that the issuing group names (03 R66), `touch` the banks that accesses of this issue cycle touched, with the issue
cycle and word of their instructions (07 R173), `waits` the ports on which the strand is frozen in this cc (08 R212), `seeds` the
seed of a `vseed` that performs at the end of this issue cycle (06 R161), `last` the core cc in which the strand last ran, by
which an interruption is known (07 R183). -/
structure XState where
  masks : Tab Word
  gens : Tab (BitVec 32)
  base : BitVec 6
  step : BitVec 6
  rndm : BitVec 3
  mrows : Tab Row
  slots : Tab Slot
  flights : List Flight
  gap : Nat
  freeze : Nat
  array : Nat
  ic : Nat
  named : List Nat
  touch : List (Nat × Nat × Word)
  waits : BitVec 12
  seeds : Option (BitVec 32)
  last : Nat
  deriving DecidableEq, Repr

/-- Scratchpad tags (08 R195). -/
inductive Tag where
  | empty | full | poison
  deriving DecidableEq, Repr

/-- A scratchpad row: its bytes, its tag, and the tag as tests of this cc see it (08 R197); `ue` marks the sectors with an
uncorrectable error not yet found (08 R200). -/
structure SRow where
  data : Row
  tag : Tag
  seen : Tag
  ue : BitVec 4
  deriving DecidableEq, Repr

/-- A defined tile-table entry (08 R201). -/
structure Tile where
  first : Nat
  count : Nat
  up : Bool
  deriving DecidableEq, Repr

/-- A queue entry with the core cc in which it was pushed (05 R130). -/
structure QEntry where
  v : Word
  at_ : Nat
  deriving DecidableEq, Repr

/-- A queue between the strands; `popped` is one more than the core cc of the last pop, 0 before the first (05 R130). -/
structure Queue where
  items : List QEntry
  popped : Nat
  deriving DecidableEq, Repr

/-- Priority classes of a task (03 R76, 11 R294, R295); `lat` is CLASS.LAT, `borrow` CLASS.BORROW. -/
structure Cls where
  set : Nat
  cur : Nat
  ceil : Nat
  lat : Bool
  borrow : Bool
  deriving DecidableEq, Repr

/-- Why a task is not running in its bank (03 R52); `restoring` marks one whose reissued copies have not all entered their
walkers' queues (19 R417). -/
inductive Susp where
  | swaitv
  | split (kw : BitVec 8)
  | back (sub : BitVec 8)
  | debug (reason : Nat)
  | halted
  | stopped
  | restoring
  deriving DecidableEq, Repr

/-- Who a task is (03 R76, 11 R286, 15 R320): identity, placement and launch data. -/
structure Ident where
  id : BitVec 32
  ctx : Nat
  queue : Nat
  phase : BitVec 16
  launch : Nat
  depth : Nat
  stage : Nat
  last : Nat
  n : Nat
  excl : Bool
  pin : Option Nat
  parent : BitVec 32
  join : Option (BitVec 22)
  deriving DecidableEq, Repr

/-- Stream and sibling registers of a task (03 R76). -/
structure Member where
  stream : Option Nat
  frame : Word
  group : Option Nat
  index : Nat
  size : Nat
  deriving DecidableEq, Repr

/-- The windows of a bank (03 R53). -/
structure Windows where
  spBase : Nat
  spSize : Nat
  acBase : Nat
  acSize : Nat
  deriving DecidableEq, Repr

/-- QSKIP (03 R76). -/
structure QSkip where
  exp : BitVec 8
  en : Bool
  deriving DecidableEq, Repr

/-- A task in a bank, or saved (03 R51). Rows, tiles and matrix registers are named by their window-relative numbers
(03 R54); `acc` lists tile rows at tile * 128 + row. `cancel` is XSTAT.CANCEL with its subcode (18 R402, R403);
`stop` is a stop asked for and taken at the next group boundary (19 R410); `retiring` marks a task whose
retirement has begun; `point` marks that its next group is a cancellation point (11 R283, R289; 16 R346), `yielded` that it stands behind a `yield` (19
R419); `evict` marks a borrower
signalled to halt for a save under 15 R327, with the slots that the save has taken already (03 R66). -/
structure Task where
  who : Ident
  mem : Member
  win : Windows
  cls : Cls
  a : Strand
  x : Strand
  as : AState
  xs : XState
  qskip : QSkip
  aq : Queue
  xq : Queue
  bq : Queue
  acc : Tab AccRow
  rowmax : Tab (BitVec 32)
  rowsum : Tab (BitVec 32)
  rows : Tab SRow
  touched : List Nat
  tiles : Tab Tile
  ports : Tab Port
  consts : Tab (BitVec 16)
  cancelpc : Word
  cancel : Option (BitVec 8)
  susp : Option Susp
  stop : Option Susp
  retiring : Bool
  point : Bool
  yielded : Bool
  evict : Option (List Nat)
  deriving DecidableEq, Repr

/-- A 32-byte sector held in an L1 (09 R222, 23 R446, R448), listed under its physical address / 32: owner tag, dirty mask,
data. Extents are aligned to 64 KiB, so VA[13:8] and PA[13:8] agree and one address has one place. -/
structure Sector where
  valid : Bool
  poison : Bool
  owner : Nat
  dirty : BitVec 32
  data : BitVec 256
  deriving DecidableEq, Repr

/-- A 32-byte sector in its home L2 (09 R221, 23 R449): dirty bytes not yet written to the frame. The owner tag belongs to its line
(23 R446), which `State.lines` lists. -/
structure L2Sector where
  poison : Bool
  dirty : BitVec 32
  data : BitVec 256
  deriving DecidableEq, Repr

/-- A write to bytes of one sector on its way to its home (09 R224): the sector's physical address / 32, the bytes
written, the owner tag, whether the sector travels as POISON (23 R449), and the peer port that it leaves by, 0 for none yet (16
R341). -/
structure SWrite where
  sec : Nat
  mask : BitVec 32
  data : BitVec 256
  owner : Nat
  poison : Bool
  port : Nat
  deriving DecidableEq, Repr

/-- A slot of a semaphore file (11 R275, R276). -/
structure Sem where
  v : BitVec 32
  owner : Nat
  deriving DecidableEq, Repr

/-- A monitor of a semaphore file that a strand of another device has armed (11 R282): the slot, the device and the tag by which it
names the wait, the condition with its target, the strand's class (R295). Each armed wait of this device's tasks and records on a slot
of the file holds one more of the file's 64 monitors. -/
structure Monitor where
  slot : Nat
  chip : Nat
  tag : Nat
  cond : BitVec 3
  t : BitVec 32
  cls : Nat
  deriving DecidableEq, Repr

/-- A core (01 R13): which bank issues, its L1 data cache, the lines that its L1 instruction cache holds, spill ways, semaphore file,
the operations on their way to the file and the slots that it has served in this tick (11 R277), what the last dispatch was, cc count. -/
structure Core where
  bank : Nat
  l1 : Tab Sector
  icache : List Nat
  spill : Nat
  sems : Tab Sem
  monitors : List Monitor
  inbox : List SemMsg
  served : List Nat
  last : Option (Nat × Nat × BitVec 16)
  cc : Nat
  switching : Bool
  deriving DecidableEq, Repr

/-- What a walker job is (10 R247-R273). -/
inductive JobKind where
  | copy (kind : CKind) (waite srcw srcc sig : Bool)
  | multi (j : Nat) (mask : BitVec 12) (waite : Bool)
  | gather (scratch waite : Bool)
  | walk
  | load
  deriving DecidableEq, Repr

/-- Where a job stands: in the time-sorted buffer, in an accept queue, in flight, done, its signals under way. -/
inductive JobState where
  | timed | queued | running | held | done | ending
  deriving DecidableEq, Repr

/-- How far a receiver of a multicast has come (10 R256-R258): its entry not yet looked up, landing, done, without a landing
entry (NOLAND), or saved with its task. -/
inductive RecvState where
  | waiting | landing | done | noland | left
  deriving DecidableEq, Repr

/-- A receiver of a multicast (10 R256-R258): its core; from its first row on its bank and task and the landing entry as it
stood; `put` scratchpad rows have landed. -/
structure Recv where
  st : RecvState
  core : Nat
  bank : Nat
  id : BitVec 32
  base : Nat
  slot : BitVec 22
  put : Nat
  deriving DecidableEq, Repr

/-- A launch of a walk program that has not completed (10 R271); `wrote` is a `write` whose bytes are on their way to a peer. -/
inductive WLaunch where
  | fetch (o addr len : Nat)
  | send (o row m : Nat)
  | write (o addr len : Nat)
  | wrote
  deriving DecidableEq, Repr

/-- A walk program's own state (10 R270). -/
structure Walk where
  pc : Nat
  stack : List Word
  loops : List (Word × Nat)
  rets : List Nat
  stage : Tab Byte
  permits : Nat
  chain : Option Nat
  tokd : Bool
  launch : Option WLaunch
  deriving DecidableEq, Repr

/-- A copy, walk program or control-store load handed to a walker (10 R247). `core`, `bank`, `id`, `pc` name the issuing
task and the word (10 R249); `k` is its token; `lat` its class; `t` the DT target of a timed copy. `rows` counts the rows
wholly written, `got` those wholly read; `buf` lists rows read and not yet written everywhere, `part` the sectors of the
next row read so far; `put` counts scratchpad rows landed or poisoned; `snap` keeps the sectors written since the copy issued as they
stood before, with the DATA subcode of a POISON one (09 R232); `chips` marks the devices that it has written. -/
structure Job where
  kind : JobKind
  st : JobState
  core : Nat
  bank : Nat
  id : BitVec 32
  ctx : Nat
  launch : Nat
  sib : Option (Nat × Nat)
  pc : Word
  cluster : Nat
  w : Nat
  lat : Bool
  k : Option (BitVec 3)
  rec0 : Word
  rec1 : Word
  ext0 : Nat
  ext1 : Nat
  rec3 : Word
  rec4 : Word
  rec5 : Word
  t : Word
  rows : Nat
  got : Nat
  buf : Tab (List (BitVec 256))
  part : List (BitVec 256)
  put : Nat
  err : Option (BitVec 4)
  idx : Option (List Nat)
  recvs : List Recv
  walk : Option Walk
  snap : Tab (BitVec 256 × Option Nat)
  chips : BitVec 64
  deriving DecidableEq, Repr

/-- A walker: its accept queues, the jobs in flight and the time-sorted buffer, as job numbers (10 R247, R259). -/
structure Walker where
  lat : List Nat
  bulk : List Nat
  run : List Nat
  timed : List Nat
  deriving DecidableEq, Repr


/-- A cluster: its island (25 R474-R478; `vclock` is the clock for which its operating voltage stands, `volt` the steps of 10 mV from it,
`goal` the clock of a change under way, `supply` the supply against the set point in tenths of a percent, `osc` the reading of its process
oscillator), range-matcher slots (`ctxs`; 16 marks a vacated one), control store with the
launches whose `.walk` code it has loaded as (context, launch) and the partitions saved for contexts taken out of the
matcher (10 R268), egress queue, hint queue and walkers. -/
structure Cluster where
  mhz : Nat
  on : Bool
  acc : Nat
  volt : Int
  droop : Bool
  droops : Nat
  temp : Int
  capped : Bool
  ctxs : List Nat
  store : Tab (BitVec 16)
  loaded : List (Nat × Nat)
  parked : Tab (Tab (BitVec 16))
  egress : List SWrite
  hints : List (Nat × Word × Nat)
  dropped : Nat
  walkers : Tab Walker
  skipped : Nat
  evaluated : Nat
  vclock : Nat
  goal : Option Nat
  supply : Int
  osc : Nat
  deriving DecidableEq, Repr

/-- Extent kinds (16 R335). -/
inductive EKind where
  | backed | unbacked | peer | stripe | migrating
  deriving DecidableEq, Repr

/-- An entry of a translation table (16 R335); `fmap` is the frame map's address, which F2 writes. -/
structure Entry where
  log2 : Nat
  kind : EKind
  r : Bool
  w : Bool
  x : Bool
  present : Bool
  late : Bool
  vbase : Nat
  target : Nat
  set : Nat
  gsh : Nat
  rcap : Nat
  fmap : Nat
  deriving DecidableEq, Repr

/-- State of an unbacked page (16 R347): a residency frame number, or a late frame's PA. -/
inductive Page where
  | untouched
  | resident (f : Nat)
  | late (pa : Nat)
  deriving DecidableEq, Repr

/-- A backing fault that F2 holds (16 R344, R345); `chip` is the device whose route a fault of subcode 0x05 waits for. -/
structure BFault where
  sub : BitVec 8
  chip : Option Nat
  va : Nat
  kind : Nat
  core : Nat
  bank : Nat
  id : BitVec 32
  at_ : Nat
  saved : Option Nat
  job : Option Nat
  deriving DecidableEq, Repr

/-- A context (01 R20, 16, 18). `pages` is keyed by unbacked page number (target PA / 65536); `term` is the number of the record
that stands for a termination under way, `begun` says that its steps 1 to 3 have been made, `ended` says that the context has been terminated and not reset since (23 R470). -/
structure Ctx where
  table : Tab Entry
  pages : Tab Page
  resv : Nat
  timeout : Nat
  pool : List Nat
  late : Nat
  lost : Nat
  specCur : BitVec 4
  specPend : BitVec 4
  oov : Word
  debug : Bool
  faults : List BFault
  term : Option Nat
  begun : Bool
  ended : Bool
  deriving DecidableEq, Repr

/-- A continuation record (11 R286), with the stream or sibling it belongs to; `cond` is the condition that a `split.any`
record waits for, `entry` the reserved entry it holds, none for a general one (11 R291). -/
structure Record where
  pc : Word
  vals : List (Nat × Word)
  parent : BitVec 32
  stage : Nat
  set : Nat
  depth : Nat
  join : Option (BitVec 22)
  decls : List (BitVec 22)
  mem : Member
  cond : Option SlotWait
  entry : Option Nat
  deriving DecidableEq, Repr

/-- A task state waiting in a stage queue: fresh, saved or a record (15 R324, 19 R417). `ready` is false while its
condition does not hold; `from_` is the core it was saved from; `halt` is the reason of a debug halt in force, `bad` BADSTATE,
`low` the bits [2:0] that a debugger has written to CANCELPC (19 R422, R423); while a halt is in force `olds` holds OLD and NEW of each
shadow entry as the stop left them, and `cleared` the entries whose VALID a debugger has cleared (19 R424). -/
structure Saved where
  task : Task
  launch : Nat
  stage : Nat
  from_ : Option Nat
  ready : Bool
  copies : List Job
  halt : Option Nat
  bad : Bool
  low : BitVec 3
  olds : List (Nat × Nat)
  cleared : List Nat
  deriving DecidableEq, Repr

/-- A stage record (15 R321). -/
structure Stage where
  aentry : Word
  xentry : Word
  cancel : Word
  cap : Nat
  minc : Nat
  maxc : Nat
  n : Nat
  sprows : Nat
  actiles : Nat
  mregs : Nat
  deriving DecidableEq, Repr

/-- A launch in progress (15 R320-R328): its stages, cores with their stage (a gang's pinned cores), the cores that ran its
tasks, its records queued, waiting for admission, and waiting for the condition of a `split.any`; `rels` the slot entries
of a gang with REL entries as (REL, core or local core, slot, value), set at its placement; `tree` the (task, PARENT) pairs of its tasks. -/
structure Launch where
  ctx : Nat
  queue : Nat
  mask : Word
  ceil : Nat
  lat : Bool
  phase : BitVec 16
  stages : List Stage
  consts : Tab (BitVec 16)
  walk : List (BitVec 16)
  gang : Bool
  cluster : Option Nat
  granted : Bool
  cores : List (Nat × Nat)
  ran : List Nat
  recs : List Record
  wait : List Record
  rels : List (Bool × Nat × Nat × BitVec 32)
  cond : List Record
  mem : Member
  tree : List (BitVec 32 × BitVec 32)
  deriving DecidableEq, Repr

/-- A REPLAY in progress (15 R331). -/
structure Replay where
  graph : Word
  count : Nat
  next : Nat
  patches : List Word
  snap : Tab Word
  status : Nat
  deriving DecidableEq, Repr

/-- The command a queue runs (15 R314, R318): its OP and fields, its status once its work has ended, the launch it
started, the queue's PHASE before it (15 R319, R329), and for a REPLAY that Chard issued its stream and frame (17 R367). -/
structure Running where
  op : Nat
  cmd : Cmd
  status : Option Nat
  launch : Option Nat
  old : BitVec 16
  frame : Option (Nat × Word)
  deriving DecidableEq, Repr

/-- A command queue (15 R313). `pf` marks a queue created through the physical function. -/
structure CQueue where
  ctx : Nat
  pf : Bool
  ring : Word
  size : Nat
  bulk : Bool
  head : BitVec 32
  tail : BitVec 32
  phase : BitVec 16
  gp : Tab Word
  error : Bool
  run : Option Running
  replay : Option Replay
  outer : Option Running
  stream : Option Nat
  host : Bool
  deriving DecidableEq, Repr

/-- A rung of a stream's ladder (17 R365). -/
structure Rung where
  graph : Word
  patches : Word
  ncmd : Nat
  npatch : Nat
  steps : Nat
  interp : Bool
  w : Nat
  h : Nat
  igraph : Word
  ipatches : Word
  incmd : Nat
  inpatch : Nat
  es : Int
  et : Int
  ei : Int
  deriving DecidableEq, Repr

/-- A stream descriptor (17 R365). -/
structure SDesc where
  pnum : Nat
  pden : Nat
  queue : Nat
  nrung : Nat
  rstart : Nat
  codec : Nat
  base : Nat
  dline : Nat
  rise : Nat
  ring : Nat
  rslots : Nat
  scope : Nat
  slotbytes : Nat
  kvb : Nat
  cs : Nat
  wcap : Nat
  wtab : Nat
  eqbase : Nat
  eqslots : Nat
  credit : BitVec 22
  refb : Nat
  kbps : Nat
  qp : Nat
  keyint : Nat
  rungs : List Rung
  deriving DecidableEq, Repr

/-- A window entry of a stream (17 R374): frame, area, ANCHOR. -/
structure KvEntry where
  frame : Nat
  area : Nat
  anchor : Bool
  deriving DecidableEq, Repr

/-- What a central block has still to write (16 R342): the free value that its bytes are drawn with, how many of its writes have been
made, the tick of the work that they report, whether one is held, and the bytes that it has read. -/
structure BlockJob where
  key : Nat
  stage : Nat
  tick : Nat
  held : Bool
  src : List Byte
  deriving DecidableEq, Repr

/-- A started frame not yet complete (17 R367-R372, R376): its number, rung, STEPS_eff, the tick it started, the last accepted
step boundary and its tick, whether it dropped a rung, its size in samples, the tiles pushed, how many of them the encoder has read, and
what the encoder has written of it; `after` marks the frame after a TRUNC.
-/
structure Frame where
  n : Nat
  rung : Nat
  steps : Nat
  interp : Bool
  start : Nat
  last : Nat
  tk : Nat
  dropped : Bool
  w : Nat
  h : Nat
  tiles : List (Nat × Nat)
  read : Nat
  out : Option BlockJob
  after : Bool
  deriving DecidableEq, Repr

/-- A tile descriptor held by an encoder (17 R376, R378). -/
structure TDesc where
  frame : Nat
  slot : Nat
  tx : Nat
  ty : Nat
  deriving DecidableEq, Repr

/-- An open stream (17 R363-R379): the next frame, the rung in force, COUNT, its encoder, the frames started, the window with
its anchors in pin order, the tile descriptors its encoder holds, a pending update, the overruns counted, whether the last
frame was truncated; STEPS_eff and the interpolation of the last frame started, the tiles pushed for the frame that starts next, the tick
of a frame start that is under way, with its frame once the window has slid, and whether an access of it is held. -/
structure Stream where
  ctx : Nat
  desc : SDesc
  next : Nat
  rung : Nat
  count : Nat
  enc : Nat
  frames : List Frame
  kv : List KvEntry
  pins : List Nat
  descs : List TDesc
  update : Option SDesc
  closing : Bool
  overrun : Nat
  trunc : Bool
  steps : Nat
  interp : Bool
  early : List (Nat × Nat)
  tick : Option Nat
  begun : Option Frame
  held : Bool
  deriving DecidableEq, Repr

/-- What a read of a sampler request has given (18 R395): bytes, an address that it may not read, or a POISON sector. -/
inductive SampRead where
  | bytes (l : List Byte)
  | bad
  | data (sec sub : Nat)
  deriving DecidableEq, Repr

/-- A sampler request (18 R382, R383): its task and token, the descriptor, SPECDEPTH.CUR and the class at issue, whether its
engine has read the descriptor; for one that is held, what its reads have given, in order, and how many of its writes are made (16
R342). -/
structure SampReq where
  core : Nat
  bank : Nat
  id : BitVec 32
  ctx : Nat
  k : BitVec 3
  job : Nat
  addr : Word
  spec : Nat
  lat : Bool
  sib : Option (Nat × Nat)
  launch : Nat
  started : Bool
  held : Bool
  got : List SampRead
  stage : Nat
  deriving DecidableEq, Repr

/-- States of a sibling (18 R398). -/
inductive SibState where
  | running | posted | cancelled
  deriving DecidableEq, Repr

/-- A sibling of a group (18 R398-R407). `test` asks for the test of R404, `release` is the tick at which its release started. -/
structure Sib where
  st : SibState
  hash : Word
  tick : Nat
  sub : BitVec 8
  test : Bool
  release : Option Nat
  tokens : Nat
  cycles : Nat
  pages : Nat
  lates : Nat
  deriving DecidableEq, Repr

/-- An open sibling group (18 R397-R406), listed under GID + 1024 × the model's count of groups opened. `closing` lists the queues
whose GROUP_CLOSE waits, `closed` the tick of close, `stage` how many writes of its record are made, `held` that one is held. -/
structure Group where
  ctx : Nat
  n : Nat
  aq : Option Nat
  gscope : Nat
  record : Word
  pbase : Word
  slots : List (BitVec 22)
  pstride : Nat
  seq : Word
  sibs : List Sib
  winner : Option (Word × Nat)
  closing : List Nat
  closed : Option Nat
  stage : Nat
  held : Bool
  deriving DecidableEq, Repr

/-- A GROUP_OPEN whose prefix attach is under way (18 R399): its GID and AQ, N, its slots, how many are attached, the operations that have not
performed, and whether one was refused. -/
structure Attach where
  gid : Nat
  aq : Nat
  n : Nat
  ids : List (BitVec 22)
  made : Nat
  out : Nat
  undo : Bool
  deriving DecidableEq, Repr

/-- A post on its way to Shallot (18 R400): its task, the tick it was sent, the register of its result. -/
structure Post where
  core : Nat
  bank : Nat
  id : BitVec 32
  tick : Nat
  d : Nat
  hash : Word
  deriving DecidableEq, Repr

/-- A fault record (23 R454); `tcode` is the code of a `trap` (05 R136) and `elem` the register or tile that an error struck (23 R450), for
which the record's bytes give no place. -/
structure FaultRec where
  dtick : Word
  kind : Nat
  code : BitVec 8
  sub : BitVec 8
  ctx : Option Nat
  core : Nat
  bank : Nat
  side : Nat
  action : BitVec 8
  pa : Nat
  pc : Word
  struct_ : Nat
  slice : Nat
  way : Nat
  sector : Nat
  set : Nat
  owner : Nat
  task : BitVec 32
  tcode : BitVec 16
  elem : Nat
  deriving DecidableEq, Repr

/-- A mailbox of a function of port 0 (23 R460): rings, counters and the messages waiting for room. -/
structure Mbox where
  outTail : BitVec 32
  outHead : BitVec 32
  inTail : BitVec 32
  inHead : BitVec 32
  ie : Bool
  outRing : Tab Word
  inRing : Tab Word
  waiting : List (BitVec 8 × Msg)
  deriving DecidableEq, Repr

/-- An MSI-X table entry as PCIe defines it (23 R462): address, data, whether it is masked, and whether a vector sent while it was masked
is held pending. -/
structure MsixEntry where
  addr : Word
  data : BitVec 32
  masked : Bool
  pending : Bool
  deriving DecidableEq, Repr

/-- A message from one core of Fennel to another (23 R459): the sender and 64 bytes. -/
structure FMsg where
  src : Nat
  bytes : BitVec 512
  deriving DecidableEq, Repr

/-- The front end (15); `pick` names the stage whose dispatch it has chosen (17 R373). -/
structure FrontEnd where
  queues : Tab CQueue
  launches : Tab Launch
  saved : Tab Saved
  reserved : Tab (BitVec 12)
  nextTask : BitVec 32
  nextLaunch : Nat
  nextSaved : Nat
  nextGroup : Nat
  curq : Nat
  pick : Option Nat
  deriving DecidableEq, Repr

/-- Fennel and its registers (23): F3's fault records, newest first, and their count; the mailboxes; vectors sent; the recovery
registers; the message being served; `power`, `boundary` the readings of R475 and R476; `corrected` the ticks of the corrected
errors of a way (slice * 16 + way), `sectors` those counted of a sector of device memory, `telemetry` the other corrected errors,
`refusals` the waits that a semaphore file has refused (11 R282); `later` the pages and ways, 255 for none, whose retirement or
quarantine waits; `table` the MSI-X entries by function * 2 + vector, `inboxes` the messages in each core's inbox, first the
oldest (R459), `powerAt` the tick of the newest power reading. -/
structure Fennel where
  faults : List FaultRec
  nfaults : Nat
  boxes : Tab Mbox
  msix : List (Nat × Nat)
  alive : BitVec 8
  hung : BitVec 8
  frozen : Bool
  hostmode : Bool
  rcvop : BitVec 8
  rcvarg : BitVec 8
  rcvsts : BitVec 8
  rcvdata : Tab Word
  tripped : Bool
  serving : Nat
  msgtype : BitVec 8
  msg : Msg
  power : List Nat
  boundary : List (List (Nat × Nat))
  telemetry : Nat
  sectors : Tab Nat
  refusals : Tab Nat
  corrected : Tab (List Nat)
  later : List (Option Nat × Nat × Nat)
  unsent : List (Nat × BitVec 8 × Msg)
  inband : List (Nat × Nat)
  table : Tab MsixEntry
  inboxes : Tab (List FMsg)
  powerAt : Nat
  deriving DecidableEq, Repr

/-- Bring-up and the memories (25 R484-R486, 16 R339); `wiping` is the life-cycle state that a wipe leads to with the SEQ of its
request (25 R482), `ptmNext` the DT from which PTM may correct DT again, `omit_` a tick that DT is to omit (25 R488), `images` the firmware that runs, F0 to F7 and the recovery copy (25 R479). -/
structure Boot where
  phase : Nat
  lptrained : Bool
  lpfail : BitVec 24
  lpdone : BitVec 24
  cxl0 : Bool
  cxl1 : Bool
  cxlDone : BitVec 2
  cap0 : Nat
  cap1 : Nat
  reserve : List Nat
  wiping : Option (Nat × BitVec 16)
  ptmNext : Nat
  omit_ : Bool
  images : List FwImage
  deriving DecidableEq, Repr

/-- The non-volatile store and the fuses (23 R455, R457, R467; 25 R479-R483): `keys` is the number of the identity key pairs once generated,
`secret` says that their private halves are held, `waiting` lists pages whose retirement waits for the next reset. -/
structure Nv where
  lcs : Nat
  count : Nat
  keys : Option Nat
  secret : Bool
  retired : List Nat
  waiting : List Nat
  quarantined : List (Nat × Nat)
  dueReturn : Bool
  fusedMin : Nat
  version : Nat
  deriving DecidableEq, Repr

/-- Peers, routes and writes on their way to a peer (16 R340-R343, 09 R224). A route is VALID and a path mask; `members` marks the chips
that have had a valid route, the devices of the pod; `refusing` lists ranges, as (address, LOG2), for which a peer refuses requests
(16 R357), `holes` those of a peer that lie in no frame (16 R339); `sems` are the operations
on other devices' slots that await a reply, waits also while they are armed there (11 R280, R282), `classes` the best class of the armed
waits on such a slot (11 R295). -/
structure Pod where
  chip : BitVec 6
  routes : Tab (Bool × BitVec 3)
  members : BitVec 64
  refusing : List (Nat × Nat)
  holes : List (Nat × Nat)
  sems : List SemMsg
  classes : List (BitVec 22 × Nat)
  stripes : Tab (List Nat)
  out : List SWrite
  markers : Tab Nat
  moving : List (Nat × Nat)
  notices : List (Nat × Nat × Nat)
  deriving DecidableEq, Repr

/-- The strand whose instruction is executed (the model's own). -/
structure Cur where
  core : Nat
  bank : Nat
  side : Side
  deriving DecidableEq, Repr

/-- An instruction or event and the place it acts at: a strand, core or cluster, and a walker's job (the model's
own). -/
structure Ev where
  cur : Cur
  job : Nat
  i : Instr
  deriving DecidableEq, Repr

/-- Who moves in a tick (the model's own): a core begins a cc, a strand takes a cc, a walk program runs a word, or an
agent performs an event, the front end serves a queue or dispatches for one of the stages listed with their launches, Chard finds a frame to
start or writes a frame's record, Shallot looks at a group, or Fennel serves a function's
mailbox. -/
inductive Agent where
  | begin (core : Nat)
  | strand (core : Nat) (side : Side)
  | walker (job : Nat)
  | queue (q : Nat)
  | dispatch (open_ : List (Nat × Nat))
  | arm (stream : Nat)
  | record (stream : Nat)
  | shallot (group : Nat)
  | mailbox (fn : Nat)
  | event (e : Ev)
  deriving DecidableEq, Repr

/-- A line that an L2 slice holds: its owner tag and its way (23 R446; 16 R348). -/
structure L2Line where
  owner : Nat
  way : Nat
  deriving DecidableEq, Repr

/-- The state of the device; `lines` lists the lines that the L2 slices hold, by physical address / 256 (09 R221), `slow` the writes that
wait in a slice for a line of a quarantined way (23 R458), `latent` the errors that have struck and that no read has found, with whether they
can be corrected (23 R447); `decoders` lists the pictures in the four decoders by their queue (17 R381), `opens` the prefix attaches by theirs (18 R399); `retired` keeps, by id, the retired tasks whose windows copies and walk programs still use (11 R292). The last eight fields are the model's own. -/
structure State where
  dt : Word
  tasks : Tab Task
  retired : Tab Task
  cores : Tab Core
  clusters : Tab Cluster
  jobs : Tab Job
  mem : List Host.Cell
  l2 : Tab L2Sector
  lines : Tab L2Line
  slow : List SWrite
  latent : List (Bool × ErrPlace)
  poison : List Nat
  ctxs : Tab Ctx
  fe : FrontEnd
  streams : Tab Stream
  decoders : Tab BlockJob
  sorrel : Tab (List SampReq)
  groups : Tab Group
  opens : Tab Attach
  posts : List Post
  fen : Fennel
  boot : Boot
  nv : Nv
  pod : Pod
  cur : Cur
  job : Nat
  stall : Option Nat
  trapped : Bool
  agenda : List Ev
  turn : List Agent
  fresh : Nat
  nextJob : Nat
  deriving DecidableEq, Repr

/-- A strand with nothing in it. -/
def Strand.zero : Strand :=
  { pc := 0, regs := [], preds := 0, loopc := 0, trap := { code := 0, sub := 0, fatal := false }, trappc := 0,
    hold := none, ended := false, via := none }

/-- A token at the start (03 R73). -/
def Token.zero : Token := { st := .idle, errc := 0, done := 0, job := 0 }

/-- An A-strand state with nothing in it. -/
def AState.zero : AState :=
  { toks := [], issued := 0, nextpc := none, podmask := 0, binds := [], decls := [], lands := [], wait := none,
    fill := none, ready := [], awaited := [], outst := 0, blocked := false, mskip := none, gap := 0, samp := none, group := 0 }

/-- An UNBOUND register slot (03 R65). -/
def Slot.unbound : Slot := { phys := none, age := none }

/-- An X-strand state as a fresh image has it, but for its generators (03 R64, R65, R76). -/
def XState.zero : XState :=
  { masks := [], gens := [], base := 0, step := 1, rndm := 0, mrows := [], slots := [], flights := [], gap := 0,
    freeze := 0, array := 0, ic := 0, named := [],
    touch := [], waits := 0, seeds := none, last := 0 }

/-- A row that no image lists: zero and EMPTY. -/
def SRow.zero : SRow := { data := 0, tag := .empty, seen := .empty, ue := 0 }

/-- A parameter set of zeros. -/
def PSet.zero : PSet := { w0 := 0, w1 := 0, w2 := 0, w3 := 0 }

/-- A port without `.port` directive (08 R203). -/
def Port.idle : Port :=
  { staged := PSet.zero, active := none, pending := none, i0 := 0, i1 := 0, i2 := 0, i3 := 0, count := 0 }

/-- An empty queue. -/
def Queue.zero : Queue := { items := [], popped := 0 }

/-- A core with nothing in it. -/
def Core.zero : Core :=
  { bank := 0, l1 := [], icache := [], spill := 0, sems := [], monitors := [], inbox := [], served := [], last := none, cc := 0,
    switching := false }

/-- A free slot (11 R276). -/
def Sem.zero : Sem := { v := 0, owner := 0 }

/-- An idle walker. -/
def Walker.zero : Walker := { lat := [], bulk := [], run := [], timed := [] }

/-- A cluster after device reset: 800 MHz (03 R76), its island on or off as bring-up says (25 R485). -/
def Cluster.zero (on : Bool) : Cluster :=
  { mhz := 800, on := on, acc := 0, volt := 0, droop := false, droops := 0, temp := 0, capped := false, ctxs := [],
    store := [], loaded := [], parked := [], egress := [], hints := [], dropped := 0, walkers := [], skipped := 0, evaluated := 0,
    vclock := 800, goal := none, supply := 0, osc := 0 }

/-- A context that F2 has not set up: no table, no reservation, the timeout of 100 ms that RESERVE 0 gives. -/
def Ctx.zero : Ctx :=
  { table := [], pages := [], resv := 0, timeout := 100, pool := [], late := 0, lost := 0, specCur := 0, specPend := 0,
    oov := 0, debug := false, faults := [], term := none, begun := false, ended := false }

/-- A task outside every stream and group. -/
def Member.none : Member := { stream := Option.none, frame := 0, group := Option.none, index := 0, size := 0 }

/-- An L2 sector with no dirty byte. -/
def L2Sector.zero : L2Sector := { poison := false, dirty := 0, data := 0 }

/-- A message of zeros. -/
def Msg.zero : Msg :=
  { src := 0, seq := 0, status := 0, p1 := 0, p2 := 0, p3 := 0, p4 := 0, p5 := 0, p6 := 0, p7 := 0 }

/-- A mailbox after reset (23 R460). -/
def Mbox.zero : Mbox :=
  { outTail := 0, outHead := 0, inTail := 0, inHead := 0, ie := false, outRing := [], inRing := [], waiting := [] }

/-- An MSI-X entry after reset: masked (PRESUMED: as PCIe resets it). -/
def MsixEntry.zero : MsixEntry := { addr := 0, data := 0, masked := true, pending := false }

/-- The 16 islands that run in reduced service (25 R485), those of clusters `k` to 15. -/
def Cluster.first : Nat → Tab Cluster
  | 0 => []
  | k + 1 => (15 - k, Cluster.zero true) :: Cluster.first k

/-- The machine right after a device reset (03 R76, 11 R276, 23 R460, R464, R467; 25 R484, R485): DEVSTAT.PHASE 0,
no queue, context, launch or task, every memory wiped. -/
def State.reset : State :=
  { dt := 0, tasks := [], retired := [], cores := [], clusters := Cluster.first 16, jobs := [], mem := [], l2 := [], lines := [], slow := [],
    latent := [], poison := [], ctxs := [],
    fe := { queues := [], launches := [], saved := [], reserved := [], nextTask := 1, nextLaunch := 1, nextSaved := 1,
            nextGroup := 0, curq := 0, pick := none },
    streams := [], decoders := [], sorrel := [], groups := [], opens := [], posts := [],
    fen := { faults := [], nfaults := 0, boxes := [], msix := [], alive := 0xFF, hung := 0, frozen := false,
             hostmode := false, rcvop := 0, rcvarg := 0, rcvsts := 0, rcvdata := [], tripped := false, serving := 0, msgtype := 0, msg := Msg.zero, power := [],
             boundary := [], telemetry := 0, sectors := [], refusals := [], corrected := [], later := [], unsent := [],
             inband := [], table := [], inboxes := [], powerAt := 0 },
    boot := { phase := 0, lptrained := false, lpfail := 0, lpdone := 0, cxl0 := false, cxl1 := false, cxlDone := 0,
              cap0 := 0, cap1 := 0, reserve := [], wiping := none, ptmNext := 0,
              omit_ := false, images := [] },
    nv := { lcs := 0, count := 0, keys := none, secret := false, retired := [], waiting := [], quarantined := [], dueReturn := false,
            fusedMin := 0, version := 0 },
    pod := { chip := 0, routes := [], members := 0, refusing := [], holes := [], sems := [], classes := [], stripes := [], out := [], markers := [], moving := [], notices := [] },
    cur := { core := 0, bank := 0, side := .a }, job := 0, stall := none, trapped := false, agenda := [], turn := [], fresh := 0,
    nextJob := 1 }

end Sys2Proof.Machine
end

