-- ==== Sys2Proof/Machine/Ops.lean ====
section
/-! DEFINITION. Named operations over strands, registers, the scratchpad and its tags, the writes in flight of the
X-strand, fault records, taking a trap and returning from a stop (03, 04 R99-R106, 08 R195-R201, 19 R410-R415,
23 R454). -/

namespace Sys2Proof.Machine

/-- What an instruction or a step answers. -/
abbrev Out := Host.Outcome State Fault Refusal

/-! ### The acting place, cores and tasks -/

/-- The key of a bank's task. -/
def Cur.key (c : Cur) : Nat := c.core * 2 + c.bank

/-- The task in a bank. -/
def State.task (s : State) (core bank : Nat) : Option Task := tfind s.tasks (core * 2 + bank)

/-- The state with a bank's task replaced. -/
def State.putTask (s : State) (core bank : Nat) (t : Task) : State :=
  { s with tasks := tins s.tasks (core * 2 + bank) t }

/-- The task at the acting place. -/
def State.here (s : State) : Option Task := tfind s.tasks s.cur.key

/-- The state with the acting task replaced. -/
def State.putHere (s : State) (t : Task) : State := { s with tasks := tins s.tasks s.cur.key t }

/-- A core's state. -/
def State.core (s : State) (n : Nat) : Core := tget Core.zero s.cores n

/-- The state with a core replaced. -/
def State.putCore (s : State) (n : Nat) (c : Core) : State := { s with cores := tset Core.zero s.cores n c }

/-- A cluster's state; a cluster that the table does not list is off. -/
def State.cluster (s : State) (n : Nat) : Cluster := tget (Cluster.zero false) s.clusters n

/-- The state with a cluster replaced. -/
def State.putCluster (s : State) (n : Nat) (c : Cluster) : State :=
  { s with clusters := tset (Cluster.zero false) s.clusters n c }

/-- A context's state. -/
def State.ctx (s : State) (n : Nat) : Ctx := tget Ctx.zero s.ctxs n

/-- The state with a context replaced. -/
def State.putCtx (s : State) (n : Nat) (c : Ctx) : State := { s with ctxs := tset Ctx.zero s.ctxs n c }

/-- The place of a strand, made the acting place. -/
def State.at_ (s : State) (core bank : Nat) (sd : Side) : State := { s with cur := { core := core, bank := bank, side := sd } }

/-- A core instruction's effect on its task; without a task the model stops (it never does from `step`). -/
def onTask (s : State) (f : Task → State) : Out :=
  match s.here with
  | none => .fault .noTask
  | some t => .next (f t)

/-- The group at the acting place cannot issue in this cc, for a reason of 04 R104 or 19 R410: 1 a freeze or an A-strand
stall, 2 an empty issue cycle, 3 a reload of a SPILLED slot, 16 × m a freeze on the ports of the mask m, 16 × m + 4 a reload
beside a freeze. One that has begun and waits (5) keeps its effects. -/
def State.wait (s : State) (why : Nat) : State := { s with stall := some why }

/-- The instruction cannot issue yet, and what it has done stands (18 R383). -/
def State.keep (s : State) : State := { s with stall := some 5 }

/-- A value that the spec leaves open, drawn for the counter. -/
def State.draw (s : State) : Nat × State := (Config.freeNat s.fresh, { s with fresh := s.fresh + 1 })

/-- A 64-bit value that the spec leaves open, drawn for the counter. -/
def State.drawWord (s : State) : Word × State := (Config.freeWord s.fresh, { s with fresh := s.fresh + 1 })

/-! ### Strand registers (03 R56-R58) -/

/-- A strand of a task. -/
def Task.st (t : Task) : Side → Strand
  | .a => t.a
  | .x => t.x

/-- A change of one strand. -/
def Task.onSt (t : Task) (sd : Side) (f : Strand → Strand) : Task :=
  match sd with
  | .a => { t with a := f t.a }
  | .x => { t with x := f t.x }

/-- A change of the A-strand's own state. -/
def Task.onA (t : Task) (f : AState → AState) : Task := { t with as := f t.as }

/-- A change of the X-strand's own state. -/
def Task.onX (t : Task) (f : XState → XState) : Task := { t with xs := f t.xs }

/-- A scalar register: s0 reads 0 (R56). -/
def Task.rd (t : Task) (sd : Side) (r : Reg) : Word := if r = 0 then 0 else tget 0 (t.st sd).regs r.toNat

/-- A predicate: p0 reads true (R57). -/
def Task.pr (t : Task) (sd : Side) (p : BitVec 3) : Bool := p == 0 || (t.st sd).preds.getLsbD p.toNat

/-- A guard: bit 3 negates (R57). -/
def Task.guard (t : Task) (sd : Side) (g : Guard) : Bool := (t.pr sd (g.extractLsb' 0 3)) != g.getLsbD 3

/-- The second operand of an SX instruction (05 R112). -/
def Task.src (t : Task) (sd : Side) : Src → Word
  | .reg r => t.rd sd r
  | .imm v => v.signExtend 64

/-- A lane mask: g0 reads all ones (R58). -/
def Task.mask (t : Task) (g : BitVec 3) : Word := if g = 0 then BitVec.allOnes 64 else tget 0 t.xs.masks g.toNat

/-- A scalar register set at once; s0 discards. -/
def Strand.setReg (st : Strand) (r : Nat) (v : Word) : Strand := if r = 0 then st else { st with regs := tset 0 st.regs r v }

/-- A predicate set at once; p0 discards. -/
def Strand.setPred (st : Strand) (p : Nat) (b : Bool) : Strand :=
  if p = 0 then st
  else { st with preds := if b then st.preds ||| (1 <<< p : BitVec 8) else st.preds &&& ~~~(1 <<< p : BitVec 8) }

/-- The pc moves to the next word. -/
def Task.advance (t : Task) (sd : Side) : Task := t.onSt sd fun st => { st with pc := st.pc + 1 }

/-! ### Windows (03 R53, R54) and matrix register slots (03 R63, R64) -/

/-- Rows of a window. -/
def Windows.rows (w : Windows) : Nat := 2 * w.spSize

/-- The physical row of a window-relative row. -/
def Windows.phys (w : Windows) (v : Nat) : Nat :=
  if v < w.spSize then w.spBase + v else 6144 + w.spBase + (v - w.spSize)

/-- The bank group and bank of a row as one number: 0-15 in GA, 16-31 in GB (R54). -/
def Windows.bankOf (w : Windows) (v : Nat) : Nat := (if v < w.spSize then 0 else 16) + w.phys v % 16

/-- The ring length Q (R64). -/
def Task.ring (t : Task) : Nat := t.who.n - 32

/-- The slot that a matrix register name maps to (R64); none when it is not declared (R63). -/
def Task.slotOf (t : Task) (m : Nat) : Option Nat :=
  if t.who.n ≤ m then none
  else if m < 32 then some m
  else some (32 + (m - 32 + t.xs.base.toNat) % t.ring)

/-- A row of a register slot. -/
def Task.mrow (t : Task) (slot row : Nat) : Row := tget 0 t.xs.mrows (slot * 64 + row)

/-- Cells of a row replaced where the cell mask has ones. -/
def blend (old new m : Row) : Row := (new &&& m) ||| (old &&& ~~~m)

/-- The cells of the lanes of a mask. -/
def laneCells (g : Word) : Row :=
  (List.range 64).foldl (fun (r : Row) j => if g.getLsbD j then r ||| (0xFFFF#1024 <<< (16 * j)) else r) 0

/-! ### Scratchpad rows, tags and tiles (08 R195-R201) -/

/-- A scratchpad row. -/
def Task.row (t : Task) (v : Nat) : SRow := tget SRow.zero t.rows v

/-- A tag is set: tests see it in the next cc (R197); each tile that holds the row has its direction updated (R201). -/
def Task.setTag (t : Task) (v : Nat) (g : Tag) : Task :=
  let r := t.row v
  let up : Option Bool :=
    if r.tag = .empty && g ≠ .empty then some true else if r.tag ≠ .empty && g = .empty then some false else none
  { t with
    rows := tset SRow.zero t.rows v { r with tag := g }
    touched := if t.touched.contains v then t.touched else v :: t.touched
    tiles :=
      match up with
      | none => t.tiles
      | some b => tmap t.tiles fun _ e => if e.first ≤ v && v < e.first + e.count then { e with up := b } else e }

/-- The struck sectors of a row that a write leaves: one written whole holds good bytes again. -/
def ueAfter (ue : BitVec 4) (m : Row) : BitVec 4 :=
  (List.range 4).foldl (fun (u : BitVec 4) k =>
    if m.extractLsb' (256 * k) 256 = BitVec.allOnes 256 then u &&& ~~~(1 <<< k : BitVec 4) else u) ue

/-- Bytes of a row set where the mask has ones. -/
def Task.setRow (t : Task) (v : Nat) (new m : Row) : Task :=
  let r := t.row v
  { t with rows := tset SRow.zero t.rows v { r with data := blend r.data new m, ue := if r.ue = 0 then 0 else ueAfter r.ue m } }

/-- The cc ends for the tags: tests see what the rows hold (R197). -/
def Task.settleTags (t : Task) : Task :=
  { t with
    rows := t.touched.foldl (fun rs v => let r := tget SRow.zero rs v; tset SRow.zero rs v { r with seen := r.tag }) t.rows
    touched := [] }

/-- A store-port write that performs: active cells and the tag of R196. -/
def Task.storeRow (t : Task) (v : Nat) (new m : Row) : Task :=
  let g := if m = BitVec.allOnes 1024 then Tag.full else if (t.row v).tag = .poison then .poison else .full
  (t.setRow v new m).setTag v g

/-- Rows reserved by writes and pops in flight (08 R199, 07 R174). -/
def FKind.rows : FKind → List Nat
  | .prow row _ _ => [row]
  | .mst _ _ _ _ rows => rows.map fun e => e.2.1
  | .mma j => j.pops.map fun p => p.row
  | _ => []

/-- Whether a row is reserved. -/
def Task.reserved (t : Task) (v : Nat) : Bool := t.xs.flights.any fun f => f.kind.rows.contains v

/-! ### Writes in flight (03 R59, 04 R100) -/

/-- An X-strand result is put in flight by the word at the pc. -/
def Task.launchX (t : Task) (lat : Nat) (k : FKind) : Task :=
  t.onX fun x => { x with flights := x.flights ++ [{ pc := t.x.pc, age := 0, lat := lat, kind := k, word := 0 }] }

/-- A scalar result: in flight on the X-strand, behind the scoreboard on the A-strand (04 R100, R102). -/
def Task.result (t : Task) (sd : Side) (r : Reg) (lat : Nat) (v : Word) : Task :=
  if r = 0 then t
  else
    match sd with
    | .a => { t with a := t.a.setReg r.toNat v, as := { t.as with ready := tset 0 t.as.ready r.toNat lat } }
    | .x => t.launchX lat (.sreg r.toNat v)

/-- A predicate result. -/
def Task.predResult (t : Task) (sd : Side) (p : BitVec 3) (lat : Nat) (b : Bool) : Task :=
  if p = 0 then t
  else
    match sd with
    | .a => { t with a := t.a.setPred p.toNat b, as := { t.as with ready := tset 0 t.as.ready (64 + p.toNat) lat } }
    | .x => t.launchX lat (.pred p.toNat b)

/-- Cells of a register slot's row written (03 R59); the slot's age is the issue cycle (03 R66). -/
def Task.writeCells (t : Task) (slot row : Nat) (new m : Row) : Task :=
  t.onX fun x =>
    { x with
      mrows := tset 0 x.mrows (slot * 64 + row) (blend (tget 0 x.mrows (slot * 64 + row)) new m)
      slots := tmod x.slots slot fun e => { e with age := some x.ic } }

/-- A byte of a scalar replaced. -/
def setByte (v : Word) (p : Nat) (b : Byte) : Word :=
  (v &&& ~~~((0xFF#64) <<< (8 * p))) ||| ((b.setWidth 64) <<< (8 * p))

/-- A whole write of one S- or V-slot instruction performs. -/
def Task.performPlain (t : Task) (k : FKind) : Task :=
  match k with
  | .sreg r v => { t with x := t.x.setReg r v }
  | .sbyte r p v => { t with x := t.x.setReg r (setByte (tget 0 t.x.regs r) p v) }
  | .pred p b => { t with x := t.x.setPred p b }
  | .gmask g v => if g = 0 then t else t.onX fun x => { x with masks := tset 0 x.masks g v }
  | .cells slot rows => rows.foldl (fun t e => t.writeCells slot e.1 e.2.1 e.2.2) t
  | .prow row v m => t.storeRow row v m
  | _ => t

/-- What a fatal trap performs of a flight: whole writes and rows already popped or taken; no engine result
(19 R412, R415). -/
def Task.drain (t : Task) (f : Flight) : Task :=
  match f.kind with
  | .mld slot d _ _ m _ rows => rows.foldl (fun t e => t.writeCells slot (d + e.1) e.2 m) t
  | .mst _ m _ _ rows => rows.foldl (fun t e => t.storeRow e.2.1 e.2.2 m) t
  | k => t.performPlain k

/-- A flight split at a stop boundary (19 R412): its writes due in the coming issue cycle, as a flight to drain, and what stays
in flight. Engine results stay (R414). -/
def Flight.split (f : Flight) : Option Flight × Option Flight :=
  let due (r : Nat) : Bool := decide (2 * (r + 1) ≤ f.age + 1)
  match f.kind with
  | .mld slot d p r m made rows =>
    (some { f with kind := .mld slot d p r m made (rows.filter fun e => due e.1) },
     if f.lat ≤ f.age + 1 && decide (r ≤ made) then none
     else some { f with kind := .mld slot d p r m made (rows.filter fun e => !due e.1) })
  | .mst p m todo made rows =>
    (some { f with kind := .mst p m todo made (rows.filter fun e => due e.1) },
     if f.lat ≤ f.age + 1 && todo.isEmpty then none
     else some { f with kind := .mst p m todo made (rows.filter fun e => !due e.1) })
  | .aread _ _ _ _ _ => (none, some f)
  | .awrite _ _ _ => (none, some f)
  | .acc _ => (none, some f)
  | .mma _ => (none, some f)
  | _ => if f.lat ≤ f.age + 1 then (some f, none) else (none, some f)

/-- At the stop boundary the writes due in the coming issue cycle perform, since the group there would read them (19 R412). -/
def Task.settle (t : Task) : Task :=
  let ps := t.xs.flights.map Flight.split
  let t1 := (ps.filterMap fun e => e.1).foldl Task.drain t
  t1.onX fun x => { x with flights := ps.filterMap fun e => e.2 }

/-- A fatal trap: the writes due at the boundary perform, then every other write in flight in issue order, and nothing stays in
flight (03 R52, 04 R83, 19 R415). -/
def Task.drainAll (t : Task) : Task :=
  let t0 := t.settle
  let t1 := t0.xs.flights.foldl Task.drain t0
  t1.onX fun x => { x with flights := [], array := 0, gap := 0, freeze := 0 }

/-! ### Fault records and mailboxes (23 R454, R460, R461) -/

/-- A record with nothing to say. -/
def FaultRec.blank (dt : Word) (kind : Nat) (code sub : BitVec 8) : FaultRec :=
  { dtick := dt, kind := kind, code := code, sub := sub, ctx := none, core := 0xFFFF, bank := 0, side := 0, action := 0,
    pa := 0, pc := 0, struct_ := 0, slice := 0, way := 0xFF, sector := 0, set := 0, owner := 0, task := 0, tcode := 0, elem := 0 }

/-- The 48 bytes of a record as six words (R454). -/
def FaultRec.words (r : FaultRec) : List Word :=
  let ctx : BitVec 8 := match r.ctx with | none => 0x80 | some c => BitVec.ofNat 8 (c % 16)
  [r.dtick,
   (r.action ++ BitVec.ofNat 8 (r.bank % 2 + 2 * (r.side % 2)) ++ BitVec.ofNat 16 r.core ++ ctx ++ r.sub ++ r.code ++
     BitVec.ofNat 8 r.kind : BitVec 64),
   BitVec.ofNat 64 r.pa, r.pc,
   (0#8 ++ BitVec.ofNat 8 r.owner ++ BitVec.ofNat 16 r.set ++ BitVec.ofNat 8 r.sector ++ BitVec.ofNat 8 r.way ++
     BitVec.ofNat 8 r.slice ++ BitVec.ofNat 8 r.struct_ : BitVec 64),
   (0#32 ++ r.task : BitVec 64)]

/-- A mailbox by function: 0 the physical function, c virtual function c. -/
def State.box (s : State) (fn : Nat) : Mbox := tget Mbox.zero s.fen.boxes fn

/-- The state with a mailbox replaced. -/
def State.putBox (s : State) (fn : Nat) (b : Mbox) : State :=
  { s with fen := { s.fen with boxes := tset Mbox.zero s.fen.boxes fn b } }

/-- A message as its eight words (R461). -/
def msgWords (ty : BitVec 8) (m : Msg) : List Word :=
  [(m.status ++ m.seq ++ m.src ++ ty : BitVec 64), m.p1, m.p2, m.p3, m.p4, m.p5, m.p6, m.p7]

/-- Writes a list of words into a ring from word number `k`. -/
def putWords (r : Tab Word) (k : Nat) : List Word → Tab Word
  | [] => r
  | w :: ws => putWords (tset 0 r k w) (k + 1) ws

/-- Posts the waiting messages that have room (R460); the fuel is the ring's size. -/
def Mbox.flush : Nat → Mbox → Mbox × Nat
  | 0, b => (b, 0)
  | n + 1, b =>
    match b.waiting with
    | [] => (b, 0)
    | (ty, m) :: rest =>
      if 16 ≤ (b.outTail - b.outHead).toNat then (b, 0)
      else
        let b1 := { b with waiting := rest, outTail := b.outTail + 1,
                           outRing := putWords b.outRing (b.outTail.toNat % 16 * 8) (msgWords ty m) }
        let (b2, k) := Mbox.flush n b1
        (b2, k + 1)

/-- The MSI-X entry of a function's vector (R462). -/
def Fennel.entry (f : Fennel) (fn vec : Nat) : MsixEntry := tget MsixEntry.zero f.table (fn * 2 + vec)

/-- MSI-X vectors sent, in order, as (function, vector); one sent while masked is held pending (R462). -/
def Fennel.msi (f : Fennel) (fn vec n : Nat) : Fennel :=
  if n = 0 then f
  else if (f.entry fn vec).masked then
    { f with table := tset MsixEntry.zero f.table (fn * 2 + vec) { (f.entry fn vec) with pending := true } }
  else { f with msix := f.msix ++ List.replicate n (fn, vec) }

/-- The MSI-X entry of a function's vector (R462). -/
def State.msixEntry (s : State) (fn vec : Nat) : MsixEntry := s.fen.entry fn vec

/-- A vector of a function is sent `n` times (R462). -/
def State.msi (s : State) (fn vec n : Nat) : State := { s with fen := s.fen.msi fn vec n }

/-- The number of a context's virtual function; the physical function is 0, and context 0's virtual function counts as 16 (01 R18; log
112). -/
def vfOf (ctx : Nat) : Nat := if ctx = 0 then 16 else ctx

/-- The context that a virtual function serves (R460). -/
def ctxOf (fn : Nat) : Nat := if fn = 16 then 0 else fn

/-- A message put into a function's outbound ring: it waits in order while the ring is full (R460). -/
def State.deliver (s : State) (fn : Nat) (ty : BitVec 8) (m : Msg) : State :=
  let (b, k) := Mbox.flush 17 { (s.box fn) with waiting := (s.box fn).waiting ++ [(ty, m)] }
  let s1 := s.putBox fn b
  if b.ie then s1.msi fn (if fn = 0 then 1 else 0) k else s1

/-- A message that a core of Fennel posts to a function (R460); one of a hung core waits for its restart (R463, R466; DEDUCED, log
116). -/
def State.post (s : State) (fn : Nat) (ty : BitVec 8) (m : Msg) : State :=
  if s.fen.alive.getLsbD m.src.toNat then s.deliver fn ty m
  else { s with fen := { s.fen with unsent := s.fen.unsent ++ [(fn, ty, m)] } }

/-- The messages that waited for a core of Fennel that is alive again are posted, in order. -/
def State.sendUnsent (s : State) : State :=
  let ready (e : Nat × BitVec 8 × Msg) : Bool := s.fen.alive.getLsbD e.2.2.src.toNat
  let go := s.fen.unsent.filter ready
  go.foldl (fun s e => s.deliver e.1 e.2.1 e.2.2)
    { s with fen := { s.fen with unsent := s.fen.unsent.filter fun e => !ready e } }

/-- The FAULT message of a record (R461). -/
def FaultRec.msg (r : FaultRec) : Msg :=
  match r.words with
  | [a, b, c, d, e, f] => { Msg.zero with src := 3, p1 := a, p2 := b, p3 := c, p4 := d, p5 := e, p6 := f }
  | _ => Msg.zero

/-- A record is posted to the physical function and to the context that it names (R454). -/
def State.postFault (s : State) (r : FaultRec) : State :=
  let s1 := s.post 0 1 r.msg
  match r.ctx with
  | none => s1
  | some c => s1.post (vfOf c) 1 r.msg

/-- F3's ring of 1024 records, newest first (R454). -/
def State.addFault (s : State) (r : FaultRec) : State :=
  { s with fen := { s.fen with faults := (r :: s.fen.faults).take 1024, nfaults := s.fen.nfaults + 1 } }

/-- Termination of the record's context is requested: a first request marks the context and the record stands for it; a
later one adds a record and no further action (R452). ACTION[0] is set once its strands have stopped (R469). Context 0 is Fennel's and
never ends. -/
def State.terminate (s : State) (c : Nat) (r : FaultRec) : State :=
  let k := s.ctx c
  if k.term.isSome then (s.addFault r).postFault r
  else
    let s1 := s.addFault { r with ctx := some c }
    s1.putCtx c { k with term := some s1.fen.nfaults }

/-! ### Taking a trap and returning from a stop (04 R99, 19 R410-R415) -/

/-- The traps that are not fatal: BACK, CANCEL and DBG (04 R99). -/
def trapFatal (code : Nat) : Bool := !(code == 4 || code == 8 || code == 10)

/-- TRAPINFO and TRAPPC of a strand (03 R76). -/
def Task.setTrap (t : Task) (sd : Side) (code sub : Nat) (pc : Word) : Task :=
  t.onSt sd fun st =>
    { st with trap := { code := BitVec.ofNat 8 code, sub := BitVec.ofNat 8 sub, fatal := trapFatal code }, trappc := pc }

/-- A task stopped by a fatal trap: the writes in flight perform in issue order (04 R83, 19 R415). -/
def Task.stopFatal (t : Task) (sd : Side) (code sub : Nat) (pc : Word) : Task :=
  { (t.setTrap sd code sub pc).drainAll with susp := some .stopped }

/-- The fault record of a trap (23 R454); that of DATA 0x03 stands for the scratchpad's uncorrectable error too (R448; DEDUCED, log 76). -/
def trapRec (s : State) (core bank : Nat) (sd : Side) (code sub : Nat) (pc : Word) (ctx : Nat) (id : BitVec 32) : FaultRec :=
  { FaultRec.blank s.dt 1 (BitVec.ofNat 8 code) (BitVec.ofNat 8 sub) with
    ctx := some ctx, core := core, bank := bank, side := (match sd with | .a => 0 | .x => 1), pc := pc <<< 3, task := id
    struct_ := if code = 5 && sub = 3 then 3 else 0 }

/-- Taking a trap on a strand of the acting task (04 R83, R99; 19 R415): TRAPINFO and TRAPPC are written. A fatal trap
performs the writes in flight in issue order, stops both strands, writes a fault record and requests termination of the
context. `f` adds to the record what the condition gives. -/
def enterTrapFor (s : State) (sd : Side) (code sub : Nat) (pc : Word) (f : FaultRec → FaultRec) : State :=
  match s.here with
  | none => s
  | some t =>
    let s1 := { s with trapped := true, stall := none }
    if trapFatal code then
      (s1.putHere (t.stopFatal sd code sub pc)).terminate t.who.ctx
        (f (trapRec s s.cur.core s.cur.bank sd code sub pc t.who.ctx t.who.id))
    else s1.putHere (t.setTrap sd code sub pc)

/-- Taking a trap of which the record has nothing more to say. -/
def enterTrap (s : State) (sd : Side) (code sub : Nat) (pc : Word) : State := enterTrapFor s sd code sub pc id

/-- A fatal condition that a copy, walk program or slot operation meets is reported for the task that issued it (10 R249, 11
R276): a task that still exists, in its bank or saved, records the trap and stops as for any fatal one, and the context terminates. `f`
adds what the place gives. -/
def fatalFor (s : State) (core bank : Nat) (id : BitVec 32) (ctx code sub : Nat) (pc : Word) (f : FaultRec → FaultRec) :
    State :=
  let r := f (trapRec s core bank .a code sub pc ctx id)
  let s1 :=
    match s.task core bank with
    | none => s
    | some t => if t.who.id = id then s.putTask core bank (t.stopFatal .a code sub pc) else s
  let mark (v : Saved) : Saved := if v.task.who.id = id && id ≠ 0 then { v with task := v.task.setTrap .a code sub pc } else v
  State.terminate { s1 with fe := { s1.fe with saved := tmap s1.fe.saved fun _ v => mark v } } ctx r

/-- A trap that the executing word raises (03 R76). -/
def trapHere (s : State) (code sub : Nat) : State :=
  match s.here with
  | none => s
  | some t => enterTrap s s.cur.side code sub (t.st s.cur.side).pc

/-- ILL with a subcode. -/
def ill (s : State) (sub : Nat) : State := trapHere s 0x01 sub

/-- The acting task leaves its bank's issue for a reason of 03 R52; its strands keep their pcs and its writes in flight
their remaining offsets (19 R412). -/
def suspend (s : State) (why : Susp) : State :=
  match s.here with
  | none => s
  | some t => s.putHere { t with susp := some why }

/-- The return from a stop (19 R413, R417): the task is ready to issue again, and its next group is a cancellation point (18
R403). The engine's interrupted accesses are repeated when its X-strand runs next (07 R183). -/
def Task.resume (t : Task) : Task := { t with susp := none, point := true }

/-! ### Taking BACK (16 R344; 23 R461) -/

/-- The BACKFAULT message of a fault (23 R461): access kind 0 read, 1 write, 2 fetch, 3 copy or block. -/
def backMsg (ctx sub : Nat) (id : BitVec 32) (va kind : Nat) : Msg :=
  { Msg.zero with src := 2, p1 := BitVec.ofNat 64 (ctx + 256 * sub + 2 ^ 32 * id.toNat), p2 := BitVec.ofNat 64 va,
                  p3 := BitVec.ofNat 64 kind }

/-- A fault that F2 receives: it joins the context's pending faults, and the host driver is interrupted. -/
def State.holdFault (s : State) (ctx : Nat) (f : BFault) : State :=
  let c := s.ctx ctx
  (s.putCtx ctx { c with faults := c.faults ++ [f] }).post 0 2 (backMsg ctx f.sub.toNat f.id f.va f.kind)

/-- Taking BACK at the executing word (16 R344): the instruction has not performed, TRAPINFO and TRAPPC are written, the
bank is not ready, and F2 receives the fault; `chip` names the device of a slot operation without a route (16 R340). -/
def takeBackFor (s : State) (t : Task) (sub va kind : Nat) (chip : Option Nat) : State :=
  let t1 := { t.setTrap .a 4 sub t.a.pc with susp := some (Susp.back (BitVec.ofNat 8 sub)) }
  (s.putHere t1).holdFault t.who.ctx
    { sub := BitVec.ofNat 8 sub, chip := chip, va := va, kind := kind, core := s.cur.core, bank := s.cur.bank, id := t.who.id,
      at_ := s.dt.toNat, saved := none, job := none }

/-- Taking BACK for an access to an address. -/
def takeBack (s : State) (t : Task) (sub va kind : Nat) : State := takeBackFor s t sub va kind none

/-- A task that its bank could issue; one whose strands have ended still passes issue cycles until its results have
performed. -/
def Task.ready (t : Task) : Bool :=
  t.susp.isNone && t.stop.isNone && !(t.a.ended && t.x.ended && t.xs.flights.isEmpty && t.xs.array == 0)

/-! ### Legal strands -/

/-- An A-strand-only meaning: on the X-strand the word raises ILL 0x07 (04 R81). -/
def onlyA (s : State) (f : Task → State) : Out :=
  onTask s fun t => match s.cur.side with | .a => f t | .x => ill s 0x07

/-- An X-strand-only meaning (04 R81). -/
def onlyX (s : State) (f : Task → State) : Out :=
  onTask s fun t => match s.cur.side with | .x => f t | .a => ill s 0x07

/-- The MEM and SEM slots both stall: an `srel` whose add has not performed, or a `sacq` that waits (09 R238, R244,
R245). -/
def Task.fenced (t : Task) : Bool :=
  (t.as.blocked && t.as.outst != 0) ||
    match t.as.wait with
    | some w => (match w.kind with | .sacq _ => true | _ => false)
    | none => false

/-- Whether the MEM slot of the A-strand stalls: behind a `tfill` (08 R214), an `srel` or a `sacq` (09 R238). -/
def Task.memHeld (t : Task) : Bool := t.as.fill.isSome || t.fenced

end Sys2Proof.Machine
end

