-- ==== Sys2Proof/Machine/Flags.lean ====
section
/-! DEFINITION. The conditions that set a predicate: those of `cmp` (05 R119) and those of a wait on a semaphore slot with
their STALE value (11 R281). The Icward Odique has no other flags. -/

namespace Sys2Proof.Machine

/-- A `cmp` condition (05 R119). -/
def ccHolds (c : Cc) (a b : Word) : Bool :=
  match c with
  | .eq => a == b
  | .ne => a != b
  | .ltI => a.slt b
  | .geI => !a.slt b
  | .ltN => a.ult b
  | .geN => !a.ult b
  | .leI => a.sle b
  | .gtI => !a.sle b
  | .leN => a.ule b
  | .gtN => !a.ule b
  | .tst => (a &&& b) != 0
  | .ntst => (a &&& b) == 0

/-- The distance d of a `.phase` condition: (x[31:16] - t[15:0]) mod 2^16 (11 R281). -/
def phaseDist (x t : BitVec 32) : Nat := (x.extractLsb' 16 16 - t.extractLsb' 0 16).toNat

/-- A slot condition (11 R281). -/
def slotHolds (c : BitVec 3) (x t : BitVec 32) : Bool :=
  match c.toNat with
  | 0 => decide ((x - t).toNat < 2 ^ 31)
  | 1 => x == t
  | 2 => x != t
  | _ => decide (1 ≤ phaseDist x t) && decide (phaseDist x t < 2 ^ 15)

/-- STALE, the value a completed wait gives (11 R281). -/
def slotStale (c : BitVec 3) (x t : BitVec 32) : Bool := c == 3 && decide (2 ≤ phaseDist x t)

end Sys2Proof.Machine
end

