-- ==== Sys2Proof/Machine/Operands.lean ====
section
/-! DEFINITION. Every operand form of the X-strand and the queues: ports and their walks (08 R203-R209), the queues
(03 R72, 05 R129-R131), slices (03 R61, R62), broadcasts and constants (04 R89, 06 R144), the binding of register slots
(03 R65, R66), and the elements of a row (02 R27). -/

namespace Sys2Proof.Machine

/-! ### What a fetch of operands gives -/

/-- Operands being fetched: the task so far, whether one of them waits, the trap that stands (04 R104, R489), the ports
waited on (08 R212), and the word whose freeze raises QUEUE, which no other freeze hides (08 R209, 05 R131). -/
structure Fetch where
  t : Task
  wait : Bool
  trap : Option (Nat × Nat × Word)
  ports : BitVec 12
  quit : Option Word
  deriving DecidableEq, Repr

/-- The place of a trap code in the order of 04 R489. -/
def trapRank (code : Nat) : Nat :=
  match code with
  | 1 => 0
  | 3 => 1
  | 6 => 2
  | 2 => 3
  | 5 => 4
  | 7 => 5
  | 11 => 6
  | _ => 7

/-- The trap that comes first in the order of 04 R489; within one code the lower subcode; else the one met first. -/
def firstTrap (a b : Option (Nat × Nat × Word)) : Option (Nat × Nat × Word) :=
  match a, b with
  | none, y => y
  | x, none => x
  | some x, some y =>
    if trapRank y.1 < trapRank x.1 || (y.1 = x.1 && y.2.1 < x.2.1) then some y else some x

/-- A further condition of a fetch. -/
def Fetch.raise (f : Fetch) (code sub : Nat) (pc : Word) : Fetch := { f with trap := firstTrap f.trap (some (code, sub, pc)) }

/-- A fetch that waits. -/
def Fetch.hold (f : Fetch) : Fetch := { f with wait := true }

/-- A fetch that waits on a port. -/
def Fetch.holdOn (f : Fetch) (p : Nat) : Fetch := { f with wait := true, ports := f.ports ||| (1 <<< p : BitVec 12) }

/-- A freeze that raises QUEUE. -/
def Fetch.queue (f : Fetch) (pc : Word) : Fetch := { f.raise 11 0 pc with quit := some (f.quit.getD pc) }

/-- The start of a fetch. -/
def Fetch.start (t : Task) : Fetch := { t := t, wait := false, trap := none, ports := 0, quit := none }

/-- The end of a fetch: a wait freezes the group, unless it raises QUEUE; a trap is taken by the X-strand at its word, else the
rest goes on. -/
def Fetch.done (f : Fetch) (s : State) (k : Task → State) : State :=
  if f.wait then
    match f.quit with
    | some pc => enterTrap s .x 11 0 pc
    | none => s.wait (if f.ports = 0 then 1 else 16 * f.ports.toNat)
  else
    match f.trap with
    | some (code, sub, pc) => enterTrap s .x code sub pc
    | none => k f.t

/-! ### Port walks (08 R203, R204) -/

/-- A 16-bit field of a parameter word. -/
def half (w : Word) (k : Nat) : BitVec 16 := w.extractLsb' (16 * k) 16

/-- A port of the task. -/
def Task.port (t : Task) (p : Nat) : Port := tget Port.idle t.ports p

/-- The task with a port replaced. -/
def Task.putPort (t : Task) (p : Nat) (q : Port) : Task := { t with ports := tset Port.idle t.ports p q }

/-- The row of the walk position (R204), with another base where `mmag` replaces it (07 R182). -/
def Port.rowAt (q : Port) (ps : PSet) (base : Nat) : Int :=
  base + q.i0.toNat * (half ps.w2 0).toInt + q.i1.toNat * (half ps.w2 1).toInt + q.i2.toNat * (half ps.w2 2).toInt +
    q.i3.toNat * (half ps.w2 3).toInt

/-- BASE of a set. -/
def PSet.base (ps : PSet) : Nat := (ps.w0.extractLsb' 0 14).toNat

/-- A port whose ACTIVE set is `a`, at the start of its walk. COUNT without an ACTIVE set is 0 (DESIGN CHOICE, log 99: 08 R212
gives COUNT for an ACTIVE walk only). -/
def Port.arm (q : Port) (a : Option PSet) (pend : Option PSet) : Port :=
  match a with
  | none => { q with active := none, pending := pend, i0 := 0, i1 := 0, i2 := 0, i3 := 0, count := 0 }
  | some ps => { q with active := a, pending := pend, i0 := half ps.w3 0, i1 := half ps.w3 1, i2 := half ps.w3 2,
                        i3 := half ps.w3 3, count := 0 }

/-- The walk moves on (R204). -/
def Port.advance (q : Port) (ps : PSet) : Port :=
  let c := q.count + 1
  if (q.i0 + 1).toNat ≤ (half ps.w1 0).toNat && q.i0 != 0xFFFF then { q with i0 := q.i0 + 1, count := c }
  else if (q.i1 + 1).toNat ≤ (half ps.w1 1).toNat && q.i1 != 0xFFFF then { q with i0 := 0, i1 := q.i1 + 1, count := c }
  else if (q.i2 + 1).toNat ≤ (half ps.w1 2).toNat && q.i2 != 0xFFFF then
    { q with i0 := 0, i1 := 0, i2 := q.i2 + 1, count := c }
  else if (q.i3 + 1).toNat ≤ (half ps.w1 3).toNat && q.i3 != 0xFFFF then
    { q with i0 := 0, i1 := 0, i2 := 0, i3 := q.i3 + 1, count := c }
  else if ps.w0.getLsbD 19 then { q with i0 := 0, i1 := 0, i2 := 0, i3 := 0, count := c }
  else q.arm q.pending none

/-- An access of an X-strand port touches a bank: a second touch of it in the issue cycle is BANK 0x03, charged to the
later-issued instruction (07 R173). -/
def Fetch.touch (f : Fetch) (key ic : Nat) (pc : Word) : Fetch :=
  let x := f.t.xs
  let f1 := { f with t := { f.t with xs := { x with touch := (key, ic, pc) :: x.touch } } }
  match x.touch.find? fun e => e.1 = key with
  | none => f1
  | some e => f1.raise 2 3 (if ic < e.2.1 then e.2.2 else pc)

/-- A freeze on a port without any set: QUEUE once the A-strand has ended (08 R209). -/
def Fetch.idle (f : Fetch) (p : Nat) (pc : Word) : Fetch := if f.t.a.ended then f.queue pc else f.holdOn p

/-- A row of a port's walk, when it lies in the window (R204). -/
def Task.rowIn (t : Task) (r : Int) : Option Nat :=
  if 0 ≤ r && r < (t.win.rows : Int) then some r.toNat else none

/-- A pop of a load port (08 R206) by the instruction at `pc` issued in issue cycle `ic`; `group` is the bank group that
the engine demands: 1 GA, 2 GB, 0 either (07 R173). -/
def Fetch.pop (f : Fetch) (p ic : Nat) (pc : Word) (group : Nat) : Nat × Row × Fetch :=
  let q := f.t.port p
  match q.active with
  | none => (0, 0, f.idle p pc)
  | some ps =>
    match f.t.rowIn (q.rowAt ps ps.base) with
    | none => (0, 0, f.raise 3 1 pc)
    | some v =>
      let r := f.t.row v
      let nowait := ps.w0.getLsbD 17
      let key := f.t.win.bankOf v
      let f1 := if group = 1 && 16 ≤ key then f.raise 2 1 pc else if group = 2 && key < 16 then f.raise 2 2 pc else f
      if !nowait && r.seen = .empty then (0, 0, f1.holdOn p)
      else
        let f2 := f1.touch key ic pc
        let f3 := if (if nowait then r.tag else r.seen) = .poison then f2.raise 5 1 pc else f2
        let f4 := if r.ue != 0 then f3.raise 5 3 pc else f3
        let t1 := f4.t.putPort p (q.advance ps)
        let t2 := if ps.w0.getLsbD 16 && r.tag = .full then t1.setTag v .empty else t1
        (v, r.data, { f4 with t := t2 })

/-- A row taken by a write through store port T`p` (08 R207). -/
def Fetch.take (f : Fetch) (p ic : Nat) (pc : Word) : Nat × Fetch :=
  let q := f.t.port (8 + p)
  match q.active with
  | none => (0, f.idle (8 + p) pc)
  | some ps =>
    match f.t.rowIn (q.rowAt ps ps.base) with
    | none => (0, f.raise 3 1 pc)
    | some v =>
      let r := f.t.row v
      let waite := ps.w0.getLsbD 18
      if waite && r.seen = .full then (0, f.holdOn (8 + p))
      else
        let f1 := f.touch (f.t.win.bankOf v) ic pc
        let f2 := if waite && r.seen = .poison then f1.raise 5 2 pc else f1
        (v, { f2 with t := f2.t.putPort (8 + p) (q.advance ps) })

/-! ### Queues (03 R72, 05 R129-R131) -/

/-- The head of a queue that may be taken in core cc `cc` (R130). -/
def Queue.head (q : Queue) (cc : Nat) : Option Word :=
  match q.items with
  | [] => none
  | e :: _ => if e.at_ + 2 ≤ cc then some e.v else none

/-- The queue without its head; the place frees for the next cc. -/
def Queue.drop (q : Queue) (cc : Nat) : Queue := { items := q.items.tail, popped := cc + 1 }

/-- Whether a push must wait: places freed in this cc do not count (R130). -/
def Queue.full (q : Queue) (depth cc : Nat) : Bool :=
  decide (depth ≤ q.items.length + (if q.popped = cc + 1 then 1 else 0))

/-- The queue with an entry pushed in core cc `cc`. -/
def Queue.push (q : Queue) (v : Word) (cc : Nat) : Queue := { q with items := q.items ++ [{ v := v, at_ := cc }] }

/-- A pop of aq by the X-strand: an empty queue freezes it, or raises QUEUE once the A-strand has ended (R131). -/
def Fetch.popAq (f : Fetch) (cc : Nat) (pc : Word) : Word × Fetch :=
  match f.t.aq.head cc with
  | some v => (v, { f with t := { f.t with aq := f.t.aq.drop cc } })
  | none => (0, if f.t.aq.items.isEmpty && f.t.a.ended then f.queue pc else f.hold)

/-! ### Elements of a row (02 R27) -/

/-- Element `e` of width `w`. -/
def elemAt (w : Nat) (r : Row) (e : Nat) : Nat := r.toNat / 2 ^ (w * e) % 2 ^ w

/-- A row from its elements of width `w`, element 0 first. -/
def rowNat (w : Nat) : List Nat → Nat
  | [] => 0
  | v :: r => v % 2 ^ w + 2 ^ w * rowNat w r

/-- A row from its elements. -/
def rowOf (w : Nat) (l : List Nat) : Row := BitVec.ofNat 1024 (rowNat w l)

/-- Whether an element is active under a mask: the lane of its lowest cell (R27). -/
def activeAt (w : Nat) (g : Word) (e : Nat) : Bool := g.getLsbD (w * e / 16)

/-- The elements of a row of a width. -/
def elems (w : Nat) (r : Row) : List Nat := (List.range (1024 / w)).map (elemAt w r)

/-- A 16-bit value in every cell. -/
def bcast16 (v : BitVec 16) : Row := rowOf 16 (List.replicate 64 v.toNat)

/-- A 32-bit value in every cell pair. -/
def bcast32 (v : BitVec 32) : Row := rowOf 32 (List.replicate 32 v.toNat)

/-- A 64-bit entry broadcast to the cells (03 R72, 04 R89): [31:0] for 32-bit types, else [15:0]. -/
def bcast (w : Nat) (v : Word) : Row := if w = 32 then bcast32 (v.setWidth 32) else bcast16 (v.setWidth 16)

/-! ### Slices (03 R61, R62) -/

/-- The cell of a register that vector cell `k` of a slice is, as (row, cell). -/
def sliceCell (w32 : Bool) (dir x k : Nat) : Nat × Nat :=
  match dir with
  | 1 => if w32 then (32 * (x / 32) + k / 2, 2 * (x % 32) + k % 2) else (k, x)
  | 2 => if w32 then (32 * (x / 32) + k / 2, 2 * ((k / 2 + x % 32) % 32) + k % 2) else (k, (k + x) % 64)
  | _ => (x, k)

/-- The vector that a slice reads. -/
def Task.readSlice (t : Task) (slot : Nat) (w32 : Bool) (dir x : Nat) : Row :=
  if dir = 1 || dir = 2 then
    rowOf 16 ((List.range 64).map fun k => let c := sliceCell w32 dir x k; elemAt 16 (t.mrow slot c.1) c.2)
  else t.mrow slot x

/-- A vector and its cell mask as the rows of a register that a slice write changes. -/
def sliceRows (w32 : Bool) (dir x : Nat) (v m : Row) : List (Nat × Row × Row) :=
  if dir = 1 || dir = 2 then
    (List.range 64).filterMap fun k =>
      let c := sliceCell w32 dir x k
      let mk := elemAt 16 m k
      if mk = 0 then none
      else some (c.1, BitVec.ofNat 1024 (elemAt 16 v k * 2 ^ (16 * c.2)), BitVec.ofNat 1024 (mk * 2 ^ (16 * c.2)))
  else [(x, v, m)]

/-- The index of a slice: the field, or bits [5:0] of a scalar for DIR 11 (R61). -/
def Task.sliceIndex (t : Task) (dir x : BitVec 6) : Nat :=
  if dir = 3 then (t.rd .x x).toNat % 64 else x.toNat

/-! ### Binding of register slots (03 R65, R66, R68) -/

/-- Physical registers that a core's banks hold. -/
def State.physUsed (s : State) (core : Nat) : List Nat :=
  [0, 1].flatMap fun b =>
    match s.task core b with
    | none => []
    | some t => t.xs.slots.filterMap fun e => e.2.phys

/-- The lowest free physical register of 96 (R65). -/
def freePhys (used : List Nat) : Option Nat := (List.range 96).find? fun p => !used.contains p

/-- Slots that a flight is still to write (R66). -/
def FKind.slot : FKind → Option Nat
  | .cells slot _ => some slot
  | .mld slot _ _ _ _ _ _ => some slot
  | .aread slot _ _ _ _ => some slot
  | _ => none

/-- Whether slot age `a` is older than `b`: no write since dispatch is oldest (R66). -/
def olderAge : Option Nat → Option Nat → Bool
  | none, some _ => true
  | some a, some b => decide (a < b)
  | _, _ => false

/-- The slot to spill: BOUND, not named by the group, no write pending, oldest, then the lower physical register (R66). -/
def Task.victim (t : Task) (named : List Nat) : Option (Nat × Nat) :=
  let cand := t.xs.slots.filterMap fun e =>
    match e.2.phys with
    | none => none
    | some p =>
      if named.contains e.1 || t.xs.named.contains e.1 || t.xs.flights.any (fun f => f.kind.slot == some e.1) then none
      else some (e.1, p, e.2.age)
  let best := cand.foldl (fun (b : Option (Nat × Nat × Option Nat)) c =>
    match b with
    | none => some c
    | some y => if olderAge c.2.2 y.2.2 || (c.2.2 = y.2.2 && c.2.1 < y.2.1) then some c else b) none
  best.map fun c => (c.1, c.2.1)

/-- The age of a slot: a spill and a reload write nothing, so they leave it (R66). -/
def Task.slotAge (t : Task) (slot : Nat) : Option Nat := (tfind t.xs.slots slot).bind (·.age)

/-- A slot bound to a physical register: a free one, or that of a victim, which becomes SPILLED (R65, R66). -/
def Task.bind (t : Task) (used : List Nat) (named : List Nat) (slot : Nat) : Option Task :=
  match freePhys used with
  | some p => some (t.onX fun x => { x with slots := tins x.slots slot { phys := some p, age := t.slotAge slot } })
  | none =>
    match t.victim (slot :: named) with
    | none => none
    | some (v, p) =>
      some (t.onX fun x => { x with
        slots := tins (tins x.slots v { phys := none, age := t.slotAge v }) slot { phys := some p, age := t.slotAge slot } })

/-- Whether a slot is SPILLED (R65). -/
def Task.spilled (t : Task) (slot : Nat) : Bool :=
  match tfind t.xs.slots slot with
  | some e => e.phys.isNone
  | none => false

/-- Binds each UNBOUND slot of a list; none when no victim exists for one. -/
def bindAll (used0 : Task → List Nat) (named : List Nat) : List Nat → Task → Option Task
  | [], t => some t
  | k :: ks, t =>
    if (tfind t.xs.slots k).isSome then bindAll used0 named ks t
    else
      match t.bind (used0 t) named k with
      | none => none
      | some t1 => bindAll used0 named ks t1

/-- Names of matrix registers mapped to slots; none when one is not declared (R63). -/
def Task.slotsOf (t : Task) : List Nat → Option (List Nat)
  | [] => some []
  | m :: ms =>
    match t.slotOf m, t.slotsOf ms with
    | some k, some ks => some (k :: ks)
    | _, _ => none

/-- Physical registers that the core's other bank and a task hold. -/
def State.used (s : State) (t : Task) : List Nat :=
  (match s.task s.cur.core (1 - s.cur.bank) with
   | none => []
   | some o => o.xs.slots.filterMap fun e => e.2.phys) ++ t.xs.slots.filterMap fun e => e.2.phys

/-- A task that has halted for a save under 15 R327, while that save runs, with a register of it that can be taken (03 R66). -/
def State.donorOf (s : State) (core bank : Nat) : Option (Task × Nat × Nat) :=
  match s.task core bank with
  | none => none
  | some o => if o.susp.isSome && o.evict.isSome then (o.victim []).map fun v => (o, v) else none

/-- Such a task of the acting core's other bank. -/
def State.donor (s : State) : Option (Task × Nat × Nat) := s.donorOf s.cur.core (1 - s.cur.bank)

/-- A slot of a halted task whose register another task takes: it counts as saved (03 R66). -/
def Task.give (t : Task) (slot : Nat) : Task :=
  { (t.onX fun x => { x with slots := tins x.slots slot { phys := none, age := t.slotAge slot } }) with
    evict := some (slot :: t.evict.getD []) }

/-- Slots of a list that are UNBOUND. -/
def Task.unbound (t : Task) (l : List Nat) : List Nat := l.eraseDups.filter fun k => (tfind t.xs.slots k).isNone

/-- Whether slots to be written need a register of a halted task: more are UNBOUND than registers are free (03 R66). -/
def State.takes (s : State) (t : Task) (ws : List Nat) : Bool :=
  s.donor.isSome && decide (96 < (s.used t).eraseDups.length + (t.unbound ws).length)

/-- Whether a state is one in which the acting X-strand has raised QUEUE (08 R209). -/
def State.quits (s : State) : Bool :=
  s.trapped && match s.here with | some t => t.x.trap.code == 11 | none => false

/-- A wait for a reason `why` of a word whose outcome without that reason is `r`: a freeze or QUEUE of the word comes first (04
R104, 08 R209). -/
def State.orWait (r s : State) (why : Nat) : State :=
  if r.quits then r
  else
    match r.stall with
    | some k => if k = 2 || k = 3 then s.wait why else if why = 2 then s.wait k else s.wait (k / 16 * 16 + 4)
    | none => s.wait why

/-- The registers that an instruction reads and writes, made ready: an undeclared name is ILL 0x22 (R63), a SPILLED slot
waits for its reload (R68), an UNBOUND slot that is written is bound (R65), in a freeze as for a reload where the register comes
from a halted task, and without a victim the group waits in empty issue cycles (R66). -/
def claim (s : State) (t : Task) (reads writes : List Nat) (k : Task → State) : State :=
  match t.slotsOf reads, t.slotsOf writes with
  | some rs, some ws =>
    let named := rs ++ ws
    if named.any t.spilled || s.takes t ws then (k t).orWait s 3
    else
      match bindAll s.used named ws t with
      | none => (k t).orWait s 2
      | some t1 => k t1
  | _, _ => ill s 0x22

/-! ### Sources and destinations of the V format (04 R89) -/

/-- A source as read at issue: a row, or an FP16 constant still to be converted (06 R144). -/
inductive OpVal where
  | row (r : Row)
  | const (h : Nat)
  deriving DecidableEq, Repr

/-- The fixed entries 0-15 of the constant table (06 R144). -/
def fixedConst : List Nat :=
  [0x0000, 0x3C00, 0x4000, 0x3800, 0xBC00, 0x7C00, 0xFC00, 0x7BFF, 0xFBFF, 0x8000, 0x0001, 0x0400, 0x5F00, 0x7B00,
   0x4600, 0x4200]

/-- An entry of the constant table (06 R144). -/
def Task.constAt (t : Task) (i : Nat) : Nat :=
  match fixedConst[i]? with
  | some v => v
  | none => (tget 0 t.consts i).toNat

/-- The matrix register that an operand names. -/
def opdRegs : Opd → List Nat
  | .slice _ m _ => [m.toNat]
  | _ => []

/-- A source operand of element width `w`, read in the issue cycle. -/
def Fetch.source (f : Fetch) (cc : Nat) (w : Nat) (o : Opd) : OpVal × Fetch :=
  let pc := f.t.x.pc
  match o with
  | .slice dir m x =>
    match f.t.slotOf m.toNat with
    | none => (.row 0, f.raise 1 0x22 pc)
    | some k => (.row (f.t.readSlice k (w == 32) dir.toNat (f.t.sliceIndex (dir.setWidth 6) x)), f)
  | .loadPort p =>
    let (_, r, f1) := f.pop p.toNat f.t.xs.ic pc 0
    (.row r, f1)
  | .storePort _ => (.row 0, f.raise 1 9 pc)
  | .aq =>
    let (v, f1) := f.popAq cc pc
    (.row (bcast w v), f1)
  | .sreg r => (.row (bcast w (f.t.rd .x r)), f)
  | .const i => (.const (f.t.constAt i.toNat), f)
  | .zero => (.row 0, f)

/-- Two sources of one instruction: a port or aq named twice pops once (03 R71, R72). -/
def Fetch.sources (f : Fetch) (cc : Nat) (w : Nat) (a b : Opd) : OpVal × OpVal × Fetch :=
  let (x, f1) := f.source cc w a
  let shared : Bool := match a with | .loadPort _ => decide (a = b) | .aq => decide (a = b) | _ => false
  if shared then (x, x, f1)
  else
    let (y, f2) := f1.source cc w b
    (x, y, f2)

/-- A destination: a register slice at a slot, or a row taken through a store port. -/
inductive Dest where
  | cells (slot dir x : Nat)
  | row (v : Nat)
  deriving DecidableEq, Repr

/-- The destination of a V-format instruction, fixed at issue (06 R142, 08 R207). -/
def Fetch.dest (f : Fetch) (o : Opd) : Dest × Fetch :=
  let pc := f.t.x.pc
  match o with
  | .slice dir m x =>
    match f.t.slotOf m.toNat with
    | none => (.row 0, f.raise 1 0x22 pc)
    | some k => (.cells k dir.toNat (f.t.sliceIndex (dir.setWidth 6) x), f)
  | .storePort p =>
    let (v, f1) := f.take p.toNat f.t.xs.ic pc
    (.row v, f1)
  | _ => (.row 0, f.raise 1 9 pc)

/-- The contents of a destination slice at issue (`vfma` reads it). -/
def Task.readDest (t : Task) (w : Nat) : Dest → Row
  | .cells k dir x => t.readSlice k (w == 32) dir x
  | .row v => (t.row v).data

/-- A vector result with its cell mask, as a flight. -/
def Dest.kind (d : Dest) (w : Nat) (v m : Row) : FKind :=
  match d with
  | .cells slot dir x => .cells slot (sliceRows (w == 32) dir x v m)
  | .row r => .prow r v m

end Sys2Proof.Machine
end

