-- ==== Sys2Proof/Machine/Translate.lean ====
section
/-! DEFINITION. Translation of global addresses (16 R335-R343), the homes of lines (09 R221, 16 R347), the binding of
unbacked pages (16 R348-R352), and the checks that an access meets (09 R220, R235). -/

namespace Sys2Proof.Machine

/-! ### Sectors -/

/-- The bits of a byte mask. -/
def byteMask (m : BitVec 32) : BitVec 256 :=
  (List.range 32).foldl (fun (r : BitVec 256) i => if m.getLsbD i then r ||| (0xFF#256 <<< (8 * i)) else r) 0

/-- Bytes of a sector replaced where the mask has ones. -/
def mergeSector (old new : BitVec 256) (m : BitVec 32) : BitVec 256 :=
  (new &&& byteMask m) ||| (old &&& ~~~(byteMask m))

/-- The byte at place `i` of a sector. -/
def sectorByte (d : BitVec 256) (i : Nat) : Byte := d.extractLsb' (8 * i) 8

/-- What an unlisted byte of memory reads as: 0, as a device reset wipes every volatile memory (23 R467). -/
def unwritten : Byte := 0

/-- A byte of memory. -/
def memByte (m : List Host.Cell) (a : Nat) : Byte := tget unwritten m a

/-- A byte of memory written. -/
def memSet (m : List Host.Cell) (a : Nat) (b : Byte) : List Host.Cell := tset unwritten m a b

/-- The canonical form of memory. -/
abbrev Memory.wf (m : List Host.Cell) : Prop := twf unwritten m = true

/-- Bytes of a sector of memory written. -/
def memPut (m : List Host.Cell) (sec : Nat) (mask : BitVec 32) (d : BitVec 256) : List Host.Cell :=
  (List.range 32).foldl (fun m i => if mask.getLsbD i then memSet m (sec * 32 + i) (sectorByte d i) else m) m

/-- A write performs in a frame: of this device, or at a peer, whose memory stands in the same table (23 R449). -/
def State.frameWrite (s : State) (w : SWrite) : State :=
  { s with
    mem := memPut s.mem w.sec w.mask w.data
    poison :=
      if w.poison then (if s.poison.contains w.sec then s.poison else w.sec :: s.poison)
      else if w.mask = BitVec.allOnes 32 then s.poison.filter (· ≠ w.sec)
      else s.poison }

/-! ### The physical space of the pod (16 R339) -/

/-- The chip that holds a physical address. -/
def chipOf (pa : Nat) : Nat := pa / 2 ^ 51

/-- The offset in the chip's map. -/
def offOf (pa : Nat) : Nat := pa % 2 ^ 51

/-- Host memory through port 0. -/
def isHostOff (off : Nat) : Bool := decide (2 ^ 50 ≤ off)

/-- The unbacked space. -/
def isUnbackedOff (off : Nat) : Bool := decide (2 ^ 48 ≤ off) && decide (off < 2 ^ 49)

/-- GDDR-7. -/
def isGddrOff (off : Nat) : Bool := decide (off < 2 ^ 38)

/-- LPDDR-6. -/
def isLpddrOff (off : Nat) : Bool := decide (2 ^ 40 ≤ off) && decide (off < 2 ^ 42)

/-- The window of CXL port 0. -/
def isCxl0Off (off : Nat) : Bool := decide (2 ^ 42 ≤ off) && decide (off < 2 ^ 43)

/-- The window of CXL port 1. -/
def isCxl1Off (off : Nat) : Bool := decide (2 ^ 43 ≤ off) && decide (off < 2 ^ 43 + 2 ^ 42)

/-- STRUCT of device memory (23 R454). -/
def memStruct (pa : Nat) : Nat := if isGddrOff (offOf pa) then 7 else if isLpddrOff (offOf pa) then 8 else 9

/-- The residency address of frame `f` of a chip (16 R348). -/
def residencyPa (chip f : Nat) : Nat := chip * 2 ^ 51 + 2 ^ 49 + 65536 * f

/-- A byte of a listed range. -/
def inRanges (l : List (Nat × Nat)) (pa : Nat) : Bool := l.any fun e => decide (e.1 ≤ pa) && decide (pa < e.1 + 2 ^ e.2)

/-- A byte of this device, or of a peer, that lies in no frame (16 R339). -/
def State.noFrame (s : State) (pa : Nat) : Bool :=
  let off := offOf pa
  if chipOf pa != s.pod.chip.toNat then inRanges s.pod.holes pa
  else
    ((isCxl0Off off && (!s.boot.cxl0 || decide (s.boot.cap0 ≤ off - 2 ^ 42))) ||
      (isCxl1Off off && (!s.boot.cxl1 || decide (s.boot.cap1 ≤ off - 2 ^ 43))) ||
      (isLpddrOff off && s.boot.lpfail.getLsbD ((off - 2 ^ 40) / 2 ^ 37)))

/-- The home slice of a physical address (09 R221). -/
def homeSlice (pa : Nat) : Nat :=
  (List.range 8).foldl (fun h k => h ^^^ (pa / 2 ^ (12 + 6 * k) % (if k = 7 then 8 else 64))) 0

/-! ### The locked translation table (16 R335, R336, R343) -/

/-- An address lies in an entry's extent. -/
def Entry.covers (e : Entry) (va : Nat) : Bool := decide (e.vbase ≤ va) && decide (va < e.vbase + 2 ^ e.log2)

/-- The entry that an address matches (16 R336), with its number. -/
def Ctx.lookup (c : Ctx) (va : Nat) : Option (Nat × Entry) := c.table.find? fun e => e.2.covers va

/-- The physical address of a byte at offset `o` of a STRIPE extent (16 R343). -/
def stripePa (chips : List Nat) (e : Entry) (o : Nat) : Nat :=
  let g := o / 2 ^ (e.gsh + 12)
  let n := chips.length
  chips.getD (g % n) 0 * 2 ^ 51 + e.target + g / n * 2 ^ (e.gsh + 12) + o % 2 ^ (e.gsh + 12)

/-- The physical address that an entry gives an address. -/
def State.paOf (s : State) (e : Entry) (va : Nat) : Nat :=
  let o := va - e.vbase
  match e.kind with
  | .stripe => stripePa (tget [] s.pod.stripes e.set) e o
  | _ => e.target + o

/-- What an access asks of an extent. -/
inductive Acc where
  | rd | wr | ex | any
  deriving DecidableEq, Repr

/-- Whether PERM grants an access (16 R342). -/
def Entry.grants (e : Entry) : Acc → Bool
  | .rd => e.r
  | .wr => e.w
  | .ex => e.x
  | .any => true

/-- A route to a chip is valid, with a path (16 R340). -/
def State.routed (s : State) (chip : Nat) : Bool :=
  chip == s.pod.chip.toNat || (let r := tget (false, 0) s.pod.routes chip; r.1 && r.2 != 0)

/-- A peer refuses requests for an address (16 R357). -/
def State.refusedAt (s : State) (pa : Nat) : Bool := inRanges s.pod.refusing pa

/-- The BACK subcode that an access to an extent meets apart from the state of an unbacked page (16 R342, R344). -/
def State.backOf (s : State) (e : Entry) (pa : Nat) : Option Nat :=
  match e.kind with
  | .backed => if e.present then none else some 1
  | .migrating => some 2
  | _ => if !s.routed (chipOf pa) then some 5 else if s.refusedAt pa then some 2 else none

/-- The state of an unbacked page of a context. -/
def State.page (s : State) (ctx page : Nat) : Page := tget .untouched (s.ctx ctx).pages page

/-- A byte that an access finds in no frame: at its translated address, or in the late frame of its page (16 R339, R347). -/
def State.unframed (s : State) (ctx pa : Nat) : Bool :=
  s.noFrame pa ||
    (chipOf pa == s.pod.chip.toNat && isUnbackedOff (offOf pa) &&
      match s.page ctx (pa / 65536) with
      | .late p => s.noFrame (p + pa % 65536)
      | _ => false)

/-- What a translation answers: a physical address with its entry, or a trap code and subcode. -/
inductive Xl where
  | ok (pa : Nat) (e : Entry)
  | bad (code sub : Nat)
  deriving DecidableEq, Repr

/-- A byte access of a context, by the A-strand or another agent: ADDR, then PRIV, then BACK (04 R489, 09 R235,
16 R339, R342). -/
def State.xlate (s : State) (ctx va : Nat) (a : Acc) (strand : Bool) : Xl :=
  if 2 ^ 57 ≤ va then .bad 3 4
  else
    match (s.ctx ctx).lookup va with
    | none => .bad 3 4
    | some (_, e) =>
      let pa := s.paOf e va
      if (e.kind != .backed || e.present) && s.unframed ctx pa then .bad 3 4
      else if (strand && e.kind == .stripe) || !e.grants a then .bad 6 0
      else
        match s.backOf e pa with
        | some k => .bad 4 k
        | none => .ok pa e

/-! ### Homes (09 R221, R224; 16 R347) -/

/-- Where a sector's data lives below the L1s, by the sector's physical address / 32. -/
inductive Home where
  | here (sec : Nat)
  | zero
  | peer (sec : Nat)
  | host (sec : Nat)
  deriving DecidableEq, Repr

/-- The home of a sector that a context uses (16 R342, R347). -/
def State.homeOf (s : State) (ctx sec : Nat) : Home :=
  let pa := sec * 32
  let off := offOf pa
  if chipOf pa ≠ s.pod.chip.toNat then .peer sec
  else if isHostOff off then .host sec
  else if isUnbackedOff off then
    match s.page ctx (pa / 65536) with
    | .untouched => .zero
    | .resident f => .here ((residencyPa (chipOf pa) f + pa % 65536) / 32)
    | .late p => .here ((p + pa % 65536) / 32)
  else .here sec

/-- The sector at which a context's sector stands below the L1s. -/
def State.homeSec (s : State) (ctx sec : Nat) : Nat := match s.homeOf ctx sec with | .here k => k | _ => sec

/-- An access waits while its line still lies in a quarantined way, its page having nowhere to move (23 R458 steps 1 and 3). -/
def State.lineHeld (s : State) (ctx pa : Nat) : Bool :=
  let off := offOf pa
  isUnbackedOff off && chipOf pa == s.pod.chip.toNat &&
    match s.page ctx (pa / 65536) with
    | .resident f =>
      s.nv.quarantined.any fun q => q.2 == f / 1024 && q.1 == homeSlice (residencyPa (chipOf pa) f + pa % 65536)
    | _ => false

/-- Some line of a context's range so waits; `vas` are addresses of its sectors. -/
def State.linesHeld (s : State) (ctx : Nat) (vas : List Nat) : Bool :=
  !s.nv.quarantined.isEmpty && vas.any fun va =>
    match (s.ctx ctx).lookup va with
    | some (_, e) => s.lineHeld ctx (s.paOf e va)
    | none => false

/-! ### Residency (16 R348-R352) -/

/-- Residency frames that contexts hold. -/
def State.framesHeld (s : State) : List Nat :=
  s.ctxs.flatMap fun c => c.2.pages.filterMap fun p => match p.2 with | .resident f => some f | _ => none

/-- A frame whose lines occupy a way of a slice (16 R348). -/
def State.onWay (s : State) (q : Nat × Nat) (f : Nat) : Bool :=
  q.2 == f / 1024 && (List.range 16).any fun k => homeSlice (residencyPa s.pod.chip.toNat f + 4096 * k) == q.1

/-- A frame whose lines occupy a quarantined way (16 R348). -/
def State.wayGone (s : State) (f : Nat) : Bool := s.nv.quarantined.any fun q => s.onWay q f

/-- A frame withdrawn with a quarantined way, or retired (16 R348; 23 R456). -/
def State.withdrawn (s : State) (f : Nat) : Bool := s.wayGone f || s.nv.retired.contains (residencyPa s.pod.chip.toNat f)

/-- The lowest-numbered free residency frame that is not withdrawn (16 R350). -/
def State.freeFrame (s : State) : Option Nat :=
  let held := s.framesHeld
  (List.range 12288).find? fun f => !held.contains f && !s.withdrawn f

/-- Pages of a context that are RESIDENT. -/
def Ctx.resident (c : Ctx) : Nat := (c.pages.filter fun p => match p.2 with | .resident _ => true | _ => false).length

/-- RESIDENT pages within an extent. -/
def Ctx.residentIn (c : Ctx) (e : Entry) : Nat :=
  (c.pages.filter fun p =>
    (match p.2 with | .resident _ => true | _ => false) && decide (e.target ≤ p.1 * 65536) &&
      decide (p.1 * 65536 < e.target + 2 ^ e.log2)).length

/-- The UNBACKED extent of a context that holds an unbacked page, also while it migrates. -/
def Ctx.extentOf (c : Ctx) (page : Nat) : Option Entry :=
  (c.table.find? fun e => (e.2.kind == .unbacked || (e.2.kind == .migrating && isUnbackedOff (offOf e.2.target))) && decide (e.2.target ≤ page * 65536) &&
    decide (page * 65536 < e.2.target + 2 ^ e.2.log2)).map (·.2)

/-- A frame by which the device-wide limit has fallen: a retired one, or one of a quarantined way that no page is left on
(R348; 23 R458). -/
def State.limitLess (s : State) (held : List Nat) (f : Nat) : Bool :=
  s.nv.retired.contains (residencyPa s.pod.chip.toNat f) ||
    s.nv.quarantined.any fun q => s.onWay q f && held.all fun h => !s.onWay q h

/-- The device-wide limit of pages (R349, R348). -/
def State.pageLimit (s : State) : Nat :=
  let held := s.framesHeld
  12288 - ((List.range 12288).filter (s.limitLess held)).length

/-- The sum of the reservations of the other contexts. -/
def State.otherResv (s : State) (ctx : Nat) : Nat :=
  s.ctxs.foldl (fun n e => if e.1 = ctx then n else n + e.2.resv) 0

/-- One reservation lowered by 1: the greatest P above its resident count, ties to the lower context. -/
def State.lowerOne (s : State) : State :=
  let spare (c : Ctx) : Nat := c.resv - c.resident
  let best := s.ctxs.foldl (fun (b : Option (Nat × Ctx)) c =>
    if spare c.2 = 0 then b
    else
      match b with
      | none => some c
      | some x => if spare x.2 < spare c.2 then some c else b) none
  match best with
  | none => s
  | some (k, c) => s.putCtx k { c with resv := c.resv - 1 }

/-- Lowerings while they are called for; the number is the excess of the sum over the limit. -/
def lowerBy : Nat → State → State
  | 0, s => s
  | n + 1, s => lowerBy n s.lowerOne

/-- The reservations recomputed (R458 step 5). -/
def State.recompute (s : State) : State := lowerBy (s.otherResv 16 - s.pageLimit) s

/-- Lines of a 64 KiB frame dropped from the L2. -/
def State.dropFrame (s : State) (pa : Nat) : State :=
  { s with l2 := s.l2.filter fun e => !(decide (pa / 32 ≤ e.1) && decide (e.1 < pa / 32 + 2048)),
           lines := s.lines.filter fun e => !(decide (pa / 256 ≤ e.1) && decide (e.1 < pa / 256 + 256)) }

/-! ### The lines of the L2 (09 R221; 16 R348; 23 R446) -/

/-- The residency frames of a device. -/
def isResidencyOff (off : Nat) : Bool := decide (2 ^ 49 ≤ off) && decide (off < 2 ^ 49 + 12288 * 65536)

/-- The slice and set of a line (09 R221). -/
def l2Place (line : Nat) : Nat × Nat := (homeSlice (line * 256), line % 4096)

/-- A residency frame has a line in a place (16 R348). -/
def State.frameAt (s : State) (pl : Nat × Nat) (f : Nat) : Bool :=
  f % 16 == pl.2 / 256 && homeSlice (residencyPa s.pod.chip.toNat f + pl.2 % 256 / 16 * 4096) == pl.1

/-- The ways of a place that may hold backed lines: those of no residency frame that a context holds and of no quarantine (16 R348; 23
R458). -/
def State.openWays (s : State) (pl : Nat × Nat) : List Nat :=
  let held := (s.framesHeld.filter (s.frameAt pl)).map fun f => f / 1024
  let gone := (s.nv.quarantined.filter fun (q : Nat × Nat) => q.1 == pl.1).map fun q => q.2
  (List.range 16).filter fun w => !held.contains w && !gone.contains w

/-- The lines of a place that are not those of residency frames, with their ways. -/
def State.backedAt (s : State) (pl : Nat × Nat) : List (Nat × Nat) :=
  (s.lines.filter fun e => !isResidencyOff (offOf (e.1 * 256)) && l2Place e.1 == pl).map fun e => (e.1, e.2.way)

/-- The ways of a place that a backed line may take. -/
def State.freeWays (s : State) (pl : Nat × Nat) : List Nat :=
  let used := (s.backedAt pl).map (·.2)
  (s.openWays pl).filter fun w => !used.contains w

/-- The way of a line of a residency frame (16 R348). -/
def residencyWay (line : Nat) : Nat := (offOf (line * 256) - 2 ^ 49) / 65536 / 1024

/-- An L2 sector's dirty bytes written to their frame. -/
def State.toFrame (s : State) (sec : Nat) (x : L2Sector) : State :=
  s.frameWrite { sec := sec, mask := x.dirty, data := x.data, owner := 0, poison := x.poison, port := 0 }

/-- A backed line leaves the L2: its dirty bytes go to its frame. -/
def State.displaceLine (s : State) (line : Nat) : State :=
  let s1 := (s.l2.filter fun e => e.1 / 8 == line).foldl (fun s e => s.toFrame e.1 e.2) s
  { s1 with l2 := s1.l2.filter fun e => e.1 / 8 != line, lines := tdel s1.lines line }

/-- A line leaves a place of which every way is taken; which one is free (log 69). -/
def State.roomAt (s : State) (pl : Nat × Nat) : State :=
  if (s.freeWays pl).isEmpty && !(s.backedAt pl).isEmpty then
    let (v, s1) := s.draw
    s1.displaceLine ((s.backedAt pl).getD (v % (s.backedAt pl).length) (0, 0)).1
  else s

/-- A line loaded into the L2 with its owner tag, when it is not held there (23 R446); a backed line takes a way of its set, when one can
hold it; which way is free (log 69). -/
def State.fillL2 (s : State) (owner line : Nat) : State :=
  if (tfind s.lines line).isSome then s
  else if isResidencyOff (offOf (line * 256)) then { s with lines := tins s.lines line { owner := owner, way := residencyWay line } }
  else
    let s1 := s.roomAt (l2Place line)
    match s1.freeWays (l2Place line) with
    | [] => s1
    | w :: ws =>
      let (v, s2) := s1.draw
      { s2 with lines := tins s2.lines line { owner := owner, way := (w :: ws).getD (v % (ws.length + 1)) w } }

/-- The owner tag of a line that the L2 holds, which an agent writes (23 R446). -/
def State.tagL2 (s : State) (owner line : Nat) : State :=
  { s with lines := tmap s.lines fun k (l : L2Line) => if k = line then { l with owner := owner } else l }

/-- Backed lines that stand in ways that may not hold them any more, in the places that `p` selects, leave the L2. -/
def State.squeezeL2 (s : State) (p : Nat × Nat → Bool) : State :=
  let out (e : Nat × L2Line) : Bool :=
    !isResidencyOff (offOf (e.1 * 256)) && p (l2Place e.1) && !(s.openWays (l2Place e.1)).contains e.2.way
  ((s.lines.filter out).map (·.1)).foldl State.displaceLine s

/-- Bytes of a 64 KiB frame wiped. -/
def wipeFrame (m : List Host.Cell) (pa : Nat) : List Host.Cell :=
  m.filter fun e => !(decide (pa ≤ e.1) && decide (e.1 < pa + 65536))

/-- What an allocating access gives (16 R350, R351): the page bound, the BACK subcode of an overflow, or a late frame that no longer exists
(R339). -/
inductive Alloc where
  | done (s : State)
  | beyond (sub : Nat)
  | hole
  deriving DecidableEq, Repr

/-- The allocating access of an UNTOUCHED page of a context (16 R350, R351); a retired frame of the pool is passed over (23 R455). -/
def State.allocPage (s : State) (ctx page : Nat) : Alloc :=
  let c := s.ctx ctx
  match c.extentOf page with
  | none => .beyond 3
  | some e =>
    let room := decide (c.resident < c.resv) && (e.rcap == 0 || decide (c.residentIn e < e.rcap))
    match (if room then s.freeFrame else none) with
    | some f =>
      let pa := residencyPa s.pod.chip.toNat f
      let s1 := (s.dropFrame pa).putCtx ctx { c with pages := tset Page.untouched c.pages page (Page.resident f) }
      .done (s1.squeezeL2 fun pl => s1.frameAt pl f)
    | none =>
      if e.late then
        match c.pool.filter fun p => !s.nv.retired.contains p with
        | [] => .beyond 4
        | p :: rest =>
          let s1 := s.dropFrame p
          if s.noFrame p || s.noFrame (p + 65535) then .hole
          else
          .done ({ s1 with mem := wipeFrame s1.mem p,
                           poison := s1.poison.filter fun q => !(decide (p / 32 ≤ q) && decide (q < p / 32 + 2048)) }.putCtx ctx
            { c with pool := rest, late := c.late + 1, pages := tset Page.untouched c.pages page (Page.late p) })
      else .beyond 3

/-- A write of a context to a translated byte: the page that it needs is bound (16 R350), or BACK. -/
def State.bindFor (s : State) (ctx : Nat) (pa : Nat) (e : Entry) : Alloc :=
  if e.kind == .unbacked && s.page ctx (pa / 65536) == .untouched then s.allocPage ctx (pa / 65536) else .done s

end Sys2Proof.Machine
end

