-- ==== Sys2Proof/Machine/Memory.lean ====
section
/-! DEFINITION. Global memory below the strands: bytes, sectors, the homes in the L2 and on other devices, the cluster
egress points and the L1s (09 R220-R233, 16 R354, 23 R449). -/

namespace Sys2Proof.Machine

/-! ### Sectors of memory -/

/-- A sector of memory. -/
def memSector (m : List Host.Cell) (sec : Nat) : BitVec 256 :=
  BitVec.ofNat 256 (rowNat 8 ((List.range 32).map fun i => (memByte m (sec * 32 + i)).toNat))

/-- A mask of `n` bytes from byte `o` of a sector. -/
def spanMask (o n : Nat) : BitVec 32 := BitVec.ofNat 32 ((2 ^ n - 1) * 2 ^ o)

/-- Bytes from byte `o` of a sector on, as data of a sector. -/
def spanData (o : Nat) (v : Nat) : BitVec 256 := BitVec.ofNat 256 (v * 2 ^ (8 * o))

/-! ### Homes -/

/-- A sector as read: its bytes and, when it is POISON, the DATA subcode (23 R449). -/
structure SRead where
  data : BitVec 256
  bad : Option Nat
  deriving DecidableEq, Repr

/-- Writes on their way, applied to a sector in order. -/
def overlay (ws : List SWrite) (sec : Nat) (r : SRead) : SRead :=
  ws.foldl (fun r w =>
    if w.sec = sec then
      { data := mergeSector r.data w.data w.mask,
        bad := if w.poison then some 5 else if w.mask = BitVec.allOnes 32 then none else r.bad }
    else r) r

/-- A sector in its home L2 or frame. Poison that device memory stores is met as 0x05 where the home L2 holds the line, else as 0x07
(23 R449). -/
def State.readL2 (s : State) (sec : Nat) : SRead :=
  let e := tget L2Sector.zero s.l2 sec
  { data := mergeSector (memSector s.mem sec) e.data e.dirty,
    bad :=
      if e.poison then some 5
      else if s.poison.contains sec && e.dirty != BitVec.allOnes 32 then
        some (if (tfind s.lines (sec / 8)).isSome then 5 else 7)
      else none }

/-- A sector read at its home (09 R224), writes that wait there for the line to leave its way among them (23 R458); whether a peer's home L2 holds a line whose memory stores poison is free (23 R449); a byte of an UNTOUCHED page is zero (16 R350). Host memory keeps the poison of a POISON sector too, read as 0x07 (DEDUCED, log 134). -/
def State.readHome (s : State) (ctx sec : Nat) : SRead :=
  match s.homeOf ctx sec with
  | .here k => overlay (s.slow.filter fun w => w.owner == ctx) sec (s.readL2 k)
  | .zero => { data := 0, bad := none }
  | .peer k =>
    overlay s.pod.out k
      { data := memSector s.mem k,
        bad := if s.poison.contains k then some (if Config.freeBool s.fresh then 7 else 5) else none }
  | .host k => { data := memSector s.mem k, bad := if s.poison.contains k then some 7 else none }

/-- A sector as the agents of a cluster read it: pending writes at the egress point serve the read (09 R224). -/
def State.readBelow (s : State) (cl ctx sec : Nat) : SRead := overlay (s.cluster cl).egress sec (s.readHome ctx sec)

/-- A write performs in the home L2 (23 R446, R449): a full sector clears poison, a partial write leaves it. Where no way of its set
can hold its line, it performs in the frame. -/
def State.writeL2 (s : State) (sec : Nat) (w : SWrite) : State :=
  let s1 := (s.fillL2 w.owner (sec / 8)).tagL2 w.owner (sec / 8)
  if (tfind s1.lines (sec / 8)).isNone then s1.frameWrite { w with sec := sec }
  else
    let e := tget L2Sector.zero s1.l2 sec
    let full := w.mask == BitVec.allOnes 32
    let held := e.poison || (s1.poison.contains sec && e.dirty != BitVec.allOnes 32)
    let x : L2Sector :=
      { poison := w.poison || (held && !full), dirty := e.dirty ||| w.mask, data := mergeSector e.data w.data w.mask }
    { s1 with l2 := tset L2Sector.zero s1.l2 sec x }

/-- A line read from below is filled into its home L2, when it has one on this device (09 R223, R239; 23 R446). -/
def State.filled (s : State) (ctx sec : Nat) : State :=
  match s.homeOf ctx sec with
  | .here k => s.fillL2 ctx (k / 8)
  | _ => s

/-! ### The sources of copies (09 R232) -/

/-- A copy that still has rows of a global source to read. -/
def Job.reading (j : Job) : Bool :=
  j.st != .done && decide (j.got < j.ext1) &&
    match j.kind with
    | .copy k _ _ _ _ => k == .gg || k == .gs
    | .multi _ _ _ => true
    | .gather _ _ => true
    | _ => false

/-- A copy whose bytes are read when it issued: rows of a global source, or an index list. -/
def Job.source (j : Job) : Bool :=
  j.reading || (j.st != .done && j.idx.isNone && match j.kind with | .gather _ _ => true | _ => false)

/-- A sector, by its L1 address, that a context can reach now. -/
def State.reaches (s : State) (ctx sec : Nat) : Bool :=
  (s.ctx ctx).table.any fun e =>
    match e.2.kind with
    | .migrating => false
    | .stripe => true
    | .backed => e.2.present && decide (e.2.target ≤ sec * 32) && decide (sec * 32 < e.2.target + 2 ^ e.2.log2)
    | _ => decide (e.2.target ≤ sec * 32) && decide (sec * 32 < e.2.target + 2 ^ e.2.log2)

/-- Before a sector is written, the copies that read it keep it as their cluster saw it: a copy reads its source at issue (R232). -/
def State.keepSource (s : State) (owner sec : Nat) : State :=
  { s with jobs := tmap s.jobs fun _ j =>
      if j.source && (tfind j.snap sec).isNone && s.reaches j.ctx sec &&
          (!isUnbackedOff (offOf (sec * 32)) || j.ctx == owner) then
        let r := s.readBelow j.cluster j.ctx sec
        { j with snap := tins j.snap sec (r.data, r.bad) }
      else j }

/-- The same for the sectors of a range that hold something, before the range is dropped: `f` gives each one's L1 address. -/
def State.keepRange (s : State) (owner lo n : Nat) (f : Nat → Nat) : State :=
  if !s.jobs.any fun e => e.2.source then s
  else
    let in_ (k : Nat) : Bool := decide (lo ≤ k) && decide (k < lo + n)
    let ks : List Nat := ((s.l2.map (·.1)) ++ (s.mem.map fun (e : Host.Cell) => e.1 / 32) ++ s.poison).filter in_
    ks.eraseDups.foldl (fun s k => s.keepSource owner (f k)) s

/-! ### Writes performed -/

/-- The peer port of a write to another chip (16 R341): that of an earlier write to its (chip, 4 KiB granule) still on its way, else
the port of the route's mask with the fewest queued bytes, the lower of equal ones; 0 while the route is not valid. -/
def State.portFor (s : State) (sec : Nat) : Nat :=
  match s.pod.out.find? fun w => w.sec / 128 == sec / 128 && w.port != 0 with
  | some w => w.port
  | none =>
    let (v, m) := tget (false, 0) s.pod.routes (chipOf (sec * 32))
    let queued (p : Nat) : Nat :=
      s.pod.out.foldl (fun n w => if w.port = p then n + ((List.range 32).filter fun i => w.mask.getLsbD i).length else n) 0
    if !v then 0
    else
      ([1, 2, 3].filter fun p => m.getLsbD (p - 1)).foldl (fun b p =>
        if b = 0 || queued p < queued b then p else b) 0

/-- A write leaves for its home: the home L2, the peer port, or host memory (09 R224). A write to an UNTOUCHED page is its
allocating access; where the policy cannot place it, its bytes are lost (16 R354). One to a line of a quarantined way waits in the
slice (23 R458). -/
def State.writeHome (s0 : State) (w : SWrite) : State :=
  let s := s0.keepSource w.owner w.sec
  match s.homeOf w.owner w.sec with
  | .here k => if s.lineHeld w.owner (w.sec * 32) then { s with slow := s.slow ++ [w] } else s.writeL2 k w
  | .peer k => { s with pod := { s.pod with out := s.pod.out ++ [{ w with sec := k, port := s.portFor k }] } }
  | .host k => s.frameWrite { w with sec := k }
  | .zero =>
    match s.allocPage w.owner (w.sec * 32 / 65536) with
    | .done s1 =>
      match s1.homeOf w.owner w.sec with
      | .here k => s1.writeL2 k w
      | _ => s1
    | _ => s.putCtx w.owner { (s.ctx w.owner) with lost := (s.ctx w.owner).lost + 1 }

/-- The writes that waited for a line that has left its way perform, in order (23 R458). -/
def State.flushSlow (s : State) : State :=
  s.slow.foldl State.writeHome { s with slow := [] }

/-- The pending writes of a cluster's egress point perform at their homes, in order (09 R224). What copies read of them is kept as the
egress point showed it (R232). -/
def State.drainEgress (s : State) (cl : Nat) : State :=
  let s1 := (s.cluster cl).egress.foldl (fun s w => s.keepSource w.owner w.sec) s
  let c := s1.cluster cl
  c.egress.foldl State.writeHome (s1.putCluster cl { c with egress := [] })

/-- A write to a peer that cannot perform yet: its device has no valid route, or refuses requests for the range (16 R340, R357). -/
def State.stuck (s : State) (w : SWrite) : Bool := !s.routed (chipOf (w.sec * 32)) || s.refusedAt (w.sec * 32)

/-- Every write accepted by the peer ports performs, in the order of each path, at the devices with a valid route (09 R242, 16 R340,
R341). -/
def State.flushPeers (s : State) : State :=
  let go := s.pod.out.filter fun w => !s.stuck w
  let stay := s.pod.out.filter fun w => s.stuck w
  go.foldl State.frameWrite { s with pod := { s.pod with out := stay } }

/-- A release or write-down of POD or SYSTEM scope waits for bytes on their way to some of the devices of a mask (09 R242, R244; 16
R340), and one of DEVICE scope or wider for bytes that wait in a slice (23 R458). -/
def State.stuckOut (s : State) (ctx : Nat) (sc : Scope) (chips : BitVec 64) : Bool :=
  ((sc == .device || sc == .pod || sc == .system) && s.slow.any fun w => w.owner == ctx) ||
  (sc == .pod || sc == .system) && s.pod.out.any fun w => chips.getLsbD (chipOf (w.sec * 32)) && s.stuck w

/-- Writes of one agent of a cluster performed to a scope, in order (09 R224). Writes that came to the egress point earlier
leave it first. -/
def State.sendDown (s : State) (cl : Nat) (sc : Scope) (ws : List SWrite) : State :=
  match sc with
  | .core => s
  | .cluster =>
    let s1 := ws.foldl (fun s w => s.keepSource w.owner w.sec) s
    let c := s1.cluster cl
    s1.putCluster cl { c with egress := c.egress ++ ws }
  | .device => ws.foldl State.writeHome (s.drainEgress cl)
  | .pod => (ws.foldl State.writeHome (s.drainEgress cl)).flushPeers
  | .system => (ws.foldl State.writeHome (s.drainEgress cl)).flushPeers

/-- A read meets a POISON sector (23 R449): the line of one fetched from device memory then stands in the home L2 with the sector
POISON. -/
def State.meetPoison (s : State) (ctx sec sub : Nat) : State :=
  let s1 := { s with fresh := s.fresh + 1 }
  match s1.homeOf ctx sec with
  | .here k =>
    let s2 := if sub = 7 then s1.fillL2 ctx (k / 8) else s1
    if sub = 7 && (tfind s2.lines (k / 8)).isSome then
      { s2 with l2 := tset L2Sector.zero s2.l2 k { (tget L2Sector.zero s2.l2 k) with poison := true } }
    else s2
  | _ => s1

/-! ### Ranges read and written below the L1s, by walkers and central blocks (09 R232, R233; 10 R249; 16 R342) -/

/-- The place of a condition among those of one row (10 R249): ADDR 0x04, PRIV, a scratchpad row outside, BACK. -/
def condRank (code sub : Nat) : Nat :=
  match code with
  | 3 => if sub = 4 then 0 else 2
  | 6 => 1
  | _ => 3

/-- The condition that decides, with its address. -/
def firstCond (l : List (Nat × Nat × Nat)) : Option (Nat × Nat × Nat) :=
  l.foldl (fun b c =>
    match b with
    | none => some c
    | some x => if condRank c.1 c.2.1 < condRank x.1 x.2.1 then some c else b) none

/-- The conditions that the sectors at some addresses meet. -/
def State.secConds (s : State) (ctx : Nat) (acc : Acc) (vas : List Nat) : List (Nat × Nat × Nat) :=
  vas.filterMap fun va => match s.xlate ctx va acc false with | .ok _ _ => none | .bad c k => some (c, k, va)

/-- The addresses of the sectors that hold a range. -/
def sectorsOf (va n : Nat) : List Nat :=
  if n = 0 then [] else (List.range ((va + n - 1) / 32 - va / 32 + 1)).map fun k => (va / 32 + k) * 32

/-- What reading a range gives: the condition that stops it, the first POISON sector with its subcode, or the bytes. -/
inductive VRead where
  | bytes (l : List Byte)
  | poison (sec sub : Nat)
  | bad (code sub va : Nat)
  deriving DecidableEq, Repr

/-- A sector read by an agent of a cluster, or by a central block. -/
def State.readAt (s : State) (cl : Option Nat) (ctx sec : Nat) : SRead :=
  match cl with
  | some c => s.readBelow c ctx sec
  | none => s.readHome ctx sec

/-- Sectors read in ascending order, a copy's from what it keeps of them: the first POISON one, or all their data. -/
def State.readSecs (s : State) (cl : Option Nat) (ctx : Nat) (snap : Tab (BitVec 256 × Option Nat)) :
    List Nat → Except (Nat × Nat) (List (BitVec 256))
  | [] => .ok []
  | va :: r =>
    match s.xlate ctx va .rd false with
    | .bad _ _ => .ok []
    | .ok pa _ =>
      let x : SRead := match tfind snap (pa / 32) with | some e => { data := e.1, bad := e.2 } | none => s.readAt cl ctx (pa / 32)
      match x.bad with
      | some k => .error (pa / 32, k)
      | none => (s.readSecs cl ctx snap r).map fun l => x.data :: l

/-- A range read by an agent of a cluster, or by a central block. -/
def State.readRange (s : State) (cl : Option Nat) (ctx va n : Nat) : VRead :=
  let vas := sectorsOf va n
  match firstCond (s.secConds ctx .rd vas) with
  | some (c, k, a) => .bad c k a
  | none =>
    match s.readSecs cl ctx [] vas with
    | .error e => .poison e.1 e.2
    | .ok l => .bytes (((l.flatMap fun d => (List.range 32).map fun i => sectorByte d i).drop (va % 32)).take n)

/-- What writing a range gives. -/
inductive Wr where
  | ok (s : State)
  | bad (code sub va : Nat)
  deriving DecidableEq, Repr

/-- Parts of sectors written at their homes in order, each page bound as it is met. -/
def State.writeSecs (s : State) (ctx : Nat) : List (Nat × BitVec 32 × BitVec 256) → Wr
  | [] => .ok s
  | (va, m, d) :: r =>
    match s.xlate ctx va .wr false with
    | .bad c k => .bad c k va
    | .ok pa e =>
      match s.bindFor ctx pa e with
      | .beyond k => .bad 4 k va
      | .hole => .bad 3 4 va
      | .done s1 =>
        State.writeSecs (s1.writeHome { sec := pa / 32, mask := m, data := d, owner := ctx, poison := false, port := 0 }) ctx r

/-- Bytes as a number, the first lowest. -/
def bytesNat : List Byte → Nat
  | [] => 0
  | b :: r => b.toNat + 256 * bytesNat r

/-- The `n` low bytes of a number, the lowest first. -/
def natBytes : Nat → Nat → List Byte
  | 0, _ => []
  | n + 1, v => BitVec.ofNat 8 v :: natBytes n (v / 256)

/-- Bytes cut into parts of sectors; the fuel is their number. -/
def cutBytes : Nat → Nat → List Byte → List (Nat × BitVec 32 × BitVec 256)
  | 0, _, _ => []
  | n + 1, va, l =>
    if l.isEmpty then []
    else
      let k := min (32 - va % 32) l.length
      (va, spanMask (va % 32) k, spanData (va % 32) (bytesNat (l.take k))) :: cutBytes n (va + k) (l.drop k)

/-- A range written by a walker or a central block at the homes of its lines. -/
def State.writeRange (s : State) (ctx va : Nat) (l : List Byte) : Wr :=
  match firstCond (s.secConds ctx .wr (sectorsOf va l.length)) with
  | some (c, k, a) => .bad c k a
  | none => s.writeSecs ctx (cutBytes l.length va l)

/-! ### The L1 (09 R222, R223) -/

/-- The cluster of a core (01 R12). -/
def clusterOf (core : Nat) : Nat := core / 12

/-- A sector of a core's L1. -/
def State.l1 (s : State) (core sec : Nat) : Option Sector := tfind (s.core core).l1 sec

/-- The state with a sector of a core's L1 replaced; a sector with no valid and no dirty byte is not held. -/
def State.putL1 (s : State) (core sec : Nat) (x : Sector) : State :=
  let c := s.core core
  s.putCore core { c with l1 := if !x.valid && x.dirty == 0 then tdel c.l1 sec else tins c.l1 sec x }

/-- The write-down of a sector's dirty bytes. -/
def Sector.down (x : Sector) (sec : Nat) : SWrite :=
  { sec := sec, mask := x.dirty, data := x.data, owner := x.owner, poison := x.poison, port := 0 }

/-- The devices that the dirty bytes of selected L1 sectors go to. -/
def State.downChips (s : State) (core : Nat) (p : Nat → Bool) : BitVec 64 :=
  (s.core core).l1.foldl (fun (m : BitVec 64) (e : Nat × Sector) =>
    if p e.1 && e.2.dirty != 0 then m ||| (1 <<< chipOf (e.1 * 32) : BitVec 64) else m) 0

/-- Dirty bytes of the L1 sectors that `p` selects, written down to a scope with their dirty bits cleared (09 R241). At CORE
scope the point is the L1 itself and nothing changes. -/
def State.cleanL1 (s : State) (core : Nat) (sc : Scope) (p : Nat → Bool) : State :=
  if sc = .core then s
  else
    let c := s.core core
    let ws := (c.l1.filter fun e => p e.1 && e.2.dirty != 0).map fun e => e.2.down e.1
    let l1 := (tmap c.l1 fun k x => if p k then { x with dirty := 0 } else x).filter fun e => e.2.valid || e.2.dirty != 0
    (s.putCore core { c with l1 := l1 }).sendDown (clusterOf core) sc ws

/-- L1_EVICTION (09 R223): a line's dirty bytes go as far as DEVICE scope and the line is dropped. -/
def State.evictLine (s : State) (core line : Nat) : State :=
  let p := fun k => k / 8 == line
  let s1 := s.cleanL1 core .device p
  let c := s1.core core
  s1.putCore core { c with l1 := c.l1.filter fun e => !p e.1 }

/-- The lines that a set of a core's L1 holds (R222). -/
def Core.lines (c : Core) (set : Nat) : List Nat := ((c.l1.map fun e => e.1 / 8).filter fun k => k % 64 = set).eraseDups

/-- The ways of a core's L1 that hold lines: 20, less the spill ways (R222; 03 R67). -/
def Core.ways (c : Core) : Nat := 20 - c.spill

/-- A way of a line's set made free for it, when it holds no way and every way is taken: the line that leaves is freely chosen (R223;
log 10). -/
def State.makeWay (s : State) (core line : Nat) : State :=
  let ls := (s.core core).lines (line % 64)
  if ls.contains line || decide (ls.length < (s.core core).ways) then s
  else
    let (n, s1) := s.draw
    s1.evictLine core (ls.getD (n % ls.length) 0)

/-- Lines of a set leave while it holds more than its ways; the fuel bounds them. -/
def State.shrinkSet (s : State) (core set : Nat) : Nat → State
  | 0 => s
  | k + 1 =>
    let ls := (s.core core).lines set
    if ls.length ≤ (s.core core).ways then s
    else
      let (n, s1) := s.draw
      (s1.evictLine core (ls.getD (n % ls.length) 0)).shrinkSet core set k

/-- The spill ways of a core set: the lines of newly reserved ways are written back first, and freed ways return empty (03 R67). -/
def State.setSpill (s : State) (core w : Nat) : State :=
  let c := s.core core
  let s1 := s.putCore core { c with spill := w }
  if w ≤ c.spill || c.l1.isEmpty then s1 else (List.range 64).foldl (fun s set => s.shrinkSet core set 20) s1

/-- The owner tag of a line in a core's L1 (23 R446). -/
def State.tagL1 (s : State) (core line owner : Nat) : State :=
  let c := s.core core
  s.putCore core { c with l1 := tmap c.l1 fun k x => if k / 8 = line then { x with owner := owner } else x }

/-- A sector that a load needs, fetched and merged under its dirty bytes when it is not valid (09 R223): its bytes, the DATA
subcode when it is POISON, and the state. -/
def State.loadL1 (s : State) (core ctx sec : Nat) : SRead × State :=
  match s.l1 core sec with
  | some x =>
    if x.valid || x.poison then ({ data := x.data, bad := if x.poison then some 4 else none }, s)
    else
      let r := s.readBelow (clusterOf core) ctx sec
      let d := mergeSector r.data x.data x.dirty
      ({ r with data := d },
       if r.bad.isSome then s
       else ((s.filled ctx sec).putL1 core sec { x with valid := true, data := d }).tagL1 core (sec / 8) ctx)
  | none =>
    let r := s.readBelow (clusterOf core) ctx sec
    (r, if r.bad.isSome then s
        else
          (((s.filled ctx sec).makeWay core (sec / 8)).putL1 core sec
            { valid := true, poison := false, owner := ctx, dirty := 0, data := r.data }).tagL1 core (sec / 8) ctx)

/-- A weak store's bytes written into the L1 with their dirty bits (09 R223). -/
def State.storeL1 (s : State) (core ctx sec : Nat) (mask : BitVec 32) (d : BitVec 256) : State :=
  let x := (s.l1 core sec).getD { valid := false, poison := false, owner := ctx, dirty := 0, data := 0 }
  ((s.makeWay core (sec / 8)).putL1 core sec
    { x with owner := ctx, dirty := x.dirty ||| mask, data := mergeSector x.data d mask,
             poison := x.poison && mask != BitVec.allOnes 32 }).tagL1 core (sec / 8) ctx

/-- A store that goes below the L1 also writes a valid copy there (09 R236, R237). Dirty bytes that it overwrites must not
be written down after it: `clear` clears their dirty bits, and in a sector that is not valid they always are (09 R230). -/
def State.passL1 (s : State) (core ctx sec : Nat) (mask : BitVec 32) (d : BitVec 256) (clear : Bool) : State :=
  match s.l1 core sec with
  | none => s
  | some x =>
    (s.putL1 core sec
      { x with data := mergeSector x.data d mask, dirty := if clear || !x.valid then x.dirty &&& ~~~mask else x.dirty }).tagL1
      core (sec / 8) ctx

/-- L1 sectors that `p` selects invalidated: those with dirty bytes are written down first, and at CORE scope they stay
(09 R241). -/
def State.invalL1 (s : State) (core : Nat) (sc : Scope) (p : Nat → Bool) : State :=
  let s1 := s.cleanL1 core sc p
  let c := s1.core core
  s1.putCore core { c with l1 := c.l1.filter fun e => !(p e.1 && e.2.dirty == 0) }

/-! ### Code (04 R78; 01 R13) -/

/-- What the fetch of a word gives: the word, a wait for a line in a quarantined way, a miss in the instruction cache, a POISON sector, or
a condition. -/
inductive Fetched where
  | word (w : Word)
  | held
  | miss (line : Nat)
  | poison (sec sub : Nat)
  | bad (code sub va : Nat)
  deriving DecidableEq, Repr

/-- A word at a word address of a context, read for execution below a cluster's cores. -/
def State.codeWord (s : State) (cl ctx : Nat) (pc : Word) : Fetched :=
  let va := pc.toNat * 8
  match s.xlate ctx va .ex true with
  | .bad code sub => .bad code sub va
  | .ok pa _ =>
    if s.lineHeld ctx pa then .held
    else
      let r := s.readBelow cl ctx (pa / 32)
      match r.bad with
      | some k => .poison (pa / 32) k
      | none => .word (BitVec.ofNat 64 (r.data.toNat / 2 ^ (8 * (pa % 32)) % 2 ^ 64))

/-- A word fetched by a core: its line is held by the core's instruction cache, or misses (04 R104). What the cache gives is what the
memory below holds (DESIGN CHOICE, log 70: the spec says nothing of code that changes). -/
def State.fetchWord (s : State) (core ctx : Nat) (pc : Word) : Fetched :=
  match s.xlate ctx (pc.toNat * 8) .ex true with
  | .bad code sub => .bad code sub (pc.toNat * 8)
  | .ok pa _ =>
    if (s.core core).icache.contains (pa / 256) || s.lineHeld ctx pa then s.codeWord (clusterOf core) ctx pc else .miss (pa / 256)

/-- A line filled into a core's instruction cache of 64 KiB (01 R13); which line leaves a full one is free (log 70). -/
def State.fillI (s : State) (core line : Nat) : State :=
  let c := s.core core
  if c.icache.length < 256 then s.putCore core { c with icache := line :: c.icache }
  else
    let (v, s1) := s.draw
    s1.putCore core { c with icache := line :: c.icache.eraseIdx (v % c.icache.length) }

/-! ### Ranges of addresses -/

/-- A part of a range that lies in one extent: its entry, first address and length. -/
structure Piece where
  e : Entry
  va : Nat
  len : Nat
  deriving DecidableEq, Repr

/-- A range cut at the extents that hold it; none where a byte lies in no extent. The fuel is the table's size. -/
def cutRange (c : Ctx) : Nat → Nat → Nat → Option (List Piece)
  | _, _, 0 => some []
  | 0, _, _ + 1 => none
  | n + 1, va, len + 1 =>
    match c.lookup va with
    | none => none
    | some (_, e) =>
      let k := min (len + 1) (e.vbase + 2 ^ e.log2 - va)
      (cutRange c n (va + k) (len + 1 - k)).map fun r => { e := e, va := va, len := k } :: r

/-- The extents of a range of a context; none where a byte lies outside 09 R220. -/
def State.pieces (s : State) (ctx va len : Nat) : Option (List Piece) :=
  if len ≠ 0 && decide (2 ^ 57 < va + len) then none else cutRange (s.ctx ctx) 4097 va len

/-- A sector of the L1 overlaps the lines of a range of pieces. -/
def inLines (s : State) (ps : List Piece) (sec : Nat) : Bool :=
  ps.any fun p =>
    let lo := s.paOf p.e p.va
    decide (lo / 256 ≤ sec / 8) && decide (sec / 8 ≤ (lo + p.len - 1) / 256) && decide (0 < p.len)

end Sys2Proof.Machine
end

