-- ==== Sys2Proof/Machine/Vector.lean ====
section
/-! DEFINITION. The vector and matrix-register instructions (06): one meaning per instruction over shared forms of a
lane-wise instruction. -/

namespace Sys2Proof.Machine

/-! ### Types, modes and generators -/

/-- The floating-point type of a TYPE code (04 R88). -/
def fmtOf (ty : Nat) : Option Fmt :=
  match ty with
  | 0 => some fp32
  | 1 => some fp16
  | 2 => some bf16
  | 3 => some e4m3
  | 4 => some e5m2
  | 5 => some e2m1
  | _ => none

/-- The integer type of a TYPE code (04 R88). -/
def ityOf (ty : Nat) : ITy :=
  match ty with
  | 6 => { w := 8, s := true }
  | 7 => { w := 8, s := false }
  | 8 => { w := 16, s := true }
  | 9 => { w := 16, s := false }
  | 10 => { w := 32, s := true }
  | _ => { w := 32, s := false }

/-- Bits of an element of a TYPE code (06 R141). -/
def widthOf (ty : Nat) : Nat :=
  match ty with
  | 0 | 10 | 11 => 32
  | 1 | 2 | 8 | 9 => 16
  | 5 | 13 => 4
  | _ => 8

/-- The MX element kind of a TYPE code (02 R28). -/
def mxOf (ty : Nat) : MxTy :=
  match ty with
  | 12 => .e4m3
  | 13 => .e2m1
  | _ => .i8

/-- A rounding field after RNDM has been looked up (02 R30). -/
def Task.rmode (t : Task) (rnd : BitVec 3) : Mode := if rnd = 6 then modeOf t.xs.rndm.toNat else modeOf rnd.toNat

/-- A lane generator (02 R36). -/
def Task.gen (t : Task) (i : Nat) : BitVec 32 := tget 0 t.xs.gens i

/-- The state that serves element `e` of width `w` (02 R38). -/
def Task.serve (t : Task) (w e : Nat) : BitVec 32 :=
  let x := t.gen (w * e / 16)
  match w with
  | 8 => x.rotateLeft (16 * (e % 2))
  | 4 => x.rotateLeft (8 * (e % 4))
  | _ => x

/-- Every lane of a mask steps once (02 R38). -/
def Task.stepLanes (t : Task) (g : Word) : Task :=
  t.onX fun x =>
    { x with gens := (List.range 64).foldl (fun gs i => if g.getLsbD i then tset 0 gs i (laneStep (tget 0 gs i)) else gs) x.gens }

/-- An FP16 constant converted to an element of a type (06 R144). -/
def constTo (ty : Nat) (md : Mode) (sat : Bool) (x : BitVec 32) (h : Nat) : Nat :=
  match fmtOf ty with
  | some f => f.round md sat x (fp16.val h)
  | none => (ityOf ty).ofVal md sat x (fp16.val h)

/-- Element `e` of a source of type `ty`; a constant is converted with the state `x`. -/
def OpVal.elem (v : OpVal) (ty : Nat) (md : Mode) (sat : Bool) (x : BitVec 32) (e : Nat) : Nat :=
  match v with
  | .row r => elemAt (widthOf ty) r e
  | .const h => constTo ty md sat x h

/-! ### Shared forms -/

/-- What a lane-wise instruction computes for an element: index, mode, SAT, serving state, elements of A, B and D. -/
abbrev LaneFn := Nat → Mode → Bool → BitVec 32 → Nat → Nat → Nat → Nat

/-- The cc count of the acting core. -/
def State.cc (s : State) : Nat := (s.core s.cur.core).cc

/-- The end of an X-strand instruction: its results are in flight and the pc moves on. -/
def finishX (s : State) (t : Task) : State := s.putHere (t.advance .x)

/-- The cell mask of the elements for which `p` holds. -/
def elemMask (w : Nat) (p : Nat → Bool) : Row :=
  rowOf w ((List.range (1024 / w)).map fun e => if p e then 2 ^ w - 1 else 0)

/-- A lane-wise instruction of one element type (06 R141, R145): sources, destination, rounding or not, whether D is read,
whether the mask restricts the write. An instruction of a rounding major steps its active lanes once under SR, an integer `vadd`,
`vsub` or `vmul` too (DEDUCED, log 100). -/
def lanewiseT (s : State) (o : VOp) (lat : Nat) (rounds readsD masks : Bool) (d a b : Opd) (f : Task → LaneFn) : Out :=
  onlyX s fun t =>
    claim s t (opdRegs a ++ opdRegs b ++ (if readsD then opdRegs d else [])) (opdRegs d) fun t =>
      let ty := o.ty.toNat
      let w := widthOf ty
      let (x, y, f1) := (Fetch.start t).sources s.cc w a b
      let (dst, f2) := f1.dest d
      f2.done s fun t =>
        let md := if rounds then t.rmode o.rnd else .rne
        let g := t.mask o.mask
        let t1 := if rounds && md == .sr then t.stepLanes g else t
        let old := t1.readDest w dst
        let act e := !masks || activeAt w g e
        let v := rowOf w ((List.range (1024 / w)).map fun e =>
          if act e then
            let st := t1.serve w e
            f t e md o.sat st (x.elem ty md o.sat st e) (y.elem ty md o.sat st e) (elemAt w old e)
          else 0)
        finishX s (t1.launchX lat (dst.kind w v (elemMask w act)))

/-- A lane-wise instruction whose function reads no other state. -/
def lanewise (s : State) (o : VOp) (lat : Nat) (rounds readsD masks : Bool) (d a b : Opd) (f : LaneFn) : Out :=
  lanewiseT s o lat rounds readsD masks d a b fun _ => f

/-- An arithmetic result of two elements: exact values rounded once, or integers wrapped or clamped (06 R145, R146). -/
def arith (ty : Nat) (ff : Mode → Val → Val → Val → Val) (fi : Int → Int → Int) : LaneFn :=
  fun _ md sat st a b c =>
    match fmtOf ty with
    | some t => t.round md sat st (ff md (t.val a) (t.val b) (t.val c))
    | none => (ityOf ty).code sat (fi ((ityOf ty).val a) ((ityOf ty).val b))

/-! ### Arithmetic (R145-R147) -/

/-- VADD (R145). -/
def execVadd (o : VOp) (d a b : Opd) (s : State) : Out :=
  lanewise s o 3 true false true d a b (arith o.ty.toNat (fun md x y _ => x.add md y) (fun x y => x + y))

/-- VSUB (R145). -/
def execVsub (o : VOp) (d a b : Opd) (s : State) : Out :=
  lanewise s o 3 true false true d a b (arith o.ty.toNat (fun md x y _ => x.add md y.neg) (fun x y => x - y))

/-- VMUL (R145). -/
def execVmul (o : VOp) (d a b : Opd) (s : State) : Out :=
  lanewise s o 3 true false true d a b (arith o.ty.toNat (fun _ x y _ => x.mul y) (fun x y => x * y))

/-- VFMA (R145): one rounding of a × b + D. -/
def execVfma (o : VOp) (d a b : Opd) (s : State) : Out :=
  lanewise s o 4 true true true d a b (arith o.ty.toNat (fun md x y z => Val.fma md x y z) (fun x y => x * y))

/-- VMIN (R145). -/
def execVmin (o : VOp) (d a b : Opd) (s : State) : Out :=
  lanewise s o 3 false false true d a b (arith o.ty.toNat (fun _ x y _ => x.min y) (fun x y => if y < x then y else x))

/-- VMAX (R145). -/
def execVmax (o : VOp) (d a b : Opd) (s : State) : Out :=
  lanewise s o 3 false false true d a b (arith o.ty.toNat (fun _ x y _ => x.max y) (fun x y => if x < y then y else x))

/-- VABS (R145, R146). -/
def execVabs (o : VOp) (d a : Opd) (s : State) : Out :=
  lanewise s o 3 false false true d a .zero
    (arith o.ty.toNat (fun _ x _ _ => x.abs) (fun x _ => if x < 0 then -x else x))

/-- VEXP2 (R147). -/
def execVexp2 (o : VOp) (d a : Opd) (s : State) : Out :=
  lanewise s o 8 true false true d a .zero (arith o.ty.toNat (fun _ x _ _ => exp2Val x) (fun x _ => x))

/-- VLOG2 (R147). -/
def execVlog2 (o : VOp) (d a : Opd) (s : State) : Out :=
  lanewise s o 8 true false true d a .zero (arith o.ty.toNat (fun md x _ _ => log2Val md x) (fun x _ => x))

/-- VRCP (R147). -/
def execVrcp (o : VOp) (d a : Opd) (s : State) : Out :=
  lanewise s o 8 true false true d a .zero (arith o.ty.toNat (fun _ x _ _ => rcpVal x) (fun x _ => x))

/-- VRSQ (R147). -/
def execVrsq (o : VOp) (d a : Opd) (s : State) : Out :=
  lanewise s o 8 true false true d a .zero (arith o.ty.toNat (fun _ x _ _ => rsqVal x) (fun x _ => x))

/-! ### Conversion (R148) -/

/-- An element of type `u` converted to type `ty` (02 R33, R35). Integers of one width are clamped under SAT as a narrowing
is (DEDUCED, log 12). -/
def convert (ty u : Nat) (md : Mode) (sat : Bool) (x : BitVec 32) (n : Nat) : Nat :=
  match fmtOf ty, fmtOf u with
  | some f, some h => f.round md sat x (h.val n)
  | some f, none => f.round md sat x (Val.ofInt ((ityOf u).val n))
  | none, some h => (ityOf ty).ofVal md sat x (h.val n)
  | none, none => (ityOf ty).code (sat && decide (widthOf ty ≤ widthOf u)) ((ityOf u).val n)

/-- A conversion that is exact and steps no generator (R148): both integers, a type to itself, or a widening between
floating-point types. Exponent and fraction both grow in a widening. -/
def exactCvt (ty u : Nat) : Bool :=
  ty == u ||
    match fmtOf ty, fmtOf u with
    | none, none => true
    | some f, some h => decide (h.e + h.f < f.e + f.f) && decide (h.e ≤ f.e) && decide (h.f ≤ f.f)
    | _, _ => false

/-- VCVT (R148). -/
def execVcvt (o : VOp) (d a : Opd) (p : BitVec 3) (u : BitVec 4) (s : State) : Out :=
  onlyX s fun t =>
    let ty := o.ty.toNat
    let ut := u.toNat
    let w := widthOf ty
    let wu := widthOf ut
    let nd := 1024 / w
    let ns := 1024 / wu
    claim s t (opdRegs a) (opdRegs d) fun t =>
      let (x, f1) := (Fetch.start t).source s.cc wu a
      let (dst, f2) := f1.dest d
      f2.done s fun t =>
        let md := t.rmode o.rnd
        let g := t.mask o.mask
        let sr := md == .sr && !exactCvt ty ut
        let t1 := if sr then t.stepLanes g else t
        let inPart e := if ns ≤ nd then decide (p.toNat * ns ≤ e) && decide (e < p.toNat * ns + ns) else true
        let srcOf e := if ns ≤ nd then e - p.toNat * ns else p.toNat * nd + e
        let act e := inPart e && activeAt w g e
        let v := rowOf w ((List.range nd).map fun e =>
          if act e then
            let st := t1.serve w e
            let cst := if sr then st else t.serve wu (srcOf e)
            convert ty ut md o.sat st (x.elem ut md o.sat cst (srcOf e))
          else 0)
        finishX s (t1.launchX 3 (dst.kind w v (elemMask w act)))

/-! ### MX blocks (R149, R150) -/

/-- VMXQ (R149): the block and its scale byte are results of their own. -/
def execVmxq (o : VOp) (d a : Opd) (sr : Reg) (p : BitVec 3) (s : State) : Out :=
  onlyX s fun t =>
    let ty := o.ty.toNat
    let w := widthOf ty
    claim s t (opdRegs a) (opdRegs d) fun t =>
      let (x, f1) := (Fetch.start t).source s.cc 32 a
      let (dst, f2) := f1.dest d
      f2.done s fun t =>
        let md := t.rmode o.rnd
        let t1 := if md == .sr then t.stepLanes (BitVec.allOnes 64) else t
        let st k := t1.serve w (32 * p.toNat + k)
        let vs := (List.range 32).map fun k => fp32.val (x.elem 0 md false (st k) k)
        let sc := mxScale (mxOf ty) vs
        let zero := (amax vs).isZero
        let lo := 32 * p.toNat
        let v := rowOf w ((List.range (1024 / w)).map fun e =>
          if decide (lo ≤ e) && decide (e < lo + 32) then
            mxElem (mxOf ty) md (st (e - lo)) sc zero (vs.getD (e - lo) .nan)
          else 0)
        let m := elemMask w fun e => decide (lo ≤ e) && decide (e < lo + 32)
        let t2 := t1.launchX 6 (dst.kind w v m)
        let t3 := if sr = 0 then t2 else t2.launchX 6 (.sbyte sr.toNat p.toNat (BitVec.ofNat 8 sc))
        finishX s t3

/-- VMXD (R150). -/
def execVmxd (o : VOp) (d a : Opd) (sr : Reg) (p : BitVec 3) (s : State) : Out :=
  onlyX s fun t =>
    let ty := o.ty.toNat
    let w := widthOf ty
    claim s t (opdRegs a) (opdRegs d) fun t =>
      let (x, f1) := (Fetch.start t).source s.cc w a
      let (dst, f2) := f1.dest d
      f2.done s fun t =>
        let md := t.rmode o.rnd
        let g := t.mask o.mask
        let t1 := if md == .sr then t.stepLanes g else t
        let sc := (t1.rd .x sr >>> (8 * p.toNat)).toNat % 256
        let code st k :=
          match x with
          | .row r => elemAt w r (32 * p.toNat + k)
          | .const h =>
            match mxOf ty with
            | .e4m3 => e4m3.round md o.sat st (fp16.val h)
            | .e2m1 => e2m1.round md o.sat st (fp16.val h)
            | .i8 => (ITy.mk 8 true).ofVal md o.sat st (fp16.val h)
        let v := rowOf 32 ((List.range 32).map fun k =>
          if activeAt 32 g k then
            let st := t1.serve 32 k
            fp32.round md o.sat st ((mxOf ty).val sc (code st k))
          else 0)
        finishX s (t1.launchX 3 (dst.kind 32 v (elemMask 32 (activeAt 32 g))))

/-! ### Compare, select and bit operations (R151-R154) -/

/-- A `vcmp` condition (R151). -/
def vcond (ty c : Nat) (a b : Nat) : Bool :=
  match fmtOf ty with
  | some t =>
    let x := t.val a
    let y := t.val b
    match c with
    | 0 => x.eq y
    | 1 => !x.eq y
    | 2 => x.lt y
    | 3 => x.lt y || x.eq y
    | 4 => y.lt x
    | 5 => y.lt x || x.eq y
    | _ => x.isNan || y.isNan
  | none =>
    let x := (ityOf ty).val a
    let y := (ityOf ty).val b
    match c with
    | 0 => decide (x = y)
    | 1 => decide (x ≠ y)
    | 2 => decide (x < y)
    | 3 => decide (x ≤ y)
    | 4 => decide (y < x)
    | _ => decide (y ≤ x)

/-- A 64-bit word with the bits for which `p` holds. -/
def maskOf (p : Nat → Bool) : Word :=
  (List.range 64).foldl (fun (r : Word) i => if p i then r ||| ((1#64) <<< i) else r) 0

/-- VCMP (R151). -/
def execVcmp (o : VOp) (g : BitVec 3) (a b : Opd) (s : State) : Out :=
  onlyX s fun t =>
    claim s t (opdRegs a ++ opdRegs b) [] fun t =>
      let ty := o.ty.toNat
      let w := widthOf ty
      let (x, y, f1) := (Fetch.start t).sources s.cc w a b
      f1.done s fun t =>
        let mk := t.mask o.mask
        let bit i := let e := i * 16 / w
          activeAt w mk e && vcond ty o.rnd.toNat (x.elem ty .rne o.sat 0 e) (y.elem ty .rne o.sat 0 e)
        finishX s (if g = 0 then t else t.launchX 2 (.gmask g.toNat (maskOf bit)))

/-- VSEL (R152): the mask selects and does not restrict. -/
def execVsel (o : VOp) (d a b : Opd) (s : State) : Out :=
  lanewiseT s o 2 false false false d a b fun t e _ _ _ x y _ =>
    if activeAt (widthOf o.ty.toNat) (t.mask o.mask) e then x else y

/-- VAND (R153). -/
def execVand (o : VOp) (d a b : Opd) (s : State) : Out :=
  lanewise s o 3 false false true d a b fun _ _ _ _ x y _ => x &&& y

/-- VOR (R153). -/
def execVor (o : VOp) (d a b : Opd) (s : State) : Out :=
  lanewise s o 3 false false true d a b fun _ _ _ _ x y _ => x ||| y

/-- VXOR (R153). -/
def execVxor (o : VOp) (d a b : Opd) (s : State) : Out :=
  lanewise s o 3 false false true d a b fun _ _ _ _ x y _ => x ^^^ y

/-- A left shift with saturation (R154). -/
def shlElem (t : ITy) (sat : Bool) (a c : Nat) : Nat :=
  if c < t.w then t.code sat (t.val a * (2 ^ c : Nat))
  else if !sat || a = 0 then 0
  else t.code true (if t.val a < 0 then t.lo else t.hi)

/-- VSHL (R154). -/
def execVshl (o : VOp) (d a b : Opd) (s : State) : Out :=
  lanewise s o 3 false false true d a b fun _ _ sat _ x y _ => shlElem (ityOf o.ty.toNat) sat x y

/-- VSHR (R154). -/
def execVshr (o : VOp) (d a b : Opd) (s : State) : Out :=
  lanewise s o 3 false false true d a b fun _ _ _ _ x y _ => if y < widthOf o.ty.toNat then x / 2 ^ y else 0

/-- An arithmetic right shift by the element's sign bit (R154). -/
def sarElem (w a c : Nat) : Nat :=
  let v := (ITy.mk w true).val a
  if c < w then (ITy.mk w true).code false (v / (2 ^ c : Nat)) else if v < 0 then 2 ^ w - 1 else 0

/-- VSAR (R154). -/
def execVsar (o : VOp) (d a b : Opd) (s : State) : Out :=
  lanewise s o 3 false false true d a b fun _ _ _ _ x y _ => sarElem (widthOf o.ty.toNat) x y

/-! ### Reductions and scans (R155, R156) -/

/-- The identity of an operation in a type (02 R42). -/
def redIdent (ty op : Nat) : Nat :=
  match fmtOf ty with
  | some t => match op with
    | 0 => t.signed true 0
    | 1 => t.infCode false false
    | _ => t.infCode false true
  | none => match op with
    | 0 => 0
    | 1 => (ityOf ty).code false (ityOf ty).hi
    | _ => (ityOf ty).code false (ityOf ty).lo

/-- One combining step (02 R42). -/
def redOp (ty op : Nat) (md : Mode) (sat : Bool) (x : BitVec 32) (a b : Nat) : Nat :=
  match fmtOf ty with
  | some t => match op with
    | 0 => t.round md sat x ((t.val a).add md (t.val b))
    | 1 => t.round .rne sat x ((t.val a).min (t.val b))
    | _ => t.round .rne sat x ((t.val a).max (t.val b))
  | none =>
    let i := ityOf ty
    match op with
    | 0 => i.code sat (i.val a + i.val b)
    | 1 => i.code false (if i.val b < i.val a then i.val b else i.val a)
    | _ => i.code false (if i.val a < i.val b then i.val b else i.val a)

/-- A list with element `j` replaced. -/
def setAt (l : List Nat) (j v : Nat) : List Nat := l.set j v

/-- The steps of one level of the tree (02 R43): positions j, j + 2w, … ; the generator of element j steps before each
rounding under SR. -/
def redLevel (f : BitVec 32 → Nat → Nat → Nat) (sr : Bool) (lane : Nat → Nat) (w : Nat) :
    Nat → Nat → List Nat × Tab (BitVec 32) → List Nat × Tab (BitVec 32)
  | 0, _, vg => vg
  | k + 1, j, (v, g) =>
    let g1 := if sr then tset 0 g (lane j) (laneStep (tget 0 g (lane j))) else g
    let v1 := setAt v j (f (tget 0 g1 (lane j)) (v.getD j 0) (v.getD (j + w) 0))
    redLevel f sr lane w k (j + 2 * w) (v1, g1)

/-- The reduction tree over 2^k elements from level `l` (02 R43). -/
def redTree (f : BitVec 32 → Nat → Nat → Nat) (sr : Bool) (lane : Nat → Nat) :
    Nat → Nat → List Nat × Tab (BitVec 32) → List Nat × Tab (BitVec 32)
  | 0, _, vg => vg
  | k + 1, l, vg => redTree f sr lane k (l + 1) (redLevel f sr lane (2 ^ l) (2 ^ k) 0 vg)

/-- One level of the scan (02 R44): every read uses values from before the level. -/
def scanLevel (f : BitVec 32 → Nat → Nat → Nat) (sr : Bool) (lane : Nat → Nat) (w : Nat) (old : List Nat) :
    Nat → Nat → List Nat × Tab (BitVec 32) → List Nat × Tab (BitVec 32)
  | 0, _, vg => vg
  | k + 1, j, (v, g) =>
    let g1 := if sr then tset 0 g (lane j) (laneStep (tget 0 g (lane j))) else g
    let v1 := setAt v j (f (tget 0 g1 (lane j)) (old.getD (j - w) 0) (old.getD j 0))
    scanLevel f sr lane w old k (j + 1) (v1, g1)

/-- The scan over n elements, `k` levels from level `l` (02 R44). -/
def scanTree (f : BitVec 32 → Nat → Nat → Nat) (sr : Bool) (lane : Nat → Nat) (n : Nat) :
    Nat → Nat → List Nat × Tab (BitVec 32) → List Nat × Tab (BitVec 32)
  | 0, _, vg => vg
  | k + 1, l, vg => scanTree f sr lane n k (l + 1) (scanLevel f sr lane (2 ^ l) vg.1 (n - 2 ^ l) (2 ^ l) vg)

/-- Element 0 of a scan is a result that no step has rounded: its NaN is canonical (02 R24) and SAT keeps it finite (02 R31)
(DEDUCED, log 101). -/
def passElem (ty : Nat) (sat : Bool) (n : Nat) : Nat :=
  match fmtOf ty with
  | some t => t.round .rne sat 0 (t.val n)
  | none => n

/-- `vred` and `vscan` (R155, R156). -/
def reduceOp (s : State) (o : VOp) (op : Nat) (scan : Bool) (d a : Opd) : Out :=
  onlyX s fun t =>
    claim s t (opdRegs a) (opdRegs d) fun t =>
      let ty := o.ty.toNat
      let w := widthOf ty
      let n := 1024 / w
      let (x, f1) := (Fetch.start t).source s.cc w a
      let (dst, f2) := f1.dest d
      f2.done s fun t =>
        let md := t.rmode o.rnd
        let g := t.mask o.mask
        let sr := md == .sr && op == 0 && (fmtOf ty).isSome
        let lane j := w * j / 16
        let v0 := (List.range n).map fun e =>
          if activeAt w g e then x.elem ty md o.sat (t.serve w e) e else redIdent ty op
        let f := redOp ty op md o.sat
        let k := if n = 64 then 6 else 5
        let (r, gs) := if scan then scanTree f sr lane n k 0 (v0, t.xs.gens) else redTree f sr lane k 0 (v0, t.xs.gens)
        let v := if scan then setAt r 0 (passElem ty o.sat (r.getD 0 0)) else r
        let t1 := t.onX fun x => { x with gens := gs }
        let m := elemMask w fun e => if scan then activeAt w g e else decide (e = 0)
        finishX s (t1.launchX 7 (dst.kind w (rowOf w v) m))

/-- VRED (R155). -/
def execVred (o : VOp) (op : BitVec 2) (d a : Opd) (s : State) : Out := reduceOp s o op.toNat false d a

/-- VSCAN (R156). -/
def execVscan (o : VOp) (op : BitVec 2) (d a : Opd) (s : State) : Out := reduceOp s o op.toNat true d a

/-! ### Histogram, broadcast, iota, permute (R157-R160) -/

/-- VHIST (R157). -/
def execVhist (o : VOp) (m x : BitVec 6) (a : Opd) (sh : BitVec 4) (s : State) : Out :=
  onlyX s fun t =>
    claim s t (m.toNat :: opdRegs a) [m.toNat] fun t =>
      let (v, f1) := (Fetch.start t).source s.cc 16 a
      f1.done s fun t =>
        match t.slotOf m.toNat with
        | none => ill s 0x22
        | some k =>
          let g := t.mask o.mask
          let keys := (List.range 64).filterMap fun e =>
            if g.getLsbD e then some (v.elem 9 .rne o.sat 0 e / 2 ^ sh.toNat % 256) else none
          let row i := rowOf 16 ((List.range 64).map fun c =>
            let n := elemAt 16 (t.mrow k (x.toNat + i)) c + (keys.filter fun b => b == 64 * i + c).length
            if o.sat then min n 65535 else n)
          let rows := (List.range 4).map fun i => (x.toNat + i, row i, BitVec.allOnes 1024)
          finishX s (t.launchX 5 (.cells k rows))

/-- VBCAST (R158). -/
def execVbcast (o : VOp) (d a : Opd) (i : BIdx) (s : State) : Out :=
  onlyX s fun t =>
    let ty := o.ty.toNat
    let w := widthOf ty
    claim s t (opdRegs a) (opdRegs d) fun t =>
      let (x, f1) := (Fetch.start t).source s.cc w a
      let (dst, f2) := f1.dest d
      f2.done s fun t =>
        let idx := match i with
          | .imm v => v.toNat
          | .sreg r => (t.rd .x r).toNat % 64 % (1024 / w)
        let g := t.mask o.mask
        let v := rowOf w (List.replicate (1024 / w) (x.elem ty .rne o.sat 0 idx))
        finishX s (t.launchX 2 (dst.kind w v (elemMask w (activeAt w g))))

/-- VIOTA (R159). -/
def execViota (o : VOp) (d : Opd) (b : IBase) (s : State) : Out :=
  lanewiseT s o 2 false false true d .zero .zero fun t e _ sat _ _ _ _ =>
    let i := ityOf o.ty.toNat
    let base := match b with
      | .sreg r => i.val ((t.rd .x r).toNat % 2 ^ i.w)
      | .zero => 0
    i.code sat (base + e)

/-- VPERM (R160). -/
def execVperm (o : VOp) (d a b : Opd) (s : State) : Out :=
  onlyX s fun t =>
    let ty := o.ty.toNat
    let w := widthOf ty
    claim s t (opdRegs a ++ opdRegs b) (opdRegs d) fun t =>
      let (x, y, f1) := (Fetch.start t).sources s.cc w a b
      let (dst, f2) := f1.dest d
      f2.done s fun t =>
        let n := 1024 / w
        let g := t.mask o.mask
        let v := rowOf w ((List.range n).map fun e => x.elem ty .rne o.sat 0 (y.elem ty .rne o.sat 0 e % n))
        finishX s (t.launchX 4 (dst.kind w v (elemMask w (activeAt w g))))

/-! ### Lane generators (R161) -/

/-- Every lane generator seeded (02 R36, 06 R161). -/
def seedLanes (v : BitVec 32) (g : Tab (BitVec 32)) : Tab (BitVec 32) :=
  (List.range 64).foldl (fun gs i => tset 0 gs i (laneSeed v i)) g

/-- A `vseed` of the issue cycle performs: the new states serve from the next issue cycle on (R161). -/
def Task.seed (t : Task) : Task :=
  match t.xs.seeds with
  | none => t
  | some v => t.onX fun x => { x with gens := seedLanes v x.gens, seeds := none }

/-- VSEED (R161): it performs when its issue cycle ends (04 R100), so words of its own group use and step the old states. -/
def execVseed (_o : VOp) (a : Reg) (s : State) : Out :=
  onlyX s fun t => finishX s (t.onX fun x => { x with seeds := some ((t.rd .x a).setWidth 32) })

/-- VRAND (R161). -/
def execVrand (o : VOp) (d : Opd) (s : State) : Out :=
  onlyX s fun t =>
    claim s t [] (opdRegs d) fun t =>
      let w := widthOf o.ty.toNat
      let (dst, f1) := (Fetch.start t).dest d
      f1.done s fun t =>
        let g := t.mask o.mask
        let t1 := t.stepLanes g
        let v := rowOf w ((List.range (1024 / w)).map fun e =>
          if w = 32 then (t1.gen (2 * e)).toNat else (t1.gen e).toNat / 2 ^ 16)
        finishX s (t1.launchX 1 (dst.kind w v (elemMask w (activeAt w g))))

/-! ### Classify and order (R162, R163) -/

/-- The class bit of a floating-point code (R162). -/
def classBit (t : Fmt) (n : Nat) : Nat :=
  match t.val n with
  | .nan => if n.testBit (t.f - 1) then 1 else 0
  | .inf s => if s then 2 else 9
  | .fin s m _ =>
    if m = 0 then (if s then 5 else 6)
    else if m < 2 ^ t.f then (if s then 4 else 7)
    else if s then 3 else 8

/-- VCLASS (R162). -/
def execVclass (o : VOp) (d a : Opd) (s : State) : Out :=
  lanewise s o 2 false false true d a .zero fun _ _ _ _ x _ _ =>
    match fmtOf o.ty.toNat with
    | some t => 2 ^ classBit t x
    | none => 0

/-- The order key of an element, or its inverse (R163). -/
def orderKey (ty : Nat) (inv : Bool) (x : Nat) : Nat :=
  let w := widthOf ty
  let sb := 2 ^ (w - 1)
  if (fmtOf ty).isNone then x ^^^ sb
  else if inv then (if x.testBit (w - 1) then x ^^^ sb else 2 ^ w - 1 - x)
  else if x.testBit (w - 1) then 2 ^ w - 1 - x else x ^^^ sb

/-- VORDER (R163). -/
def execVorder (o : VOp) (inv : Bool) (d a : Opd) (s : State) : Out :=
  lanewise s o 2 false false true d a .zero fun _ _ _ _ x _ _ => orderKey o.ty.toNat inv x

/-! ### Register moves and rearrangements (R164-R167) -/

/-- MMOV (R164). -/
def execMmov (o : VOp) (d a : Opd) (s : State) : Out :=
  lanewise s o 2 false false true d a .zero fun _ _ _ _ x _ _ => x

/-- MZERO (R165). -/
def execMzero (_o : VOp) (m : BitVec 6) (s : State) : Out :=
  onlyX s fun t =>
    claim s t [] [m.toNat] fun t =>
      match t.slotOf m.toNat with
      | none => ill s 0x22
      | some k => finishX s (t.launchX 2 (.cells k ((List.range 64).map fun i => (i, 0, BitVec.allOnes 1024))))

/-- MXPOSE (R166). -/
def execMxpose (o : VOp) (d a : BitVec 6) (s : State) : Out :=
  onlyX s fun t =>
    claim s t [a.toNat] [d.toNat] fun t =>
      match t.slotOf d.toNat, t.slotOf a.toNat with
      | some k, some j =>
        let row i :=
          if widthOf o.ty.toNat = 32 then
            rowOf 32 ((List.range 32).map fun e => elemAt 32 (t.mrow j (32 * (i / 32) + e)) (i % 32))
          else rowOf 16 ((List.range 64).map fun c => elemAt 16 (t.mrow j c) i)
        finishX s (t.launchX 16 (.cells k ((List.range 64).map fun i => (i, row i, BitVec.allOnes 1024))))
      | _, _ => ill s 0x22

/-- MSHUF (R167). -/
def execMshuf (o : VOp) (d a : BitVec 6) (b : Opd) (s : State) : Out :=
  onlyX s fun t =>
    claim s t (a.toNat :: opdRegs b) [d.toNat] fun t =>
      let (x, f1) := (Fetch.start t).source s.cc 16 b
      f1.done s fun t =>
        match t.slotOf d.toNat, t.slotOf a.toNat with
        | some k, some j =>
          let g := t.mask o.mask
          let rows := (List.range 64).filterMap fun i =>
            if g.getLsbD i then
              let c := x.elem 9 .rne o.sat 0 i
              some (i, (if c.testBit 15 then 0 else t.mrow j (c % 64)), BitVec.allOnes 1024)
            else none
          finishX s (t.launchX 8 (.cells k rows))
        | _, _ => ill s 0x22

end Sys2Proof.Machine
end

