-- ==== Sys2Proof/Machine/MatrixEngine.lean ====
section
/-! DEFINITION. The matrix engine and the accumulators (07): the M-class instructions, the pops of `mma` and `mmag`, the
updates of tiles when results perform, and the results of every flight at its age (04 R100). -/

namespace Sys2Proof.Machine

/-! ### Tiles -/

/-- The cells of a tile row as 64 codes. -/
def Task.cells (t : Task) (tile i : Nat) : List Nat :=
  let r := (tget 0 t.acc (tile * 128 + i)).toNat
  (List.range 64).map fun j => r / 2 ^ (32 * j) % 2 ^ 32

/-- A tile row written from 64 codes. -/
def Task.putCells (t : Task) (tile i : Nat) (l : List Nat) : Task :=
  { t with acc := tset 0 t.acc (tile * 128 + i) (BitVec.ofNat 2048 (rowNat 32 l)) }

/-- ROWMAX of a row (03 R70). -/
def Task.rmax (t : Task) (tile i : Nat) : Nat := (tget 0xFF800000 t.rowmax (tile * 128 + i)).toNat

/-- ROWSUM of a row (03 R70). -/
def Task.rsum (t : Task) (tile i : Nat) : Nat := (tget 0 t.rowsum (tile * 128 + i)).toNat

/-- Sets ROWMAX of a row. -/
def Task.putMax (t : Task) (tile i v : Nat) : Task :=
  { t with rowmax := tset 0xFF800000 t.rowmax (tile * 128 + i) (BitVec.ofNat 32 v) }

/-- Sets ROWSUM of a row. -/
def Task.putSum (t : Task) (tile i v : Nat) : Task :=
  { t with rowsum := tset 0 t.rowsum (tile * 128 + i) (BitVec.ofNat 32 v) }

/-- A change made for rows 0 to 127. -/
def eachRow (t : Task) (f : Task → Nat → Task) : Task := (List.range 128).foldl f t

/-- One FP32 RNE rounding of a value, as a code. -/
def rne32 (v : Val) : Nat := fp32.round .rne false 0 v

/-- The tree sum of 64 FP32 codes (02 R43). -/
def treeSum (l : List Nat) : Nat :=
  ((redTree (fun _ a b => rne32 ((fp32.val a).add .rne (fp32.val b))) false (fun j => j) 6 0 (l, [])).1).getD 0 0

/-- The exact quotient of finite values, the denominator not zero, rounded once to FP32 RNE: the quotient's bits under 32
more than the denominator has, with a sticky bit (R193). -/
def quotient (s : Bool) (m : Nat) (e : Int) (n : Nat) (f : Int) : Nat :=
  let k := Nat.log2 n + 40
  let q := m * 2 ^ k / n
  let st := if m * 2 ^ k % n = 0 then 0 else 1
  rne32 (.fin s (2 * q + st) (e - f - k - 1))

/-- An `anorm` cell (R193). -/
def normCell (o d : Val) : Nat :=
  match o, d with
  | _, .nan => fp32.nanCode
  | .nan, .fin _ n _ => if n = 0 then 0 else fp32.nanCode
  | .nan, .inf _ => fp32.nanCode
  | .inf _, .inf _ => fp32.nanCode
  | .inf s, .fin r n _ => if n = 0 then 0 else fp32.infCode false (s != r)
  | .fin s _ _, .inf r => fp32.signed (s != r) 0
  | .fin s m e, .fin r n f => if n = 0 then 0 else if m = 0 then fp32.signed (s != r) 0 else quotient (s != r) m e n f

/-! ### Accumulator operations that perform at one offset (R185, R188-R193) -/

/-- FP32 element `k` of a run of matrix register rows. -/
def runElem (rows : List Row) (k : Nat) : Nat := elemAt 32 (rows.getD (k / 32) 0) (k % 32)

/-- One row of `asmx` (R191). -/
def softmaxRow (c : Val) (s o i : Nat) (t : Task) : Task :=
  let mOld := t.rmax o i
  let x := (t.cells s i).map fun v => rne32 ((fp32.val v).mul c)
  let mNew := x.foldl (fun m v => rne32 ((fp32.val m).max (fp32.val v))) mOld
  let ninf := fp32.infCode false true
  let ex (a b : Nat) : Nat := rne32 (exp2Val (fp32.val (rne32 ((fp32.val a).add .rne (fp32.val b).neg))))
  let p := x.map fun v =>
    if (fp32.val v).isNan then fp32.nanCode
    else if mNew = ninf then 0
    else if (fp32.val v).eq (fp32.val mNew) then 0x3F800000
    else ex v mNew
  let f := if mNew = ninf || (fp32.val mOld).eq (fp32.val mNew) then 0x3F800000 else ex mOld mNew
  let rs := treeSum p
  let sum := rne32 ((fp32.val (rne32 ((fp32.val (t.rsum o i)).mul (fp32.val f)))).add .rne (fp32.val rs))
  ((((t.putSum o i sum).putMax o i mNew).putMax s i mOld).putSum s i f).putCells s i p

/-- An operation performs (R185, R188-R193). -/
def Task.performAcc (t : Task) (op : AccOp) : Task :=
  match op with
  | .azero a md =>
    eachRow t fun t i =>
      let t1 := if md = .side then t else t.putCells a i (List.replicate 64 0)
      if md = .cells then t1 else (t1.putMax a i 0xFF800000).putSum a i 0
  | .amov d s md =>
    eachRow t fun t i =>
      let t1 := if md = .side then t else t.putCells d i (t.cells s i)
      if md = .cells then t1 else (t1.putMax d i (t.rmax s i)).putSum d i (t.rsum s i)
  | .abias a row rows =>
    eachRow t fun t i => t.putCells a i ((t.cells a i).zipIdx.map fun c =>
      rne32 ((fp32.val c.1).add .rne (fp32.val (runElem rows (if row then i else c.2)))))
  | .ascale a v => eachRow t fun t i => t.putCells a i ((t.cells a i).map fun c => rne32 ((fp32.val c).mul (fp32.val v.toNat)))
  | .ascaleCol a rows =>
    eachRow t fun t i => t.putCells a i ((t.cells a i).zipIdx.map fun c =>
      rne32 ((fp32.val c.1).mul (fp32.val (runElem rows c.2))))
  | .arsc o f => eachRow t fun t i => t.putCells o i ((t.cells o i).map fun c => rne32 ((fp32.val c).mul (fp32.val (t.rsum f i))))
  | .anorm o d => eachRow t fun t i => t.putCells o i ((t.cells o i).map fun c => normCell (fp32.val c) (fp32.val (t.rsum d i)))
  | .astat x s abs =>
    eachRow t fun t i =>
      let l := (t.cells s i).map fun c => if abs then rne32 (fp32.val c).abs else c
      let mx := match l with
        | [] => 0
        | c :: r => r.foldl (fun m v => rne32 ((fp32.val m).max (fp32.val v))) (rne32 (fp32.val c))
      let sq := if abs then (t.cells s i).map fun c => rne32 ((fp32.val c).mul (fp32.val c)) else t.cells s i
      (t.putMax x i mx).putSum x i (treeSum sq)
  | .asmx s o c => eachRow t fun t i => softmaxRow (fp16.val c.toNat) s o i t

/-! ### `aread` and `awrite` (R186, R187) -/

/-- The state that serves element `e` of width `w` among the 64 lane states of a row (02 R38). -/
def serveIn (lanes : List (BitVec 32)) (w e : Nat) : BitVec 32 :=
  let x := lanes.getD (w * e / 16) 0
  match w with
  | 8 => x.rotateLeft (16 * (e % 2))
  | _ => x

/-- A tile code converted to the output type (R186). -/
def fromTile (ty : Nat) (md : Mode) (sat : Bool) (x : BitVec 32) (n : Nat) : Nat :=
  match fmtOf ty with
  | some f => f.round md sat x (fp32.val n)
  | none => (ityOf ty).code sat ((ITy.mk 32 true).val n)

/-- The register row, with its cell mask, that row `j` of an `aread` gives (R186). -/
def Task.areadRow (t : Task) (tile j : Nat) (r : ARow) (md : Mode) (lanes : List (BitVec 32)) : Row × Row :=
  let ty := r.ety.toNat
  let h := if r.h then 1 else 0
  if r.side then
    let v := (List.range 32).map fun e =>
      fp32.round md r.sat (serveIn lanes 32 e) (fp32.val (if r.h then t.rsum tile (32 * j + e) else t.rmax tile (32 * j + e)))
    (rowOf 32 v, BitVec.allOnes 1024)
  else
    let w := widthOf ty
    let src := t.cells tile (r.f.toNat + j)
    match w with
    | 32 => (rowOf 32 ((List.range 32).map fun e => fromTile ty md r.sat (serveIn lanes 32 e) (src.getD (32 * h + e) 0)),
             BitVec.allOnes 1024)
    | 16 => (rowOf 16 ((List.range 64).map fun e => fromTile ty md r.sat (serveIn lanes 16 e) (src.getD e 0)),
             BitVec.allOnes 1024)
    | _ => (rowOf 8 ((List.range 128).map fun e =>
              if e / 64 = h then fromTile ty md r.sat (serveIn lanes 8 e) (src.getD (e % 64) 0) else 0),
            elemMask 8 fun e => decide (e / 64 = h))

/-- A register element widened to a tile code (R187). -/
def toTile (ty n : Nat) : Nat :=
  match fmtOf ty with
  | some f => rne32 (f.val n)
  | none => (ITy.mk 32 true).code false ((ityOf ty).val n)

/-- Row `j` of an `awrite` performs (R187). -/
def Task.awriteRow (t : Task) (tile j : Nat) (r : ARow) (v : Row) : Task :=
  let ty := r.ety.toNat
  let h := if r.h then 1 else 0
  if r.side then
    (List.range 32).foldl (fun t e =>
      let c := toTile 0 (elemAt 32 v e)
      if r.h then t.putSum tile (32 * j + e) c else t.putMax tile (32 * j + e) c) t
  else
    let i := r.f.toNat + j
    let old := t.cells tile i
    match widthOf ty with
    | 32 => t.putCells tile i (old.zipIdx.map fun c => if c.2 / 32 = h then toTile ty (elemAt 32 v (c.2 % 32)) else c.1)
    | 16 => t.putCells tile i ((List.range 64).map fun c => toTile ty (elemAt 16 v c))
    | _ => t.putCells tile i ((List.range 64).map fun c => toTile ty (elemAt 8 v (64 * h + c)))

/-! ### Products (02 R39-R41, 07 R171-R182) -/

/-- Twice the cycles per k-step (04 R101). -/
def w2Of (ety : Nat) : Nat :=
  match ety with
  | 0 => 32
  | 1 | 2 => 4
  | 5 | 13 => 1
  | _ => 2

/-- Bits of an element of an ETYPE. -/
def etyBits (ety : Nat) : Nat := widthOf ety

/-- PA pops of a chunk (R171). -/
def popsA (ety : Nat) : Nat := 2 * etyBits ety

/-- PB pops of a chunk (R171). -/
def popsB (ety : Nat) : Nat := etyBits ety

/-- Issue cycles between PA pops (R171); PB pops are twice as far apart. -/
def popStep (ety : Nat) : Nat := if ety = 0 then 4 else 1

/-- Whether an ETYPE spans two chunks in a summation group (R39, R101). -/
def twoChunk (ety : Nat) : Bool := ety == 5 || ety == 13

/-- The value of an element code of an ETYPE, its scale beside it (02 R28, R39). -/
def etyVal (ety scale n : Nat) : Val :=
  match fmtOf ety with
  | some f => f.val n
  | none => if 12 ≤ ety then (mxOf ety).val scale n else Val.ofInt ((ityOf ety).val n)

/-- Element `n` of the rows popped for a chunk, taken in pop order. -/
def popElem (w : Nat) (rows : List Row) (n : Nat) : Nat := elemAt w (rows.getD (n / (1024 / w)) 0) (n % (1024 / w))

/-- The rows that a job popped for chunk `c`. -/
def MmaJob.popped (j : MmaJob) (isB : Bool) (blk c : Nat) : List Row :=
  let per := if isB then popsB j.args.ety.toNat else popsA j.args.ety.toNat
  ((List.range per).map fun k =>
    match j.pops.find? fun p => p.isB == isB && p.blk == blk && p.idx == c * per + k with
    | some p => p.data
    | none => 0)

/-- The block whose B rows a row block uses: 0 outside `mmag`, else the first block with the same BASE (R182). -/
def MmaJob.blockOf (j : MmaJob) (r : Nat) : Nat :=
  if j.grouped then ((List.range 8).find? fun k => j.adapters.getD k none == j.adapters.getD r none).getD r else 0

/-- A(i, 16c + κ) for a chunk (R171, R178, R179). -/
def MmaJob.aVals (j : MmaJob) (c i : Nat) : List Val :=
  let ety := j.args.ety.toNat
  let w := etyBits ety
  if j.args.ta then
    let col := tget [] j.acols c
    (List.range 16).map fun k => etyVal ety 127 ((col.getD (16 * i + k) 0).toNat)
  else
    let rows := j.popped false 0 c
    let sc := elemAt 8 (j.scaleA.getD (c / 2) 0) i
    (List.range 16).map fun k => etyVal ety sc (popElem w rows (128 * k + i))

/-- B(16c + κ, j) for a chunk, of a row block (R171, R179, R182). -/
def MmaJob.bVals (j : MmaJob) (blk c col : Nat) : List Val :=
  let ety := j.args.ety.toNat
  let w := etyBits ety
  let rows := j.popped true blk c
  let sc := elemAt 8 (j.scaleB.getD (c / 2) 0) col
  (List.range 16).map fun k => etyVal ety sc (popElem w rows (64 * k + col))

/-- The sum of a group's products: exact, or the special value (02 R39); an exact zero sum is +0. -/
def dotVal : List (Val × Val) → Val
  | [] => .fin false 0 0
  | (a, b) :: r =>
    match a.mul b, dotVal r with
    | .nan, _ => .nan
    | _, .nan => .nan
    | .inf s, .inf q => if s = q then .inf s else .nan
    | .inf s, .fin _ _ _ => .inf s
    | .fin _ _ _, .inf q => .inf q
    | .fin s m e, .fin q n f =>
      let v := (Val.fin s m e).add .rne (.fin q n f)
      if v.isZero then .fin false 0 0 else v

/-- The exact integer of a finite value without fraction (02 R40). -/
def Val.int : Val → Int
  | .fin s m e => scaled s m e 0
  | _ => 0

/-- A cell after a group's update (02 R39, R40). -/
def accumulate (ety : Nat) (acc : Nat) (ps : List (Val × Val)) : Nat :=
  if (fmtOf ety).isNone && ety < 12 then
    (ITy.mk 32 false).code false ((acc : Int) + (ps.foldl (fun (s : Int) p => s + (p.1.mul p.2).int) 0))
  else rne32 ((fp32.val acc).add .rne (dotVal ps))

/-- The largest magnitude of a list; none when a NaN or an infinity stands in it (R180). -/
def finiteMax (l : List Val) : Option Val :=
  if l.any (fun v => match v with | .fin _ _ _ => false | _ => true) then none else some (amax l)

/-- Whether the products of a block of 16 rows and a chunk are skipped (R180). -/
def skipBlock (skip : Option Int) (as bs : List Val) : Bool :=
  match skip, finiteMax as, finiteMax bs with
  | some e, some a, some b => (a.mul b).lt (.fin false 1 e)
  | _, _, _ => false

/-- The update of a tile by the chunks of one summation group (R177, R182). -/
def Task.mmaUpdate (t : Task) (j : MmaJob) (chunks : List Nat) : Task :=
  let ety := j.args.ety.toNat
  let tile := j.args.acc.toNat
  (List.range 8).foldl (fun t blk =>
    let off := j.grouped && (j.adapters.getD blk none).isNone
    if off then t
    else
      let b := j.blockOf blk
      let parts := chunks.map fun c =>
        let as := (List.range 16).map fun r => j.aVals c (16 * blk + r)
        let bs := (List.range 64).map fun col => j.bVals b c col
        (as, bs, skipBlock j.skip as.flatten bs.flatten)
      (List.range 16).foldl (fun t r =>
        let i := 16 * blk + r
        t.putCells tile i ((t.cells tile i).zipIdx.map fun cell =>
          let ps := parts.flatMap fun p =>
            if p.2.2 then [] else (p.1.getD r []).zip (p.2.1.getD cell.2 [])
          accumulate ety cell.1 ps)) t) t

/-- The chunks of an `mma` whose update performs at an age (04 R100, R101): chunk c at 16w(c + 1) + 6; none for the first
chunk of a pair. -/
def MmaJob.due (j : MmaJob) (age : Nat) : Option (List Nat) :=
  let ety := j.args.ety.toNat
  let len := 8 * w2Of ety
  if age < 6 + len || (age - 6) % len ≠ 0 then none
  else
    let c := (age - 6) / len - 1
    if j.args.kch.toNat < c then none
    else if (match j.dead with | some d => decide (d ≤ c) | none => false) then none
    else if twoChunk ety then (if c % 2 = 1 then some [c - 1, c] else none)
    else some [c]

/-- The job without the pops of chunks up to `c`, whose rows are no longer reserved (R174). -/
def MmaJob.release (j : MmaJob) (c : Nat) : MmaJob :=
  let ety := j.args.ety.toNat
  { j with
    pops := j.pops.filter fun p => decide (c < p.idx / (if p.isB then popsB ety else popsA ety))
    acols := j.acols.filter fun e => decide (c < e.1)
    startA := j.startA.filter fun e => decide (c < e.1)
    startB := j.startB.filter fun e => decide (c < e.1) }

/-- The distinct enabled adapter blocks: the first block of each BASE (R182). -/
def MmaJob.baseBlocks (j : MmaJob) : List (Nat × Nat) :=
  (List.range 8).filterMap fun r =>
    match j.adapters.getD r none with
    | none => none
    | some b => if j.blockOf r = r then some (r, b) else none

/-- Chunks performed by an age: c* at a stop boundary whose coming issue cycle has the next age (R183). -/
def MmaJob.performed (j : MmaJob) (age : Nat) : Nat :=
  let ety := j.args.ety.toNat
  let c := min (if age < 6 then 0 else (age - 6) / (8 * w2Of ety)) (j.args.kch.toNat + 1)
  if twoChunk ety then c / 2 * 2 else c

/-- The cc for which the engine repeats the accesses of an interrupted instruction from chunk c* to the stop boundary, the X-strand
frozen (R183; the count is DEDUCED, log 110). -/
def Flight.replayCc (f : Flight) : Nat :=
  match f.kind with
  | .mma j => if j.performed f.age ≤ j.args.kch.toNat then f.age + 1 - 8 * w2Of j.args.ety.toNat * j.performed f.age else 0
  | _ => 0

/-- The walk position of a port before the first pop of chunk `c`: that of now where the pop has not been made (R183). -/
def MmaJob.startOf (j : MmaJob) (t : Task) (isB : Bool) (c : Nat) : Port :=
  if isB then (tfind j.startB c).getD (t.port j.args.pb.toNat) else (tfind j.startA c).getD (t.port j.args.pa.toNat)

/-- The pops of the chunks from c* on repeated: each reads its own row again, whichever set its port had then. No tag is tested or changed,
and no bank condition arises (R174, R183). -/
def MmaJob.repop (j : MmaJob) (t : Task) : MmaJob := { j with pops := j.pops.map fun p => { p with data := (t.row p.row).data } }

/-- The pops of every interrupted `mma` and `mmag` repeated (R183). -/
def Task.repop (t : Task) : Task :=
  t.onX fun x => { x with flights := x.flights.map fun f =>
    match f.kind with | .mma j => { f with kind := .mma (j.repop t) } | _ => f }

/-- The freeze with which an X-strand that was interrupted runs on, while the engine repeats its pops (R183). -/
def Task.replay (t : Task) : Task :=
  let n := t.xs.flights.foldl (fun n f => max n f.replayCc) 0
  t.repop.onX fun x => { x with freeze := max x.freeze n }

/-! ### Results of flights at their age -/

/-- What a flight performs in the issue cycle of its age (04 R100, 07 R169, 08 R217). -/
def Task.performAt (t : Task) (f : Flight) : Task :=
  match f.kind with
  | .mld slot d _ _ m _ rows =>
    match rows.find? fun e => 2 * (e.1 + 1) = f.age with
    | some (j, v) => t.writeCells slot (d + j) v m
    | none => t
  | .mst _ m _ _ rows =>
    match rows.find? fun e => 2 * (e.1 + 1) = f.age with
    | some (_, v, r) => t.storeRow v r m
    | none => t
  | .aread slot tile r md gens =>
    if 6 ≤ f.age then
      let j := f.age - 6
      let (v, m) := t.areadRow tile j r (modeOf md.toNat) (gens.getD j [])
      t.writeCells slot (r.d.toNat + j) v m
    else t
  | .awrite tile r rows => if 5 ≤ f.age then t.awriteRow tile (f.age - 5) r (rows.getD (f.age - 5) 0) else t
  | .acc op => if f.age = f.lat then t.performAcc op else t
  | .mma j => match j.due f.age with | some cs => t.mmaUpdate j cs | none => t
  | k => if f.age = f.lat then t.performPlain k else t

/-- A flight once its results of this issue cycle have performed: rows no longer reserved leave it. -/
def Flight.after (f : Flight) : Flight :=
  match f.kind with
  | .mst p m todo made rows => { f with kind := .mst p m todo made (rows.filter fun e => decide (f.age < 2 * (e.1 + 1))) }
  | .mld slot d p r m made rows =>
    { f with kind := .mld slot d p r m made (rows.filter fun e => decide (f.age < 2 * (e.1 + 1))) }
  | .mma j => match j.due f.age with | some cs => { f with kind := .mma (j.release (cs.getLastD 0)) } | none => f
  | _ => f

/-- The begin of an issue cycle: every flight is one cycle older, the results due perform in issue order, finished flights
leave, the hold of the array and the empty cycles count down. -/
def Task.beginCycle (t : Task) : Task :=
  let fs := t.xs.flights.map fun f => { f with age := f.age + 1 }
  let t1 := t.onX fun x => { x with ic := x.ic + 1, array := x.array - 1, touch := [], flights := fs }
  let t2 := fs.foldl Task.performAt t1
  t2.onX fun x => { x with flights := (fs.map Flight.after).filter fun f => decide (f.age < f.lat) }

/-- Whether a flight stands in the engine record. -/
def FKind.engine : FKind → Bool
  | .mld _ _ _ _ _ _ _ => true
  | .mst _ _ _ _ _ => true
  | .aread _ _ _ _ _ => true
  | .awrite _ _ _ => true
  | .acc _ => true
  | .mma _ => true
  | _ => false

/-- The writes whose perform cycle is the coming issue cycle perform and leave (R412, R413); engine results stay. -/
def Task.reachStop (t : Task) : Task :=
  let due (f : Flight) : Nat := f.age + 1
  let step (t : Task) (f : Flight) : Task :=
    match f.kind with
    | .mld _ _ _ _ _ _ _ => t.performAt { f with age := due f }
    | .mst _ _ _ _ _ => t.performAt { f with age := due f }
    | k => if !k.engine && f.lat ≤ due f then t.performPlain k else t
  let left (f : Flight) : Option Flight :=
    match f.kind with
    | .mld slot d p r m made rows => some { f with kind := .mld slot d p r m made (rows.filter fun e => decide (due f < 2 * (e.1 + 1))) }
    | .mst p m todo made rows => some { f with kind := .mst p m todo made (rows.filter fun e => decide (due f < 2 * (e.1 + 1))) }
    | k => if !k.engine && f.lat ≤ due f then none else some f
  let t1 := t.xs.flights.foldl step t
  t1.onX fun x => { x with flights := x.flights.filterMap left }

/-! ### Deferred accesses (R171, R172, 08 R217) -/

/-- What a try of a flight's next accesses gives: the flight, the fetch, and whether one due could not be made. -/
abbrev Try := Flight × Fetch × Bool

/-- The fetch after a try that could not be made: nothing of it stands but the ports waited on and a QUEUE. -/
def Fetch.owe (f f1 : Fetch) : Fetch := { f with ports := f1.ports, quit := f1.quit }

/-- The pops of `mld` due by `age`; `n` bounds the tries. -/
def tryMld (pc : Word) (ic : Nat) (age slot d port r : Nat) (m : Row) :
    Nat → Nat → List (Nat × Row) → Fetch → FKind × Fetch × Bool
  | 0, made, rows, f => (.mld slot d port r m made rows, f, false)
  | n + 1, made, rows, f =>
    if r ≤ made || age < 2 * made then (.mld slot d port r m made rows, f, false)
    else
      let (_, v, f1) := f.pop port ic pc 0
      if f1.wait then (.mld slot d port r m made rows, f.owe f1, true)
      else tryMld pc ic age slot d port r m n (made + 1) (rows ++ [(made, v)]) f1

/-- The writes of `mst` due by `age`. -/
def tryMst (pc : Word) (ic : Nat) (age port : Nat) (m : Row) :
    Nat → List Row → Nat → List (Nat × Nat × Row) → Fetch → FKind × Fetch × Bool
  | 0, todo, made, rows, f => (.mst port m todo made rows, f, false)
  | n + 1, todo, made, rows, f =>
    match todo with
    | [] => (.mst port m todo made rows, f, false)
    | v :: rest =>
      if age < 2 * made then (.mst port m todo made rows, f, false)
      else
        let (r, f1) := f.take port ic pc
        if f1.wait then (.mst port m todo made rows, f.owe f1, true)
        else tryMst pc ic age port m n rest (made + 1) (rows ++ [(made, r, v)]) f1

/-- The PA pops of an `mma` due by `age` (R171). -/
def tryPa (pc : Word) (ic : Nat) (age : Nat) : Nat → MmaJob → Fetch → MmaJob × Fetch × Bool
  | 0, j, f => (j, f, false)
  | n + 1, j, f =>
    let ety := j.args.ety.toNat
    if j.args.ta || (j.args.kch.toNat + 1) * popsA ety ≤ j.madeA || age < popStep ety * j.madeA || j.dead.isSome then
      (j, f, false)
    else
      let (v, r, f1) := f.pop j.args.pa.toNat ic pc 1
      if f1.wait then (j, f.owe f1, true)
      else
        let p : Pop := { isB := false, idx := j.madeA, blk := 0, row := v, data := r }
        let st := if j.madeA % popsA ety = 0 then tins j.startA (j.madeA / popsA ety) (f.t.port j.args.pa.toNat) else j.startA
        tryPa pc ic age n { j with madeA := j.madeA + 1, pops := j.pops ++ [p], startA := st } f1

/-- One row of an `mmag` pop slot, at another base (R182). -/
def Fetch.popAt (f : Fetch) (p base ic : Nat) (pc : Word) : Nat × Row × Fetch :=
  let q := f.t.port p
  match q.active with
  | none => (0, 0, f.idle p pc)
  | some ps =>
    match f.t.rowIn (q.rowAt ps base) with
    | none => (0, 0, f.raise 3 1 pc)
    | some v =>
      let r := f.t.row v
      let nowait := ps.w0.getLsbD 17
      let key := f.t.win.bankOf v
      let f1 := if key < 16 then f.raise 2 2 pc else f
      if !nowait && r.seen = .empty then (0, 0, f1.holdOn p)
      else
        let f2 := f1.touch key ic pc
        let f3 := if (if nowait then r.tag else r.seen) = .poison then f2.raise 5 1 pc else f2
        let f4 := if r.ue != 0 then f3.raise 5 3 pc else f3
        let t2 := if ps.w0.getLsbD 16 && r.tag = .full then f4.t.setTag v .empty else f4.t
        (v, r.data, { f4 with t := t2 })

/-- The rows of one PB pop slot of `mmag`, then the advance of PB's walk, for which a set must be armed though every block is
disabled (R182, 08 R206). -/
def popSlot (pc : Word) (ic idx port : Nat) : List (Nat × Nat) → List Pop → Fetch → List Pop × Fetch
  | [], ps, f =>
    let q := f.t.port port
    match q.active with
    | none => (ps, f.idle port pc)
    | some a => (ps, { f with t := f.t.putPort port (q.advance a) })
  | (blk, base) :: rest, ps, f =>
    let (v, r, f1) := f.popAt port base ic pc
    popSlot pc ic idx port rest (ps ++ [{ isB := true, idx := idx, blk := blk, row := v, data := r }]) f1

/-- The PB pops of an `mma` or `mmag` due by `age` (R171, R182). -/
def tryPb (pc : Word) (ic : Nat) (age : Nat) : Nat → MmaJob → Fetch → MmaJob × Fetch × Bool
  | 0, j, f => (j, f, false)
  | n + 1, j, f =>
    let ety := j.args.ety.toNat
    if (j.args.kch.toNat + 1) * popsB ety ≤ j.madeB || age < 2 * popStep ety * j.madeB || j.dead.isSome then (j, f, false)
    else
      let (ps, f1) :=
        if j.grouped then popSlot pc ic j.madeB j.args.pb.toNat j.baseBlocks [] f
        else
          let (v, r, f1) := f.pop j.args.pb.toNat ic pc 2
          ([{ isB := true, idx := j.madeB, blk := 0, row := v, data := r }], f1)
      if f1.wait then (j, f.owe f1, true)
      else
        let st := if j.madeB % popsB ety = 0 then tins j.startB (j.madeB / popsB ety) (f.t.port j.args.pb.toNat) else j.startB
        tryPb pc ic age n { j with madeB := j.madeB + 1, pops := j.pops ++ ps, startB := st } f1

/-- The columns of the A tile read in tile mode by `age` (R170, R178). -/
def Task.readCols (t : Task) (j : MmaJob) (age : Nat) : MmaJob :=
  let ety := j.args.ety.toNat
  if !j.args.ta then j
  else
    (List.range (j.args.kch.toNat + 1)).foldl (fun j c =>
      if age = 8 * w2Of ety * c then
        let col := (List.range 128).flatMap fun i =>
          let cs := t.cells j.args.aux.toNat i
          (List.range 16).map fun k => BitVec.ofNat 32 (convert ety 0 .rne true 0 (cs.getD (16 * c + k) 0))
        { j with acols := tins j.acols c col }
      else j) j

/-- A flight's accesses due `back` issue cycles ago or earlier (R172); columns of an A tile are read in their own issue
cycle. -/
def tryFlight (fl : Flight) (back : Nat) (f : Fetch) : Try :=
  let age := fl.age - back
  let ic := f.t.xs.ic - fl.age
  match fl.kind with
  | .mld slot d port r m made rows =>
    let (k, f1, late) := tryMld fl.pc ic age slot d port r m 130 made rows f
    ({ fl with kind := k }, f1, late)
  | .mst port m todo made rows =>
    let (k, f1, late) := tryMst fl.pc ic age port m 130 todo made rows f
    ({ fl with kind := k }, f1, late)
  | .mma j =>
    let j0 := if back = 0 then f.t.readCols j age else j
    let (j1, f1, l1) := tryPa fl.pc ic age 1100 j0 f
    let (j2, f2, l2) := tryPb fl.pc ic age 1100 j1 f1
    ({ fl with kind := .mma j2 }, f2, l1 || l2)
  | _ => (fl, f, false)

/-- The accesses of every flight in issue order; `back` 1 asks only for those that an earlier issue cycle already owed. -/
def tryAll (back : Nat) : List Flight → List Flight → Fetch → List Flight × Fetch × Bool
  | [], done, f => (done, f, false)
  | fl :: rest, done, f =>
    if fl.age < back then
      let (l, f1, b) := tryAll back rest (done ++ [fl]) f
      (l, f1, b)
    else
      let (fl1, f1, late) := tryFlight fl back f
      let (l, f2, b) := tryAll back rest (done ++ [fl1]) f1
      (l, f2, late || b)

/-! ### The M-class instructions (R168-R193) -/

/-- The tiles named lie in the accumulator window, else ILL 0x21 (R168); the array is free, else the group waits in empty
issue cycles (R169), unless the word freezes for another reason (04 R104). -/
def mclass (s : State) (tiles : List Nat) (hold : Nat) (k : Task → State) : Out :=
  onlyX s fun t =>
    if tiles.any fun a => decide (t.win.acSize ≤ a) then ill s 0x21
    else if 0 < t.xs.array then (k t).orWait s 2
    else k (t.onX fun x => { x with array := hold })

/-- AZERO (R185). -/
def execAzero (t : BitVec 6) (md : ZMode) (s : State) : Out :=
  mclass s [t.toNat] 2 fun k => finishX s (k.launchX 2 (.acc (.azero t.toNat md)))

/-- Lane states of r successive steps of every lane (R186). -/
def laneRuns : Nat → Tab (BitVec 32) → List (List (BitVec 32)) × Tab (BitVec 32)
  | 0, g => ([], g)
  | n + 1, g =>
    let g1 := (List.range 64).foldl (fun gs i => tset 0 gs i (laneStep (tget 0 gs i))) g
    let (l, g2) := laneRuns n g1
    (((List.range 64).map fun i => tget 0 g1 i) :: l, g2)

/-- Whether the row limits of R184, R186 and R187 are broken (ILL 0x44). -/
def arowBad (r : ARow) : Bool :=
  let n := r.rows.toNat + 1
  decide (128 < r.f.toNat + n) || decide (64 < r.d.toNat + n) ||
    (r.side && (r.f != 0 || n != 4)) || (!r.side && r.h && widthOf r.ety.toNat == 16)

/-- AREAD (R186). -/
def execAread (r : ARow) (s : State) : Out :=
  let n := r.rows.toNat + 1
  if arowBad r then onlyX s fun _ => ill s 0x44
  else
    mclass s [r.acc.toNat] (5 + n) fun t =>
      claim s t [] [r.m.toNat] fun t =>
        match t.slotOf r.m.toNat with
        | none => ill s 0x22
        | some k =>
          let md := t.rmode r.rnd
          let (runs, gs) := if md == .sr then laneRuns n t.xs.gens else ([], t.xs.gens)
          let t1 := t.onX fun x => { x with gens := gs }
          let code := if r.rnd = 6 then t.xs.rndm else r.rnd
          finishX s (t1.launchX (5 + n) (.aread k r.acc.toNat r code runs))

/-- AWRITE (R187). -/
def execAwrite (r : ARow) (s : State) : Out :=
  let n := r.rows.toNat + 1
  if arowBad r then onlyX s fun _ => ill s 0x44
  else
    mclass s [r.acc.toNat] (4 + n) fun t =>
      claim s t [r.m.toNat] [] fun t =>
        match t.slotOf r.m.toNat with
        | none => ill s 0x22
        | some k =>
          let rows := (List.range n).map fun j => t.mrow k (r.d.toNat + j)
          finishX s (t.launchX (4 + n) (.awrite r.acc.toNat r rows))

/-- ASMX (R191). -/
def execAsmx (sc o : BitVec 6) (c : BitVec 16) (s : State) : Out :=
  if sc = o then onlyX s fun _ => ill s 0x42
  else mclass s [sc.toNat, o.toNat] 12 fun t => finishX s (t.launchX 12 (.acc (.asmx sc.toNat o.toNat c)))

/-- ARSC (R192). -/
def execArsc (o f : BitVec 6) (s : State) : Out :=
  mclass s [o.toNat, f.toNat] 4 fun t => finishX s (t.launchX 4 (.acc (.arsc o.toNat f.toNat)))

/-- ANORM (R193). -/
def execAnorm (o d : BitVec 6) (s : State) : Out :=
  mclass s [o.toNat, d.toNat] 10 fun t => finishX s (t.launchX 10 (.acc (.anorm o.toNat d.toNat)))

/-- ASTAT (R190). -/
def execAstat (x c : BitVec 6) (abs : Bool) (s : State) : Out :=
  mclass s [c.toNat, x.toNat] 6 fun t => finishX s (t.launchX 6 (.acc (.astat x.toNat c.toNat abs)))

/-- Rows x, x + 1, … of a register, read at issue. -/
def Task.run (t : Task) (k x n : Nat) : List Row := (List.range n).map fun i => t.mrow k (x + i)

/-- ABIAS (R189); x beyond its limit is ILL 0x44 (R184). -/
def execAbias (a m : BitVec 6) (x : BitVec 6) (row : Bool) (s : State) : Out :=
  if (if row then x.toNat % 4 ≠ 0 || 60 < x.toNat else x.toNat % 2 ≠ 0 || 62 < x.toNat) then onlyX s fun _ => ill s 0x44
  else
    mclass s [a.toNat] 4 fun t =>
      claim s t [m.toNat] [] fun t =>
        match t.slotOf m.toNat with
        | none => ill s 0x22
        | some k => finishX s (t.launchX 4 (.acc (.abias a.toNat row (t.run k x.toNat (if row then 4 else 2)))))

/-- AMOV (R188). -/
def execAmov (d c : BitVec 6) (md : VMode) (s : State) : Out :=
  let n := if md = .side then 2 else 34
  mclass s [d.toNat, c.toNat] n fun t => finishX s (t.launchX n (.acc (.amov d.toNat c.toNat md)))

/-- ASCALE (R189). -/
def execAscale (a r : BitVec 6) (x : BitVec 6) (col : Bool) (s : State) : Out :=
  if col && (x.toNat % 2 ≠ 0 || 62 < x.toNat) then onlyX s fun _ => ill s 0x44
  else
    mclass s [a.toNat] 4 fun t =>
      if col then
        claim s t [r.toNat] [] fun t =>
          match t.slotOf r.toNat with
          | none => ill s 0x22
          | some k => finishX s (t.launchX 4 (.acc (.ascaleCol a.toNat (t.run k x.toNat 2))))
      else finishX s (t.launchX 4 (.acc (.ascale a.toNat ((t.rd .x r).setWidth 32))))

/-- The limits of `mma` (R176), ILL 0x42. -/
def mmaBad (m : MmaArgs) : Bool :=
  let ety := m.ety.toNat
  let odd := (m.kch.toNat + 1) % 2 == 1
  ((ety == 5 || ety == 12 || ety == 13 || ety == 14) && odd) ||
    (m.ta && (decide (3 < m.kch.toNat) || decide (4 < ety) || m.aux == m.acc)) ||
    (decide (12 ≤ ety) && decide (64 < m.srow.toNat + (m.kch.toNat + 1) / 2))

/-- The skip exponent in force (R180). -/
def Task.skipOf (t : Task) (q : Bool) : Option Int := if q && t.qskip.en then some t.qskip.exp.toInt else none

/-- The flight of an `mma` or `mmag`: it ends when its last chunk performs. -/
def Task.launchMma (t : Task) (j : MmaJob) : Task :=
  t.launchX (8 * w2Of j.args.ety.toNat * (j.args.kch.toNat + 1) + 6) (.mma j)

/-- MMA (R175-R180); its pops are deferred accesses from its own issue cycle on (R172). -/
def execMma (m : MmaArgs) (s : State) : Out :=
  if mmaBad m then onlyX s fun _ => ill s 0x42
  else
    let ety := m.ety.toNat
    let mx := decide (12 ≤ ety)
    mclass s (if m.ta then [m.acc.toNat, m.aux.toNat] else [m.acc.toNat]) (8 * w2Of ety * (m.kch.toNat + 1)) fun t =>
      claim s t (if mx then [m.sa.toNat, m.sb.toNat] else []) [] fun t =>
        let rowsOf r := match t.slotOf r with
          | some k => t.run k m.srow.toNat ((m.kch.toNat + 1) / 2)
          | none => []
        let j : MmaJob :=
          { args := m, grouped := false, skip := t.skipOf m.q,
            scaleA := if mx then rowsOf m.sa.toNat else [], scaleB := if mx then rowsOf m.sb.toNat else [],
            adapters := [], pops := [], madeA := 0, madeB := 0, acols := [], startA := [], startB := [], dead := none }
        finishX s (t.launchMma j)

/-- The adapter entries in cells 0-7 of a tile's first row (R181): none where OFF is set. -/
def adaptersOf (r : Row) : List (Option Nat) :=
  (List.range 8).map fun k => let c := elemAt 16 r k; if c.testBit 15 then none else some (c % 2 ^ 14)

/-- Two enabled entries that hold different rows in one bank (R173). -/
def adapterClash (w : Windows) (l : List (Option Nat)) : Bool :=
  let bs := l.filterMap id
  bs.any fun a => bs.any fun b => a != b && w.bankOf a == w.bankOf b

/-- MMAG (R181, R182); its conditions stand in the order of 04 R489. -/
def execMmag (m : MmaArgs) (s : State) : Out :=
  let ety := m.ety.toNat
  if ety == 5 && (m.kch.toNat + 1) % 2 == 1 then onlyX s fun _ => ill s 0x42
  else
    mclass s [m.acc.toNat] (8 * w2Of ety * (m.kch.toNat + 1)) fun t =>
      match tfind t.tiles m.aux.toNat with
      | none => if t.a.ended then trapHere s 0x0B 0 else s.wait 1
      | some e =>
        let tags := (List.range e.count).map fun i => (t.row (e.first + i)).seen
        if tags.contains .empty then s.wait 1
        else
          let r0 := (t.row e.first).data
          let ad := adaptersOf r0
          let bs := ad.filterMap id
          if (List.range 8).any fun k => (elemAt 16 r0 k).testBit 14 then ill s 0x43
          else if bs.any fun b => decide (t.win.rows ≤ b) then trapHere s 0x03 1
          else if bs.any fun b => decide (b < t.win.spSize) then trapHere s 0x02 2
          else if adapterClash t.win ad then trapHere s 0x02 4
          else if tags.contains .poison then trapHere s 0x05 1
          else if (t.row e.first).ue.getLsbD 0 then trapHere s 0x05 3
          else
            let j : MmaJob :=
              { args := m, grouped := true, skip := t.skipOf m.q, scaleA := [], scaleB := [], adapters := ad,
                pops := [], madeA := 0, madeB := 0, acols := [], startA := [], startB := [], dead := none }
            finishX s (t.launchMma j)

end Sys2Proof.Machine
end

