-- ==== Sys2Proof/Machine/Port.lean ====
section
/-! DEFINITION. The A-strand's port, tile and scratchpad instructions (08 R210-R216) and `mld` and `mst` (08 R217). -/

namespace Sys2Proof.Machine

/-! ### What every MEM-slot instruction waits for -/

/-- A token (03 R73). -/
def Task.tok (t : Task) (k : Nat) : Token := tget Token.zero t.as.toks k

/-- A token of the set is PENDING (04 R91, 10 R264). -/
def Task.tokWait (t : Task) (w : BitVec 8) : Bool :=
  (List.range 8).any fun k => w.getLsbD k && (t.tok k).st == .pending

/-- The fault of a held copy whose token is in the set (10 R249). -/
def heldFault (s : State) (t : Task) (w : BitVec 8) : Option BFault :=
  (s.ctx t.who.ctx).faults.find? fun f =>
    match f.job with
    | none => false
    | some j => (List.range 8).any fun k => w.getLsbD k && (t.tok k).st == .pending && (t.tok k).job == j

/-- A MEM-slot instruction of the A-strand: it takes BACK while one of its tokens names a held copy (10 R249), and it waits
for its tokens, for a `tfill` in progress (08 R214) and for an `srel` or `sacq` that has not completed (09 R238). -/
def memSlot (s : State) (w : BitVec 8) (f : Task → State) : Out :=
  onlyA s fun t =>
    match heldFault s t w with
    | some b => takeBack s t b.sub.toNat b.va 3
    | none => if t.tokWait w || t.memHeld then s.wait 1 else f t

/-- The end of an A-strand instruction: the pc moves on. -/
def finishA (s : State) (t : Task) : State := s.putHere (t.advance .a)

/-- A register plus a signed displacement, modulo 2^64 (08 R210, 09). -/
def Task.addr (t : Task) (m : MAddr) : Word := t.rd .a m.base + m.disp.signExtend 64

/-! ### Ports (R211, R212) -/

/-- A value that word 0 of a port's set does not admit (R203, R211). -/
def psetBad (p : Nat) (v : Word) : Bool :=
  v.extractLsb' 20 44 != 0 || v.extractLsb' 14 2 != 0 ||
    (if p < 8 then v.getLsbD 18 else v.getLsbD 16 || v.getLsbD 17)

/-- A word of a set replaced. -/
def PSet.set (ps : PSet) (w : Nat) (v : Word) : PSet :=
  match w with
  | 0 => { ps with w0 := v }
  | 1 => { ps with w1 := v }
  | 2 => { ps with w2 := v }
  | _ => { ps with w3 := v }

/-- PSET (R211). -/
def execPset (wait : BitVec 8) (p : BitVec 4) (w : BitVec 2) (d : Reg) (s : State) : Out :=
  memSlot s wait fun t =>
    let v := t.rd .a d
    if w = 0 && psetBad p.toNat v then ill s 0x0E
    else
      let q := t.port p.toNat
      finishA s (t.putPort p.toNat { q with staged := q.staged.set w.toNat v })

/-- A start index above its count (R212). -/
def PSet.startBad (ps : PSet) : Bool :=
  (List.range 4).any fun k => decide ((half ps.w1 k).toNat < (half ps.w3 k).toNat)

/-- PARM (R205, R212). -/
def execParm (wait : BitVec 8) (p : BitVec 4) (s : State) : Out :=
  memSlot s wait fun t =>
    let q := t.port p.toNat
    if q.staged.startBad then ill s 0x0E
    else if q.active.isNone then finishA s (t.putPort p.toNat (q.arm (some q.staged) none))
    else if q.pending.isNone then finishA s (t.putPort p.toNat { q with pending := some q.staged })
    else s.wait 1

/-- PSTOP (R205). -/
def execPstop (wait : BitVec 8) (p : BitVec 4) (s : State) : Out :=
  memSlot s wait fun t => finishA s (t.putPort p.toNat ((t.port p.toNat).arm none none))

/-- PSTAT (R212); its result is available after 2 cc (R216). -/
def execPstat (wait : BitVec 8) (d : Reg) (p : BitVec 4) (s : State) : Out :=
  memSlot s wait fun t =>
    let q := t.port p.toNat
    let v : Word := (q.count ++ 0#29 ++ BitVec.ofBool (t.xs.waits.getLsbD p.toNat) ++ BitVec.ofBool q.pending.isSome ++
      BitVec.ofBool q.active.isSome : BitVec 64)
    finishA s (t.result .a d 2 v)

/-! ### Tiles (R213, R214) -/

/-- A tile number: (sB + DISP23) mod 2^64, ILL 0x0E above 255 (R210). -/
def onTile (s : State) (m : MAddr) (f : Task → Nat → State) : Out :=
  memSlot s m.wait fun t =>
    let n := (t.addr m).toNat
    if 255 < n then ill s 0x0E else f t n

/-- TDEF (R213). -/
def execTdef (d : Reg) (m : MAddr) (s : State) : Out :=
  onTile s m fun t n =>
    let v := t.rd .a d
    let first := (v.extractLsb' 0 14).toNat
    let count := (v.extractLsb' 16 14).toNat
    if count = 0 || v.extractLsb' 14 2 != 0 || v.extractLsb' 30 34 != 0 then ill s 0x0E
    else if (tfind t.tiles n).isSome then ill s 0x45
    else if t.win.rows < first + count then trapHere s 0x03 1
    else
      let up := (List.range count).any fun i => (t.row (first + i)).tag != .empty
      finishA s { t with tiles := tins t.tiles n { first := first, count := count, up := up } }

/-- TFREE (R213). -/
def execTfree (m : MAddr) (s : State) : Out := onTile s m fun t n => finishA s { t with tiles := tdel t.tiles n }

/-- Rows of a tile in a tag state. -/
def Task.countTag (t : Task) (e : Tile) (g : Tag) : Nat :=
  ((List.range e.count).filter fun i => (t.row (e.first + i)).tag = g).length

/-- The value that `tstate` writes (R201, R213). -/
def Task.tstate (t : Task) (n : Nat) : Word :=
  match tfind t.tiles n with
  | none => 0
  | some e =>
    let full := t.countTag e Tag.full
    let psn := t.countTag e Tag.poison
    let st : BitVec 2 := if full + psn = 0 then 0 else if full = e.count then 2 else if e.up then 1 else 3
    (0#18 ++ BitVec.ofNat 14 psn ++ 0#2 ++ BitVec.ofNat 14 full ++ 0#12 ++ 1#1 ++ BitVec.ofBool (decide (0 < psn)) ++ st :
      BitVec 64)

/-- TSTATE (R213); its result is available after 2 cc (R216). -/
def execTstate (d : Reg) (m : MAddr) (s : State) : Out := onTile s m fun t n => finishA s (t.result .a d 2 (t.tstate n))

/-- The forms of `tfill`: the rows are done one per cc from the next cc on (R214). -/
def startFill (s : State) (m : MAddr) (form : FillForm) (pat : Task → Word) : Out :=
  onTile s m fun t n =>
    match tfind t.tiles n with
    | none => ill s 0x0E
    | some e => finishA s (t.onA fun a => { a with fill := some { form := form, pat := pat t, next := e.first, last := e.first + e.count } })

/-- TFILL (R214). -/
def execTfill (d : Reg) (m : MAddr) (s : State) : Out := startFill s m .pattern fun t => t.rd .a d

/-- TFILL_EMPTY (R214). -/
def execTfillEmpty (m : MAddr) (s : State) : Out := startFill s m .empty fun _ => 0

/-- TFILL_FULL (R214). -/
def execTfillFull (m : MAddr) (s : State) : Out := startFill s m .full fun _ => 0

/-- One row of a `tfill` in progress, unless the row is reserved (R199, R214). A stalled MEM-slot instruction may issue in the cc
in which the last row is done (DESIGN CHOICE, log 106). -/
def Task.fillRow (t : Task) : Task :=
  match t.as.fill with
  | none => t
  | some f =>
    if t.reserved f.next then t
    else
      let v := f.next
      let t1 :=
        match f.form with
        | .pattern => (t.setRow v (BitVec.ofNat 1024 (rowNat 64 (List.replicate 16 f.pat.toNat))) (BitVec.allOnes 1024)).setTag v .full
        | .empty => t.setTag v .empty
        | .full => if (t.row v).tag = Tag.poison then t else t.setTag v .full
      t1.onA fun a => { a with fill := if f.last ≤ v + 1 then none else some { f with next := v + 1 } }

/-! ### Scratchpad accesses of the A-strand (R215) -/

/-- Bytes of an access size code (04 R91). -/
def sizeBytes (sz : Nat) : Nat := 2 ^ (sz % 4)

/-- The extension that a size code selects (04 R91). -/
def extendLoad (sz v : Nat) : Word :=
  match sz with
  | 4 => (BitVec.ofNat 8 v).signExtend 64
  | 5 => (BitVec.ofNat 16 v).signExtend 64
  | 6 => (BitVec.ofNat 32 v).signExtend 64
  | _ => BitVec.ofNat 64 v

/-- A scratchpad access: window and alignment checks (R215). -/
def onRow (s : State) (t : Task) (a n : Nat) (f : Nat → Nat → State) : State :=
  if t.win.rows ≤ a / 128 then trapHere s 0x03 1 else if a % n ≠ 0 then trapHere s 0x03 2 else f (a / 128) (a % 128)

/-- Bytes of a row. -/
def rowBytes (r : Row) (off n : Nat) : Nat := r.toNat / 2 ^ (8 * off) % 2 ^ (8 * n)

/-- LDF (R215): it waits while the row is EMPTY. -/
def execLdf (sz : BitVec 3) (d : Reg) (m : MAddr) (s : State) : Out :=
  memSlot s m.wait fun t =>
    let n := sizeBytes sz.toNat
    onRow s t (t.addr m).toNat n fun v off =>
      let r := t.row v
      if r.seen = .empty then s.wait 1
      else if r.seen = .poison then trapHere s 0x05 2
      else if r.ue.getLsbD (off / 32) then trapHere s 0x05 3
      else finishA s (t.result .a d 4 (extendLoad sz.toNat (rowBytes r.data off n)))

/-- LDX (R215). -/
def execLdx (sz : BitVec 3) (d : Reg) (m : MAddr) (s : State) : Out :=
  memSlot s m.wait fun t =>
    let n := sizeBytes sz.toNat
    onRow s t (t.addr m).toNat n fun v off =>
      let r := t.row v
      if r.tag = .poison then trapHere s 0x05 2
      else if r.ue.getLsbD (off / 32) then trapHere s 0x05 3
      else finishA s (t.result .a d 4 (extendLoad sz.toNat (rowBytes r.data off n)))

/-- Bytes of a row written by the A-strand. -/
def Task.putBytes (t : Task) (v off n : Nat) (x : Word) : Task :=
  t.setRow v (BitVec.ofNat 1024 (x.toNat % 2 ^ (8 * n) * 2 ^ (8 * off))) (BitVec.ofNat 1024 ((2 ^ (8 * n) - 1) * 2 ^ (8 * off)))

/-- STE (R215): it waits while the row is FULL or held, and sets it FULL. -/
def execSte (g : Guard) (sz : BitVec 2) (d : Reg) (m : MAddr) (s : State) : Out :=
  memSlot s m.wait fun t =>
    if !t.guard .a g then finishA s t
    else
      let n := sizeBytes sz.toNat
      onRow s t (t.addr m).toNat n fun v off =>
        let r := t.row v
        if r.seen = .full || t.reserved v then s.wait 1
        else if r.seen = .poison then trapHere s 0x05 2
        else finishA s ((t.putBytes v off n (t.rd .a d)).setTag v .full)

/-- STX (R215): the tag is unchanged. -/
def execStx (g : Guard) (sz : BitVec 2) (d : Reg) (m : MAddr) (s : State) : Out :=
  memSlot s m.wait fun t =>
    if !t.guard .a g then finishA s t
    else
      let n := sizeBytes sz.toNat
      onRow s t (t.addr m).toNat n fun v off =>
        if t.reserved v then s.wait 1 else finishA s (t.putBytes v off n (t.rd .a d))

/-! ### `mld` and `mst` (R217) -/

/-- The word of an instruction, its last of the group or not not told apart. -/
def wordOf (i : Instr) : Nat := match encode true i with | some w => w.toNat | none => 0

/-- The flight launched last carries its word (19 R419), as the last word of a group until the group gives its own. -/
def Task.named (t : Task) (i : Instr) : Task :=
  t.onX fun x => { x with flights := x.flights.modify (x.flights.length - 1) fun f => { f with word := BitVec.ofNat 64 (wordOf i) } }

/-- MLD (R217): pop 0 is made at issue, the others are deferred. -/
def execMld (mask : BitVec 3) (m d : BitVec 6) (p : BitVec 3) (r : BitVec 6) (s : State) : Out :=
  onlyX s fun t =>
    claim s t [] [m.toNat] fun t =>
      let (_, v, f) := (Fetch.start t).pop p.toNat t.xs.ic t.x.pc 0
      f.done s fun t =>
        match t.slotOf m.toNat with
        | none => ill s 0x22
        | some k =>
          let n := r.toNat + 1
          finishX s ((t.launchX (2 * n) (.mld k d.toNat p.toNat n (laneCells (t.mask mask)) 1 [(0, v)])).named (.mld mask m d p r))

/-- MST (R217): the rows are read at issue, write 0 takes its row at issue, the others are deferred. -/
def execMst (mask : BitVec 3) (q : BitVec 2) (m d : BitVec 6) (r : BitVec 6) (s : State) : Out :=
  onlyX s fun t =>
    claim s t [m.toNat] [] fun t =>
      let (v, f) := (Fetch.start t).take q.toNat t.xs.ic t.x.pc
      f.done s fun t =>
        match t.slotOf m.toNat with
        | none => ill s 0x22
        | some k =>
          let n := r.toNat + 1
          let rows := t.run k d.toNat n
          finishX s ((t.launchX (2 * n)
            (.mst q.toNat (laneCells (t.mask mask)) rows.tail 1 [(0, v, rows.getD 0 0)])).named (.mst mask q m d r))

end Sys2Proof.Machine
end

