-- ==== Sys2Proof/Machine/Slots.lean ====
section
/-! DEFINITION. Semaphore slots (11 R275-R284, R294, R295): ids, operations on their way, their performing, waits and
monitors, and the instructions that use them. -/

namespace Sys2Proof.Machine

/-! ### Ids (R275) -/

/-- CHIP of a slot id. -/
def idChip (v : BitVec 22) : Nat := v.toNat / 65536

/-- CORE of a slot id. -/
def idCore (v : BitVec 22) : Nat := v.toNat / 64 % 1024

/-- SLOT of a slot id. -/
def idSlot (v : BitVec 22) : Nat := v.toNat % 64

/-- The id in a register. -/
def idOf (v : Word) : BitVec 22 := v.setWidth 22

/-- A device of the pod: this one, or one that has had a valid route (DEDUCED, log 20). -/
def State.inPod (s : State) (chip : Nat) : Bool := chip == s.pod.chip.toNat || (decide (chip < 64) && s.pod.members.getLsbD chip)

/-- The trap that an id register raises at issue (R275). -/
def State.idBad (s : State) (v : Word) : Option (Nat × Nat) :=
  if v.extractLsb' 22 42 != 0 then some (1, 0x0E)
  else if 768 ≤ idCore (idOf v) || !s.inPod (idChip (idOf v)) then some (3, 5)
  else none

/-- A slot of a core of this device. -/
def State.sem (s : State) (core slot : Nat) : Sem := tget Sem.zero (s.core core).sems slot

/-- The state with a slot replaced. -/
def State.putSem (s : State) (core slot : Nat) (x : Sem) : State :=
  let c := s.core core
  s.putCore core { c with sems := tset Sem.zero c.sems slot x }

/-! ### Sending (R277, R280) -/

/-- An operation joins the inbox of its file. -/
def State.toFile (s : State) (core : Nat) (m : SemMsg) : State :=
  let c := s.core core
  s.putCore core { c with inbox := c.inbox ++ [m] }

/-- An operation of a walker or block for which no route is valid is held, and F2 has a fault record of it, with the slot id in the place of
the address (16 R340, R344; log 119). A strand's has met the route at its issue. -/
def State.holdOp (s : State) (m : SemMsg) (id : BitVec 22) : State :=
  if s.routed (idChip id) || m.src == .strand || m.src == .record then s
  else
    s.holdFault m.ctx { sub := 5, chip := some (idChip id), va := id.toNat, kind := 1, core := 0xFFFF, bank := 0, id := m.id, at_ := s.dt.toNat,
                        saved := none, job := none }

/-- An operation on a slot of another device leaves this one after the flush markers, and waits for its reply (R280); its slot is then
the whole id. -/
def State.toPeer (s : State) (m : SemMsg) (id : BitVec 22) : State :=
  let s1 := s.flushPeers.holdOp m id
  { s1 with pod := { s1.pod with sems := s1.pod.sems ++ [{ m with slot := id.toNat, due := s.dt.toNat }] } }

/-- An operation of a record, block, walker or the front end sent to a slot: it reaches a file of this device in the next tick (DESIGN
CHOICE, log 130). -/
def State.sendSem (s : State) (m : SemMsg) (id : BitVec 22) : State :=
  if idChip id = s.pod.chip.toNat then s.toFile (idCore id) { m with slot := idSlot id, due := s.dt.toNat + 1 } else s.toPeer m id

/-- An operation of the acting place sent to a slot: one of its own core performs 2 cc after issue (R280). -/
def sendFrom (s : State) (t : Task) (src : SemSrc) (id : BitVec 22) (op : SemOp) : State :=
  let n := idCore id
  let own := n == s.cur.core
  let m : SemMsg :=
    { src := src, core := s.cur.core, bank := s.cur.bank, id := t.who.id, pc := t.a.pc, ctx := t.who.ctx,
      slot := idSlot id, op := op, own := own, due := if own then (s.core n).cc + 2 else s.dt.toNat + 1 }
  if idChip id = s.pod.chip.toNat then s.toFile n m else s.toPeer { m with own := false } id

/-- An operation of the acting task's A-strand sent to a slot. -/
def sendStrand (s : State) (t : Task) (id : BitVec 22) (op : SemOp) : State × Task := (sendFrom s t .strand id op, t)

/-! ### Waits (R281-R283) -/

/-- A split condition that holds: no token of KW is PENDING and the slot condition, if any, has fired (R287), which stays so
once its monitor has fired (DESIGN CHOICE, log 143). -/
def Task.splitDone (t : Task) : Task :=
  match t.susp with
  | some (.split kw) =>
    let slotOk := match t.as.wait with | none => true | some w => w.phase == .fired
    if slotOk && !t.tokWait kw then
      (t.onA fun a => { a with wait := none }).resume
    else t
  | _ => t

/-- A wait's condition is found holding at value `x` (R281, R283, R287). -/
def Task.fireWait (t : Task) (w : SlotWait) (x : BitVec 32) : Task :=
  let done (p : BitVec 3) (t : Task) : Task :=
    { t with a := t.a.setPred p.toNat (slotStale w.cond x w.t), as := { t.as with wait := none } }
  match w.kind with
  | .swait p => done p t
  | .swaitv p =>
    let t1 := done p t
    if t1.susp == some .swaitv then t1.resume else t1
  | .sacq _ => t.onA fun a => { a with wait := none }
  | .split => (t.onA fun a => { a with wait := some { w with phase := .fired } }).splitDone

/-- The L1 sectors of the regions that a task has bound to a slot (09 R243). -/
def boundTo (s : State) (t : Task) (id : BitVec 22) (sec : Nat) : Bool :=
  t.as.binds.any fun b =>
    b.slot == id &&
      match s.pieces t.who.ctx b.base.toNat b.len.toNat with
      | none => false
      | some ps => inLines s ps sec

/-- A `sacq` that completes handles its bound regions as `inval` does (09 R245). -/
def State.acquireBound (s : State) (core : Nat) (t : Task) (w : SlotWait) : State :=
  match w.kind with
  | .sacq sc => s.invalL1 core sc (boundTo s t w.slot)
  | _ => s

/-- A waiting task in a bank is fired; a `sacq` goes on waiting while bytes of its regions are on their way to a device without a route
(09 R245; 16 R340). -/
def State.fireTask (s : State) (core bank : Nat) (t : Task) (w : SlotWait) (x : BitVec 32) : State :=
  let s1 := s.acquireBound core t w
  match w.kind with
  | .sacq sc =>
    let chips := s.downChips core (boundTo s t w.slot)
    s1.putTask core bank
      (if s1.stuckOut t.who.ctx sc chips then t.onA fun a => { a with wait := some { w with phase := .acquiring chips } } else t.fireWait w x)
  | _ => s1.putTask core bank (t.fireWait w x)

/-- A `sacq` whose bytes have all performed is over. -/
def State.endAcquire (s : State) (core bank : Nat) : State :=
  match s.task core bank with
  | none => s
  | some t =>
    match t.as.wait with
    | none => s
    | some w =>
      match w.kind, w.phase with
      | .sacq sc, .acquiring chips =>
        if s.stuckOut t.who.ctx sc chips then s else s.putTask core bank (t.onA fun a => { a with wait := none })
      | _, _ => s

/-- Who waits on a slot: a task in a bank, a saved task, or the record of a `split.any`, named by its launch and PARENT. -/
inductive Waiter where
  | bank (core bank : Nat)
  | saved (k : Nat)
  | record (launch : Nat) (parent : BitVec 32)
  deriving DecidableEq, Repr

/-- Every wait on a slot of this device's tasks and records. -/
def State.waits (s : State) : List (Waiter × SlotWait) :=
  (s.tasks.filterMap fun e => e.2.as.wait.map fun w => (.bank (e.1 / 2) (e.1 % 2), w)) ++
    (s.fe.saved.filterMap fun e => e.2.task.as.wait.map fun w => (.saved e.1, w)) ++
    s.fe.launches.flatMap fun e => e.2.cond.filterMap fun r => r.cond.map fun w => (.record e.1 r.parent, w)

/-- The first record of a launch with a PARENT that waits for its condition. -/
def Launch.condOf (l : Launch) (parent : BitVec 32) : Option Record := l.cond.find? fun r => r.parent == parent

/-- The condition of such a record replaced. -/
def Launch.setCond (l : Launch) (parent : BitVec 32) (w : SlotWait) : Launch :=
  match l.condOf parent with
  | none => l
  | some r => { l with cond := l.cond.map fun q => if q == r then { r with cond := some w } else q }

/-- The condition of such a record has fired: it waits for admission (R288, R291). -/
def Launch.fireCond (l : Launch) (parent : BitVec 32) : Launch :=
  match l.condOf parent with
  | none => l
  | some r => { l with wait := l.wait ++ [{ r with cond := none }], cond := l.cond.erase r }

/-- The compare of a wait has failed: it is armed, or refused (R282); a `swaitv` suspends its task (R283). -/
def State.holdWait (s : State) (e : Waiter × SlotWait) (p : WaitPhase) : State :=
  let w := { e.2 with phase := p }
  let set (t : Task) : Task := t.onA fun a => { a with wait := some w }
  match e.1 with
  | .bank core bank =>
    match s.task core bank with
    | none => s
    | some t => s.putTask core bank (match w.kind with | .swaitv _ => { set t with susp := some .swaitv } | _ => set t)
  | .saved k => { s with fe := { s.fe with saved := tmod s.fe.saved k fun v => { v with task := set v.task } } }
  | .record n parent =>
    { s with fe := { s.fe with launches := tmod s.fe.launches n fun l => l.setCond parent w } }

/-- A wait's condition holds at value `x`: a task in its bank goes on; a saved task becomes ready (R283, 19 R417); a record waits for
admission (R288, R291). -/
def State.fire (s : State) (e : Waiter × SlotWait) (x : BitVec 32) : State :=
  match e.1 with
  | .bank core bank => match s.task core bank with | none => s | some t => s.fireTask core bank t e.2 x
  | .saved k =>
    { s with fe := { s.fe with saved := tmod s.fe.saved k fun v =>
        let t := v.task.fireWait e.2 x
        { v with task := t, ready := t.susp.isNone } } }
  | .record n parent =>
    { s with fe := { s.fe with launches := tmod s.fe.launches n fun l => l.fireCond parent } }

/-- Whether a wait is armed on a slot of a file of this device. -/
def armedOn (s : State) (core slot : Nat) (w : SlotWait) : Bool :=
  w.phase == .armed && idChip w.slot == s.pod.chip.toNat && idCore w.slot == core && idSlot w.slot == slot

/-- Every wait on a slot tested against its new value (R282). -/
def State.wake (s : State) (core slot : Nat) : State :=
  let x := (s.sem core slot).v
  let s1 := (s.waits.filter fun e => armedOn s core slot e.2 && slotHolds e.2.cond x e.2.t).foldl (fun s e => s.fire e x) s
  let c := s1.core core
  if c.monitors.isEmpty then s1
  else s1.putCore core { c with monitors := c.monitors.filter fun m => !(m.slot == slot && slotHolds m.cond x m.t) }

/-! ### Performing (R276, R277, R279, R282) -/

/-- The value that a slot takes, and the result that goes back (R279). -/
def semResult (op : SemOp) (x : BitVec 32) : BitVec 32 × Option (Nat × BitVec 32) :=
  match op with
  | .add v => (x + v, none)
  | .fadd d v => (x + v, some (d, x))
  | .faddLive d v =>
    let e : BitVec 32 := 0xFFFFFFFF
    if x = e || x + v = e then (x, some (d, e)) else (x + v, some (d, x))
  | .cas d c v => (if x = c then v else x, some (d, x))
  | .set v => (v, none)
  | .mset v => (v, none)
  | .wait => (x, none)
  | .declare => (x, none)
  | .peerWait _ _ _ _ => (x, none)
  | .peerEnd _ => (x, none)

/-- The result that a reply brings for an operation on another device's slot (R279). -/
def semReply (op : SemOp) (v : BitVec 32) : Option (Nat × BitVec 32) :=
  match op with
  | .fadd d _ => some (d, v)
  | .faddLive d _ => some (d, v)
  | .cas d _ _ => some (d, v)
  | _ => none

/-- A strand's operation has performed: its result reaches the scoreboard (R280), and one operation less is outstanding. An
`ssetm` that skipped a target raises PRIV once the last target has acknowledged (R284). -/
def State.semDone (s : State) (m : SemMsg) (res : Option (Nat × BitVec 32)) (skip : Bool) : State :=
  match s.task m.core m.bank with
  | none => s
  | some t =>
    if t.who.id ≠ m.id then s
    else
      let a0 := t.as
      let n := a0.outst - 1
      let ms := if skip then some m.pc else a0.mskip
      let a1 : AState := { a0 with outst := n, blocked := a0.blocked && n != 0, mskip := if n = 0 then none else ms }
      let t1 : Task :=
        match res with
        | none => { t with as := a1 }
        | some (d, v) =>
          { t with
            a := t.a.setReg d (v.setWidth 64)
            as := { a1 with awaited := a1.awaited.filter (· ≠ d), ready := tset 0 a1.ready d (if m.own && d ≠ 0 then 2 else 0) } }
      let s1 := s.putTask m.core m.bank t1
      match ms with
      | some pc => if n = 0 then fatalFor s1 m.core m.bank m.id m.ctx 6 0 pc id else s1
      | none => s1

/-- An operation of a GROUP_OPEN has performed: 0xFFFFFFFF refuses an attach (18 R399). -/
def Attach.answered (a : Attach) (res : Option (Nat × BitVec 32)) : Attach :=
  if a.undo then { a with out := a.out - 1 }
  else
    match res with
    | some (_, v) => if v = 0xFFFFFFFF then { a with out := 0, undo := true } else { a with out := 0, made := a.made + 1 }
    | none => { a with out := 0 }

/-- A strand or the ended task of a `split.any` owes one operation less, and Shallot hears of its attach. -/
def State.semOver (s : State) (m : SemMsg) (res : Option (Nat × BitVec 32)) : State :=
  match m.src with
  | .strand => s.semDone m res false
  | .record => s.semDone m none false
  | .attach q => { s with opens := tmod s.opens q fun a => a.answered res }
  | _ => s

/-- The compare of a wait has been made: the task that a `split.any` ended owes it no more; a strand's wait stands in its task. -/
def State.waitOver (s : State) (m : SemMsg) : State :=
  match m.src with
  | .record => s.semDone m none false
  | _ => s

/-- A file has a monitor free, of its own banks or of another waiter: 4 of its 64 are kept for its own banks (R282). -/
def State.monitorFree (s : State) (file : Nat) (own : Bool) : Bool :=
  let on := s.waits.filter fun e => e.2.phase == .armed && idChip e.2.slot == s.pod.chip.toNat && idCore e.2.slot == file
  let mine := (on.filter fun e => match e.1 with | .bank core _ => core == file | _ => false).length
  let others := on.length - mine + (s.core file).monitors.length
  decide (mine + others < 64) && (own || decide (others < 60))

/-- Telemetry counts a refused wait of a file (R282). -/
def State.countRefusal (s : State) (file : Nat) : State :=
  { s with fen := { s.fen with refusals := tset 0 s.fen.refusals file (tget 0 s.fen.refusals file + 1) } }

/-- The wait that an operation compares or that a reply answers: of its strand, in its bank or saved, or of its record. -/
def State.waitOf (s : State) (m : SemMsg) : Option (Waiter × SlotWait) :=
  match m.src with
  | .record => s.waits.find? fun e => match e.1 with | .record _ p => p == m.id | _ => false
  | .saved k => s.waits.find? fun e => e.1 == .saved k
  | _ =>
    s.waits.find? fun e =>
      match e.1 with
      | .bank core bank => match s.task core bank with | some t => t.who.id == m.id | none => false
      | .saved k => match tfind s.fe.saved k with | some v => v.task.who.id == m.id | none => false
      | .record _ _ => false

/-- A wait's compare at its slot: it completes, or arms a monitor in the same step, or is refused for want of one (R282). -/
def State.semCompare (s : State) (file : Nat) (e : Waiter × SlotWait) (x : BitVec 32) : State :=
  let own := match e.1 with | .bank core _ => core == file | _ => false
  if slotHolds e.2.cond x e.2.t then s.fire e x
  else if s.monitorFree file own then s.holdWait e .armed
  else (s.holdWait e (.refused s.dt.toNat)).countRefusal file

/-- A wait of another device's strand compared: it is over, or armed, or refused; the reply goes to that device (R282). -/
def State.peerCompare (s : State) (file : Nat) (chip slot tag : Nat) (cond : BitVec 3) (t : BitVec 32) (cls : Nat) (x : BitVec 32) :
    State :=
  let c := s.core file
  let rest := c.monitors.filter fun m => !(m.chip == chip && m.tag == tag)
  let s1 := s.putCore file { c with monitors := rest }
  if slotHolds cond x t then s1
  else if s1.monitorFree file false then
    s1.putCore file { c with monitors := rest ++ [{ slot := slot, chip := chip, tag := tag, cond := cond, t := t, cls := cls }] }
  else s1.countRefusal file

/-- The place that a fault record gives a walker's signal (10 R249). -/
def SemSrc.mark (src : SemSrc) (r : FaultRec) : FaultRec :=
  match src with
  | .signal cl w pc _ => { r with slice := cl, way := w, set := pc }
  | _ => r

/-- An operation finds its slot owned by another context, or free (R276, R284, R292). -/
def State.semForeign (s : State) (m : SemMsg) : State :=
  match m.src, m.op with
  | .strand, .mset _ => s.semDone m none true
  | .peer _, _ => s
  | src, _ => fatalFor s m.core m.bank m.id m.ctx 6 0 m.pc src.mark

/-- An operation performs at its slot in one step (R277). -/
def State.performSem (s : State) (file : Nat) (m : SemMsg) : State :=
  let c := s.ctx m.ctx
  let peer := match m.src with | .peer k => some k | _ => none
  if peer.isNone && c.term.isSome then s
  else
    let x := s.sem file m.slot
    if x.owner ≠ m.ctx || x.owner = 0 then s.semForeign m
    else
      match m.op with
      | .wait => ((s.waitOf m).elim s fun e => s.semCompare file e x.v).waitOver m
      | .peerWait tag cond t cls => s.peerCompare file (peer.getD 64) m.slot tag cond t cls x.v
      | .peerEnd tag =>
        let f := s.core file
        s.putCore file { f with monitors := f.monitors.filter fun k => !(some k.chip == peer && k.tag == tag) }
      | .declare => s.semOver m none
      | op =>
        let (v, res) := semResult op x.v
        ((s.putSem file m.slot { x with v := v }).semOver m res).wake file m.slot

/-- The place of a source among those that reach a file in one cycle (R277). -/
def SemMsg.rank (m : SemMsg) : Nat :=
  match m.src with
  | .strand => m.core
  | .record => m.core
  | .signal cl w _ _ => 1000 + 4 * cl + w
  | .block n => 2000 + n
  | .attach _ => 2010
  | .saved _ => 2000
  | .peer c => 3000 + c

/-- Whether an operation of a file is due, at a slot that the file has not served in this tick (R277). -/
def SemMsg.ready (m : SemMsg) (cc dt : Nat) (served : List Nat) : Bool :=
  (if m.own then decide (m.due ≤ cc) else decide (m.due ≤ dt)) && !served.contains m.slot

/-- The earlier of two operations (R277): the file's own core first, then by arrival, then by source. -/
def SemMsg.before (a b : SemMsg) : Bool :=
  if a.own != b.own then a.own else if a.due ≠ b.due then decide (a.due < b.due) else decide (a.rank < b.rank)

/-- The next operation that a file performs, with those that stay. -/
def nextSem (cc dt : Nat) (served : List Nat) : List SemMsg → Option (SemMsg × List SemMsg)
  | [] => none
  | m :: r =>
    match nextSem cc dt served r with
    | none => if m.ready cc dt served then some (m, r) else none
    | some (b, rest) => if m.ready cc dt served && !b.before m then some (m, r) else some (b, m :: rest)

/-- SLOT_OPERATION (R277): the file of the acting core performs its next operation; without one nothing happens. -/
def execSlotOperation (s : State) : Out :=
  let n := s.cur.core
  let c := s.core n
  match nextSem c.cc s.dt.toNat c.served c.inbox with
  | none => .next s
  | some (m, rest) => .next ((s.putCore n { c with inbox := rest, served := m.slot :: c.served }).performSem n m)

/-- The reply to an operation on another device's slot (R276, R279, R280, R282): a wait that the device has armed stays until it fires.
A value at which a wait's condition does not hold answers nothing. -/
def State.slotReply (s : State) (k : Nat) (ans : SlotAns) : State :=
  match s.pod.sems[k]? with
  | none => s
  | some m =>
    let gone : State := { s with pod := { s.pod with sems := s.pod.sems.eraseIdx k } }
    let e := s.waitOf m
    let first : Bool := match e with | some e => e.2.phase == .sent | none => true
    let close (s : State) : State := if first then s.waitOver m else s
    if !s.routed (m.slot / 65536) then s
    else
      match m.op, ans with
      | .wait, .done v =>
        match e with
        | none => close gone
        | some e => if slotHolds e.2.cond v e.2.t then close (gone.fire e v) else s
      | .wait, .armed => close (e.elim s fun e => s.holdWait e .armed)
      | .wait, .refused => close (e.elim gone fun e => gone.holdWait e (.refused s.dt.toNat))
      | _, .foreign => gone.semForeign m
      | op, .done v => gone.semOver m (semReply op v)
      | _, _ => s

/-- A wait whose refusal is 256 ticks old (R282). -/
def State.retryDue (s : State) (w : SlotWait) : Bool :=
  match w.phase with
  | .refused at_ => decide (at_ + 256 ≤ s.dt.toNat)
  | _ => false

/-- The wait of a saved task or record compared (R282): the front end sends the compare to the slot's file. -/
def State.testWait (s : State) (e : Waiter × SlotWait) : State :=
  let m (src : SemSrc) (id : BitVec 32) (ctx : Nat) : SemMsg :=
    { src := src, core := 0xFFFF, bank := 0, id := id, pc := e.2.pc, ctx := ctx, slot := 0, op := .wait, own := false, due := 0 }
  let sent := s.holdWait e .sent
  match e.1 with
  | .record n p => sent.sendSem (m .record p (match tfind s.fe.launches n with | some l => l.ctx | none => 0)) e.2.slot
  | .saved k =>
    match tfind s.fe.saved k with
    | none => s
    | some v => sent.sendSem (m (.saved k) v.task.who.id v.task.who.ctx) e.2.slot
  | .bank _ _ => s

/-- Such a wait tested again once its refusal is old enough. -/
def State.retryWait (s : State) (e : Waiter × SlotWait) : State := if s.retryDue e.2 then s.testWait e else s

/-- REMOTE_WAIT_RETRY (R282): the acting task's refused wait is sent again; a place of bank 2 names a saved task by its number, one of bank 3 a
launch, whose records' waits are tested. -/
def execRemoteWaitRetry (s : State) : Out :=
  match s.cur.bank with
  | 2 => .next ((s.waits.filter fun e => e.1 == .saved s.cur.core).foldl State.retryWait s)
  | 3 => .next ((s.waits.filter fun e => match e.1 with | .record n _ => n == s.cur.core | _ => false).foldl State.retryWait s)
  | _ =>
    match s.here with
    | none => .next s
    | some t =>
      match t.as.wait with
      | none => .next s
      | some w =>
        if s.retryDue w then
          let t1 := t.onA fun a => { a with wait := some { w with phase := .sent } }
          let (s1, t2) := sendStrand s t1 w.slot .wait
          .next (s1.putHere t2)
        else .next s

/-! ### Instructions -/

/-- A SEM-slot instruction of the A-strand: it waits for an `srel` or `sacq` that has not completed (09 R238). -/
def semSlot (s : State) (f : Task → State) : Out := onlyA s fun t => if t.fenced then s.wait 1 else f t

/-- A strong SEM-slot instruction: it issues only after the strand's earlier slot operation has performed (R280). -/
def strongSem (s : State) (f : Task → State) : Out :=
  semSlot s fun t => if t.as.outst ≠ 0 then s.wait 1 else f t

/-- An operation on a slot of a device of the pod: without a valid route it takes BACK (16 R340), with the slot id in the place of the
address (log 119). -/
def withRoute (s : State) (t : Task) (id : BitVec 22) (k : State) : State :=
  if s.routed (idChip id) then k else takeBackFor s t 5 id.toNat 1 (some (idChip id))

/-- An instruction whose slot id stands in a register (R275). -/
def onSlot (s : State) (t : Task) (r : Reg) (f : BitVec 22 → State) : State :=
  let v := t.rd .a r
  match s.idBad v with
  | some (c, k) => trapHere s c k
  | none => withRoute s t (idOf v) (f (idOf v))

/-- An atomic: under a false guard it does nothing (R278, R279). -/
def atomic (s : State) (a : SArgs) (dest : Bool) (op : Task → SemOp) : Out :=
  strongSem s fun t =>
    if !t.guard .a a.g then finishA s t
    else
      onSlot s t a.s fun id =>
        let (s1, t1) := sendStrand s t id (op t)
        finishA s1 (t1.onA fun x =>
          { x with outst := x.outst + 1,
                   awaited := if dest && a.d != 0 then a.d.toNat :: x.awaited else x.awaited })

/-- The operand of an atomic: sO[31:0]. -/
def Task.low (t : Task) (r : Reg) : BitVec 32 := (t.rd .a r).setWidth 32

/-- SADD (R279). -/
def execSadd (a : SArgs) (s : State) : Out := atomic s a false fun t => .add (t.low a.o)

/-- SFADD (R279). -/
def execSfadd (a : SArgs) (s : State) : Out := atomic s a true fun t => .fadd a.d.toNat (t.low a.o)

/-- SFADD_LIVE (R279). -/
def execSfaddLive (a : SArgs) (s : State) : Out := atomic s a true fun t => .faddLive a.d.toNat (t.low a.o)

/-- SCAS (R279). -/
def execScas (a : SArgs) (s : State) : Out := atomic s a true fun t => .cas a.d.toNat (t.low a.d) (t.low a.o)

/-- SSET (R279). -/
def execSset (a : SArgs) (s : State) : Out := atomic s a false fun t => .set (t.low a.o)

/-- The target slots of an `ssetm` on its chip (R284). -/
def msetTargets (slot : Nat) (chip : Nat) (mask : BitVec 12) (cluster : Nat) (all : Bool) : List (BitVec 22) :=
  let cls := if all then List.range 64 else [cluster]
  cls.flatMap fun c => (List.range 12).filterMap fun k =>
    if mask.getLsbD k then some (BitVec.ofNat 22 (chip * 65536 + (c * 12 + k) * 64 + slot)) else none

/-- SSETM (R284): each target receives an operation of its own. -/
def execSsetm (g : Guard) (r o : Reg) (mask : BitVec 12) (cluster : BitVec 6) (all : Bool) (s : State) : Out :=
  strongSem s fun t =>
    if !t.guard .a g then finishA s t
    else
      let v := t.rd .a r
      let chip := fieldNat v 16 6
      if mask = 0 || v.extractLsb' 6 10 != 0 || v.extractLsb' 22 42 != 0 then ill s 0x0E
      else if !s.inPod chip then trapHere s 3 5
      else if chip ≠ s.pod.chip.toNat then
        withRoute s t (idOf v) <|
          let (s1, t1) := sendStrand s t (idOf v) (.mset (t.low o))
          finishA s1 (t1.onA fun x => { x with outst := 1 })
      else
        let ids := msetTargets (fieldNat v 0 6) chip mask cluster.toNat all
        let s1 := ids.foldl (fun s id => (sendStrand s t id (.mset (t.low o))).1) s
        finishA s1 (t.onA fun x => { x with outst := ids.length })
where
  /-- A field of a descriptor. -/
  fieldNat (v : Word) (lo len : Nat) : Nat := (v.extractLsb' lo len).toNat

/-- A wait on a slot: sent to the slot's file, held until it completes (R281-R283). -/
def startWait (s : State) (t : Task) (id : BitVec 22) (k : WaitKind) (c : BitVec 3) (target : BitVec 32) : State × Task :=
  let (s1, t1) := sendStrand s t id .wait
  (s1, t1.onA fun a => { a with wait := some { kind := k, slot := id, cond := c, t := target, phase := .sent, pc := t.a.pc } })

/-- SWAIT (R283): the A-strand stalls until the condition holds. -/
def execSwait (c p : BitVec 3) (r o : Reg) (s : State) : Out :=
  strongSem s fun t =>
    onSlot s t r fun id =>
      let (s1, t1) := startWait s t id (.swait p) c (t.low o)
      finishA s1 t1

/-- SWAITV (R283): as `swait` until its compare; a failing compare suspends the task. -/
def execSwaitv (c p : BitVec 3) (r o : Reg) (s : State) : Out :=
  strongSem s fun t =>
    onSlot s t r fun id =>
      let (s1, t1) := startWait s t id (.swaitv p) c (t.low o)
      finishA s1 t1

/-- SDECL (R294): the owner of a slot of another device is checked there. -/
def execSdecl (clr : Bool) (r : Reg) (s : State) : Out :=
  semSlot s fun t =>
    let v := t.rd .a r
    let held := t.as.decls.contains (idOf v)
    let add (t : Task) : Task := if held then t else t.onA fun a => { a with decls := a.decls ++ [idOf v] }
    if v.extractLsb' 22 42 != 0 then ill s 0x0E
    else if clr then finishA s (t.onA fun a => { a with decls := a.decls.filter (· ≠ idOf v) })
    else if !held && decide (4 ≤ t.as.decls.length) then ill s 0x48
    else
      onSlot s t r fun id =>
        if idChip id ≠ s.pod.chip.toNat then
          let (s1, t1) := sendStrand s t id .declare
          finishA s1 ((add t1).onA fun a => { a with outst := a.outst + 1 })
        else if (s.sem (idCore id) (idSlot id)).owner ≠ t.who.ctx then trapHere s 6 0
        else finishA s (add t)

/-- PRIO (R294). -/
def execPrio (c : BitVec 2) (s : State) : Out :=
  semSlot s fun t => finishA s { t with cls := { t.cls with set := max c.toNat t.cls.ceil } }

/-! ### Class inheritance (R295) -/

/-- The class that the waiters on a task's declared slots give it. -/
def inherit (ws : List (BitVec 22 × Nat)) (t : Task) : Nat :=
  ws.foldl (fun c w => if t.as.decls.contains w.1 then min c w.2 else c) t.cls.set

/-- The waits with a monitor armed, of this device's tasks and records and of other devices' strands here, and what other devices tell
of their own slots: slot and the waiter's class (R295). A waiting record gives its CLASS.SET (DESIGN CHOICE, log 144). -/
def State.waiters (s : State) : List (BitVec 22 × Nat) :=
  let cls (e : Waiter) : Nat :=
    match e with
    | .bank core bank => match s.task core bank with | some t => t.cls.cur | none => 3
    | .saved k => match tfind s.fe.saved k with | some v => v.task.cls.cur | none => 3
    | .record n p => match (tfind s.fe.launches n).bind fun l => l.condOf p with | some r => r.set | none => 3
  (s.waits.filter fun e => e.2.phase == .armed).map (fun e => (e.2.slot, cls e.1)) ++
    (s.cores.flatMap fun c => c.2.monitors.map fun m => (BitVec.ofNat 22 (s.pod.chip.toNat * 65536 + c.1 * 64 + m.slot), m.cls)) ++
    s.pod.classes

/-- One round of the rule of R295 over every task. -/
def State.classRound (s : State) : State :=
  let ws := s.waiters
  { s with
    tasks := tmap s.tasks fun _ t => { t with cls := { t.cls with cur := inherit ws t } }
    fe := { s.fe with saved := tmap s.fe.saved fun _ v => { v with task := { v.task with cls := { v.task.cls with cur := inherit ws v.task } } } } }

/-- Rounds enough for every chain of waiters. -/
def classRounds : Nat → State → State
  | 0, s => s
  | n + 1, s => classRounds n s.classRound

/-- CLASS.CUR of every task recomputed from SET (R295). -/
def State.settle (s : State) : State :=
  let s0 : State :=
    { s with
      tasks := tmap s.tasks fun _ t => { t with cls := { t.cls with cur := t.cls.set } }
      fe := { s.fe with saved := tmap s.fe.saved fun _ v => { v with task := { v.task with cls := { v.task.cls with cur := v.task.cls.set } } } } }
  classRounds (s.tasks.length + s.fe.saved.length) s0

end Sys2Proof.Machine
end

