-- ==== Sys2Proof/Machine/Global.lean ====
section
/-! DEFINITION. The A-strand's global memory instructions (09 R234-R245), the discard of pages (16 R353), the taking of
BACK (16 R344), and the L1's and the routers' own steps (09 R223, R239). -/

namespace Sys2Proof.Machine

/-! ### Trap conditions of an access (R235; 16 R344; 23 R449, R454) -/

/-- The access kind of BACKFAULT. -/
def Acc.kind : Acc → Nat
  | .wr => 1
  | .ex => 2
  | _ => 0

/-- A load or store of `n` bytes at an address: the checks of R235 in their order. -/
def access (s : State) (t : Task) (a n : Nat) (acc : Acc) (k : Nat → Entry → State) : State :=
  if a % n ≠ 0 then trapHere s 3 3
  else
    match s.xlate t.who.ctx a acc true with
    | .ok pa e => if s.lineHeld t.who.ctx pa then s.wait 1 else k pa e
    | .bad code sub => if code = 4 then takeBack s t sub a acc.kind else trapHere s code sub

/-- What the record of DATA 0x04, 0x05 or 0x07 says of the sector's place (23 R449, R454): the L1, the home L2 with the line's way, or device
memory. -/
def State.poisonPlace (s : State) (core ctx sec sub : Nat) (r : FaultRec) : FaultRec :=
  let home := s.homeSec ctx sec
  let r1 := { r with pa := home * 32, sector := home % 8 }
  match sub with
  | 4 => { r1 with struct_ := 1, slice := clusterOf core, set := sec / 8 % 64 }
  | 5 =>
    { r1 with struct_ := 2, slice := homeSlice (home * 32), set := home / 8 % 4096,
              way := match tfind s.lines (home / 8) with | some l => l.way | none => 0xFF }
  | _ => { r1 with struct_ := memStruct (home * 32), slice := homeSlice (home * 32), set := home / 8 % 4096 }

/-- A read meets a POISON sector: its line then stands in the home L2 as POISON, and the strand takes DATA with the
sector's place in its record. -/
def dataTrapAt (s : State) (t : Task) (sd : Side) (sec sub : Nat) (pc : Word) : State :=
  enterTrapFor (s.meetPoison t.who.ctx sec sub) sd 5 sub pc (s.poisonPlace s.cur.core t.who.ctx sec sub)

/-- The same at the executing word. -/
def dataTrap (s : State) (t : Task) (sec sub : Nat) : State := dataTrapAt s t s.cur.side sec sub (t.st s.cur.side).pc

/-- A read that returned a sector: DATA when it is POISON. -/
def onRead (s : State) (t : Task) (sec : Nat) (r : SRead) (k : State) : State :=
  match r.bad with
  | some sub => dataTrap s t sec sub
  | none => k

/-- Bytes of a sector as a number. -/
def sectorNat (d : BitVec 256) (off n : Nat) : Nat := d.toNat / 2 ^ (8 * off) % 2 ^ (8 * n)

/-! ### Loads and stores (R236, R237) -/

/-- A sector as `ld.strm` reads it: from the L1 when it is valid there, else from below, with the L1's dirty bytes winning,
and nothing allocated. -/
def State.readThrough (s : State) (core ctx sec : Nat) : SRead :=
  match s.l1 core sec with
  | some x =>
    if x.valid || x.poison then { data := x.data, bad := if x.poison then some 4 else none }
    else
      let r := s.readBelow (clusterOf core) ctx sec
      { r with data := mergeSector r.data x.data x.dirty }
  | none => s.readBelow (clusterOf core) ctx sec

/-- The end of a load of `n` bytes at physical address `pa`. -/
def loadDone (s : State) (t : Task) (d : Reg) (sz pa : Nat) (r : SRead) : State :=
  onRead s t (pa / 32) r (finishA s (t.result .a d 5 (extendLoad sz (sectorNat r.data (pa % 32) (sizeBytes sz)))))

/-- A weak load through the L1. -/
def weakLoad (s : State) (t : Task) (d : Reg) (sz pa : Nat) : State :=
  let (r, s1) := s.loadL1 s.cur.core t.who.ctx (pa / 32)
  loadDone s1 t d sz pa r

/-- LD (R236). -/
def execLd (strm : Bool) (sz : BitVec 3) (d : Reg) (m : MAddr) (s : State) : Out :=
  memSlot s m.wait fun t =>
    access s t (t.addr m).toNat (sizeBytes sz.toNat) .rd fun pa _ =>
      if strm then loadDone s t d sz.toNat pa (s.readThrough s.cur.core t.who.ctx (pa / 32))
      else weakLoad s t d sz.toNat pa

/-- A store to a peer marks its device for the flush markers of the next POD or SYSTEM release (R242). -/
def Task.wrote (t : Task) (chip own : Nat) : Task :=
  if chip = own then t else t.onA fun a => { a with podmask := a.podmask ||| (1 <<< chip : BitVec 64) }

/-- A store of the low `n` bytes of a value: checks, then the page that it needs, then `k` with the state, the task, the
sector, the bytes' mask and data. -/
def storing (s : State) (t : Task) (a n : Nat) (v : Word) (k : State → Task → Nat → BitVec 32 → BitVec 256 → State) :
    State :=
  access s t a n .wr fun pa e =>
    match s.bindFor t.who.ctx pa e with
    | .beyond sub => takeBack s t sub a 1
    | .hole => trapHere s 3 4
    | .done s1 =>
      k s1 (t.wrote (chipOf pa) s.pod.chip.toNat) (pa / 32) (spanMask (pa % 32) n)
        (spanData (pa % 32) (v.toNat % 2 ^ (8 * n)))

/-- ST (R236). -/
def execSt (strm : Bool) (g : Guard) (sz : BitVec 2) (d : Reg) (m : MAddr) (s : State) : Out :=
  memSlot s m.wait fun t =>
    if !t.guard .a g then finishA s t
    else
      storing s t (t.addr m).toNat (sizeBytes sz.toNat) (t.rd .a d) fun s1 t1 sec mask data =>
        let core := s.cur.core
        let ctx := t.who.ctx
        if strm then
          finishA ((s1.passL1 core ctx sec mask data false).sendDown (clusterOf core) .device
            [{ sec := sec, mask := mask, data := data, owner := ctx, poison := false, port := 0 }]) t1
        else finishA (s1.storeL1 core ctx sec mask data) t1

/-- A strong access, release or acquire: it issues only after the strand's earlier slot operations have performed
(R237). -/
def strongMem (s : State) (w : BitVec 8) (f : Task → State) : Out :=
  memSlot s w fun t => if t.as.outst ≠ 0 then s.wait 1 else f t

/-- LDS (R237); `.strm` does nothing. -/
def execLds (_strm : Bool) (sc : Scope) (sz : BitVec 3) (d : Reg) (m : MAddr) (s : State) : Out :=
  strongMem s m.wait fun t =>
    access s t (t.addr m).toNat (sizeBytes sz.toNat) .rd fun pa _ =>
      if sc = .core then weakLoad s t d sz.toNat pa
      else loadDone s t d sz.toNat pa (s.readBelow (clusterOf s.cur.core) t.who.ctx (pa / 32))

/-- STS (R237); `.strm` does nothing. -/
def execSts (_strm : Bool) (sc : Scope) (g : Guard) (sz : BitVec 2) (d : Reg) (m : MAddr) (s : State) : Out :=
  strongMem s m.wait fun t =>
    if !t.guard .a g then finishA s t
    else
      storing s t (t.addr m).toNat (sizeBytes sz.toNat) (t.rd .a d) fun s1 t1 sec mask data =>
        let core := s.cur.core
        let ctx := t.who.ctx
        if sc = .core then finishA (s1.storeL1 core ctx sec mask data) t1
        else
          finishA ((s1.passL1 core ctx sec mask data true).sendDown (clusterOf core) sc
            [{ sec := sec, mask := mask, data := data, owner := ctx, poison := false, port := 0 }]) t1

/-! ### Hints (R239) -/

/-- The sectors of a line filled into a core's L1, except POISON ones. -/
def State.fillLine (s : State) (core ctx line : Nat) : State :=
  (List.range 8).foldl (fun s k => (s.loadL1 core ctx (line * 8 + k)).2) s

/-- PREF (R239): it checks nothing and never traps after decode; a hint whose address no translation reaches now is dropped.
`.strm` fills the home L2 only. -/
def execPref (strm : Bool) (m : MAddr) (s : State) : Out :=
  memSlot s m.wait fun t =>
    match s.xlate t.who.ctx (t.addr m).toNat .any false with
    | .ok pa _ =>
      let ctx := t.who.ctx
      let s1 := s.filled ctx (pa / 32)
      finishA (if strm then s1 else s1.fillLine s.cur.core ctx (pa / 256)) t
    | .bad _ _ => finishA s t

/-- PREF_ADAPTER (R239): a hint whose address fails R220, or that finds the queue of 16 full, is dropped. -/
def execPrefAdapter (d : Reg) (m : MAddr) (s : State) : Out :=
  memSlot s m.wait fun t =>
    let n := min ((t.rd .a d).toNat % 2 ^ 25) (2 ^ 24)
    let a := t.addr m
    let cl := clusterOf s.cur.core
    let c := s.cluster cl
    if n = 0 then finishA s t
    else if 16 ≤ c.hints.length || 2 ^ 57 ≤ a.toNat || ((s.ctx t.who.ctx).lookup a.toNat).isNone then
      finishA (s.putCluster cl { c with dropped := c.dropped + 1 }) t
    else finishA (s.putCluster cl { c with hints := c.hints ++ [(t.who.ctx, a, n)] }) t

/-- A walker with no copy or walk program to run. -/
def Walker.free (w : Walker) : Bool := w.lat.isEmpty && w.bulk.isEmpty && w.run.isEmpty

/-- The lines of a hint from address `va` on, brought into their home L2 clean with the context's owner tag; those that are unbacked,
ABSENT, homed off the device or in no extent are skipped. The fuel is the number of lines. -/
def State.hintLines (s : State) (ctx : Nat) : Nat → Nat → State
  | 0, _ => s
  | n + 1, va =>
    let s1 :=
      match (s.ctx ctx).lookup va with
      | none => s
      | some (_, e) =>
        let pa := s.paOf e va
        if (e.kind == .backed && e.present || e.kind == .stripe) && chipOf pa == s.pod.chip.toNat && !isHostOff (offOf pa) &&
            !s.noFrame pa then
          s.fillL2 ctx (pa / 256)
        else s
    State.hintLines s1 ctx n (va + 256)

/-- HINT_SERVE (R239): an idle walker of the acting core's cluster takes the first hint. -/
def execHintServe (s : State) : Out :=
  let cl := clusterOf s.cur.core
  let c := s.cluster cl
  if (List.range 4).any fun w => (tget Walker.zero c.walkers w).free then
    let s1 := s.putCluster cl { c with hints := c.hints.tail }
    match c.hints with
    | [] => .next s
    | (ctx, a, n) :: _ =>
      let lo := a.toNat / 256
      .next (s1.hintLines ctx ((a.toNat + n - 1) / 256 - lo + 1) (lo * 256))
  else .next s

/-! ### Discards (R240; 16 R353) -/

/-- A sector of the L2 dropped. For a line that has a frame, its dirty bytes may have been written there already: the
choice is free (R240, R448). -/
def State.dropSector (s : State) (sec : Nat) (framed : Bool) : State :=
  match tfind s.l2 sec with
  | none => s
  | some x =>
    let s1 := if framed && Config.freeBool s.fresh then s.toFrame sec x else s
    { s1 with l2 := tdel s1.l2 sec, fresh := s1.fresh + 1 }

/-- The lines of a range of sectors of whole lines, dropped from the L2; a copy keeps what it reads of them (09 R232): `f` gives a sector's
L1 address. -/
def State.dropRange (s0 : State) (ctx lo n : Nat) (framed : Bool) (f : Nat → Nat) : State :=
  let s := s0.keepRange ctx lo n f
  let s1 := (s.l2.filter fun e => decide (lo ≤ e.1) && decide (e.1 < lo + n)).foldl (fun s e => s.dropSector e.1 framed) s
  { s1 with lines := s1.lines.filter fun e => !(decide (lo ≤ e.1 * 8) && decide (e.1 * 8 < lo + n)) }

/-- The L2's sectors of a page of an unbacked extent, dropped. -/
def State.dropPageLines (s : State) (ctx page lo n : Nat) : State :=
  match s.page ctx page with
  | .untouched => s
  | .resident f =>
    let b := residencyPa s.pod.chip.toNat f / 32
    s.dropRange ctx (b + lo / 32) (n / 32) false fun k => page * 2048 + (k - b)
  | .late p => s.dropRange ctx ((p + lo) / 32) (n / 32) true fun k => page * 2048 + (k - p / 32)

/-- The lines of `n` bytes from physical address `pa` of a context's extent, dropped from the L2; the fuel counts pages. -/
def State.dropLines (s : State) (ctx : Nat) (e : Entry) : Nat → Nat → Nat → State
  | 0, _, _ => s
  | k + 1, pa, n =>
    if n = 0 then s
    else
      let m := min n (65536 - pa % 65536)
      let s1 :=
        match e.kind with
        | .unbacked => s.dropPageLines ctx (pa / 65536) (pa % 65536) m
        | .backed => s.dropRange ctx (pa / 32) (m / 32) true id
        | _ => s
      State.dropLines s1 ctx e k (pa + m) (n - m)

/-- A page of an unbacked extent returned to UNTOUCHED (16 R353): a residency frame becomes free, a late frame goes to the
pool's tail, or to the quarantine reserve (23 R491), or to F2 when the pool is full or the frame retired (23 R455). -/
def State.discardPage (s : State) (ctx page : Nat) : State :=
  let s0 := s.dropPageLines ctx page 0 65536
  let s1 : State := { s0 with slow := s0.slow.filter fun w => !(w.owner == ctx && w.sec / 2048 == page) }
  let c := s1.ctx ctx
  match s1.page ctx page with
  | .untouched => s1
  | .resident _ => s1.putCtx ctx { c with pages := tdel c.pages page }
  | .late p =>
    let pool := if s1.boot.reserve.contains p || s1.nv.retired.contains p || 4096 ≤ c.pool.length then c.pool else c.pool ++ [p]
    s1.putCtx ctx { c with pages := tdel c.pages page, pool := pool }

/-- The pages of a piece that its context holds, discarded. -/
def State.discardPages (s : State) (ctx : Nat) (p : Piece) : State :=
  let lo := s.paOf p.e p.va / 65536
  if p.e.kind == .unbacked then
    ((s.ctx ctx).pages.filter fun e => decide (lo ≤ e.1) && decide (e.1 < lo + p.len / 65536)).foldl
      (fun s e => s.discardPage ctx e.1) s
  else s

/-- What a range form meets (R235), with the address of a BACK: ADDR, then PRIV, then BACK. -/
def State.rangeBad (s : State) (ctx a len : Nat) (write : Bool) : Option (Nat × Nat × Nat) :=
  match s.pieces ctx a (max len 1) with
  | none => some (3, 4, a)
  | some ps =>
    let holes (p : Piece) : Bool :=
      let lo := s.paOf p.e p.va
      (p.e.kind != .backed || p.e.present) && p.e.kind != .stripe &&
        (s.noFrame (lo + p.len - 1) || ((List.range ((p.len - 1) / 2 ^ 37 + 1)).any fun k => s.noFrame (lo + k * 2 ^ 37)) ||
          (p.e.kind == .unbacked && (s.ctx ctx).pages.any fun e =>
            decide (lo / 65536 ≤ e.1) && decide (e.1 ≤ (lo + p.len - 1) / 65536) && s.unframed ctx (e.1 * 65536)))
    if ps.any holes then some (3, 4, a)
    else if ps.any fun p => p.e.kind == .stripe || (write && !p.e.w) then some (6, 0, a)
    else
      match ps.filterMap fun p => (s.backOf p.e (s.paOf p.e p.va)).map fun k => (4, k, p.va) with
      | [] => none
      | b :: _ => some b

/-- A range form of the A-strand: its checks, then `k` with the pieces. -/
def onRange (s : State) (t : Task) (a len : Nat) (write : Bool) (k : List Piece → State) : State :=
  match s.rangeBad t.who.ctx a len write with
  | some (code, sub, va) => if code = 4 then takeBack s t sub va (if write then 1 else 0) else trapHere s code sub
  | none => k ((s.pieces t.who.ctx a len).getD [])

/-- The L1 sectors of a core in the lines of a range, dropped with their dirty bytes. -/
def State.dropL1 (s : State) (core : Nat) (ps : List Piece) : State :=
  let c := s.core core
  s.putCore core { c with l1 := c.l1.filter fun e => !inLines s ps e.1 }

/-- The common part of the discards: earlier writes of the cluster perform first, then the lines leave the L1 and the
L2. -/
def discard (s : State) (t : Task) (d : Reg) (m : MAddr) (unit cap : Nat) (k : State → List Piece → State) : State :=
  let n := (t.rd .a d).toNat
  let a := (t.addr m).toNat
  if n = 0 then finishA s t
  else if n % unit ≠ 0 || cap < n then ill s 0x0E
  else if a % unit ≠ 0 then trapHere s 3 3
  else
    onRange s t a n true fun ps =>
      let s1 := (s.dropL1 s.cur.core ps).drainEgress (clusterOf s.cur.core)
      let s2 := ps.foldl (fun s p => s.dropLines t.who.ctx p.e (p.len / 65536 + 2) (s.paOf p.e p.va) p.len) s1
      finishA (k s2 ps) t

/-- DISC (R240; 16 R353). -/
def execDisc (d : Reg) (m : MAddr) (s : State) : Out :=
  strongMem s m.wait fun t => discard s t d m 256 (2 ^ 24) fun s1 _ => s1

/-- DISCP (R240; 16 R353). -/
def execDiscp (d : Reg) (m : MAddr) (s : State) : Out :=
  strongMem s m.wait fun t =>
    discard s t d m 65536 (2 ^ 30) fun s1 ps => ps.foldl (fun s p => s.discardPages t.who.ctx p) s1

/-! ### Write-downs and fences (R241, R242) -/

/-- A range of L1 lines, or every line when D names s0. -/
def lineForm (s : State) (d : Reg) (m : MAddr) (k : Task → (Nat → Bool) → State) : Out :=
  strongMem s m.wait fun t =>
    if d = 0 then k t fun _ => true
    else onRange s t (t.addr m).toNat (t.rd .a d).toNat false fun ps => k t (inLines s ps)

/-- L1 sectors that `p` selects written down, by `f`, to a scope: the instruction completes once every byte has performed there. -/
def downTo (s : State) (ctx : Nat) (sc : Scope) (p : Nat → Bool) (f : State) (k : State → State) : State :=
  if f.stuckOut ctx sc (s.downChips s.cur.core p) then s.wait 1 else k f

/-- CLEAN (R241). -/
def execClean (sc : Scope) (d : Reg) (m : MAddr) (s : State) : Out :=
  lineForm s d m fun t p => downTo s t.who.ctx sc p (s.cleanL1 s.cur.core sc p) fun s1 => finishA s1 t

/-- INVAL (R241). -/
def execInval (sc : Scope) (d : Reg) (m : MAddr) (s : State) : Out :=
  lineForm s d m fun t p => downTo s t.who.ctx sc p (s.invalL1 s.cur.core sc p) fun s1 => finishA s1 t

/-- A POD or SYSTEM release empties the list of devices written (R242). -/
def Task.released (t : Task) (sc : Scope) : Task :=
  if sc = .pod || sc = .system then t.onA fun a => { a with podmask := 0 } else t

/-- FENCE_REL (R242): it waits for the core's dirty bytes and for the devices that the strand has written. -/
def execFenceRel (wait : BitVec 8) (sc : Scope) (s : State) : Out :=
  strongMem s wait fun t =>
    let s1 := s.cleanL1 s.cur.core sc fun _ => true
    if s1.stuckOut t.who.ctx sc (t.as.podmask ||| s.downChips s.cur.core fun _ => true) then s.wait 1 else finishA s1 (t.released sc)

/-- A sector of a core's L1 that is valid. -/
def State.validL1 (s : State) (core sec : Nat) : Bool := match s.l1 core sec with | some x => x.valid | none => false

/-- FENCE_ACQ (R242): the valid sectors of the L1 are handled as `inval` does; at CORE scope it only orders. -/
def execFenceAcq (wait : BitVec 8) (sc : Scope) (s : State) : Out :=
  strongMem s wait fun t =>
    if sc = .core then finishA s t
    else
      let p := s.validL1 s.cur.core
      downTo s t.who.ctx sc p (s.invalL1 s.cur.core sc p) fun s1 => finishA s1 t

/-! ### Region bindings (R243-R245) -/

/-- The descriptor of `rbind` outside its limits (R243). -/
def bindBad (v : Word) : Bool := v.extractLsb' 22 10 != 0 || v.extractLsb' 32 8 != 0 || v.extractLsb' 32 32 == 0

/-- RBIND (R243). -/
def execRbind (d : Reg) (m : MAddr) (s : State) : Out :=
  memSlot s m.wait fun t =>
    let v := t.rd .a d
    let a := t.addr m
    let b : Binding := { base := a, len := v.extractLsb' 32 32, slot := v.setWidth 22 }
    let same (x : Binding) : Bool := x.base == a && x.slot == b.slot
    if bindBad v then ill s 0x0E
    else if !t.as.binds.any same && decide (16 ≤ t.as.binds.length) then ill s 0x46
    else if a.extractLsb' 0 8 != 0 then trapHere s 3 3
    else if (s.pieces t.who.ctx a.toNat b.len.toNat).isNone then trapHere s 3 4
    else if t.as.binds.any same then
      finishA s (t.onA fun x => { x with binds := x.binds.map fun y => if same y then b else y })
    else finishA s (t.onA fun x => { x with binds := x.binds ++ [b] })

/-- RUNBIND (R243). -/
def execRunbind (d : Reg) (m : MAddr) (s : State) : Out :=
  memSlot s m.wait fun t =>
    let a := t.addr m
    if 2 ^ 57 ≤ a.toNat || ((s.ctx t.who.ctx).lookup a.toNat).isNone then trapHere s 3 4
    else
      finishA s (t.onA fun x => { x with binds := x.binds.filter fun y => !(y.base == a && y.slot == (t.rd .a d).setWidth 22) })

/-- SREL (R244): the bound regions are written down, then the add is sent; MEM and SEM stall until it has performed. -/
def execSrel (wait : BitVec 8) (sc : Scope) (d b : Reg) (s : State) : Out :=
  strongMem s wait fun t =>
    onSlot s t d fun id =>
      let s1 := s.cleanL1 s.cur.core sc (boundTo s t id)
      if s1.stuckOut t.who.ctx sc (t.as.podmask ||| s.downChips s.cur.core (boundTo s t id)) then s.wait 1
      else
        let s2 := if sc = .pod || sc = .system then s1.flushPeers else s1
        let (s3, t1) := sendStrand s2 (t.released sc) id (.add (t.low b))
        finishA s3 (t1.onA fun x => { x with outst := 1, blocked := true })

/-- SACQ (R245): the wait is sent; MEM and SEM stall until it completes. -/
def execSacq (wait : BitVec 8) (sc : Scope) (d b : Reg) (s : State) : Out :=
  strongMem s wait fun t =>
    onSlot s t d fun id =>
      let (s1, t1) := startWait s t id (.sacq sc) 0 (t.low b)
      finishA s1 t1

/-- L1_EVICTION (R223): the L1 evicts a line at any time. -/
def execL1Eviction (core line : Nat) (s : State) : Out := .next (s.evictLine core line)

end Sys2Proof.Machine
end

