-- ==== Sys2Proof/Machine/Copy.lean ====
section
/-! DEFINITION. Copies and tokens (10 R247-R267): issuing a copy, the walkers' queues, the movement of record rows, landings,
multicasts, gathers, loads of the control store, completion. -/

namespace Sys2Proof.Machine

/-! ### Jobs -/

/-- The task that issued a job, in its bank, or retired while its window is in use (11 R292). -/
def State.jobTask (s : State) (j : Job) : Option Task :=
  match s.task j.core j.bank with
  | none => tfind s.retired j.id.toNat
  | some t => if t.who.id = j.id then some t else tfind s.retired j.id.toNat

/-- A change of that task's scratchpad. -/
def State.putJobTask (s : State) (j : Job) (t : Task) : State :=
  if (match s.task j.core j.bank with | some u => u.who.id == j.id | none => false) then s.putTask j.core j.bank t
  else { s with retired := tins s.retired j.id.toNat t.settleTags }

/-- Whether a job uses the scratchpad window of its task. -/
def Job.usesPad (j : Job) : Bool :=
  match j.kind with
  | .copy k _ _ _ _ => k != .gg
  | .gather scratch _ => scratch
  | .walk => true
  | _ => false

/-- A retired task is forgotten once no job uses its window. -/
def State.forget (s : State) (id : BitVec 32) : State :=
  if s.jobs.any fun e => e.2.id == id && e.2.usesPad then s else { s with retired := tdel s.retired id.toNat }

/-- A task that retires, kept while jobs use its window. -/
def State.keepRetired (s : State) (t : Task) : State :=
  State.forget { s with retired := tins s.retired t.who.id.toNat t.settleTags } t.who.id

/-- The state with a job replaced. -/
def State.putJob (s : State) (n : Nat) (j : Job) : State := { s with jobs := tins s.jobs n j }

/-- A walker. -/
def State.walker (s : State) (cl w : Nat) : Walker := tget Walker.zero (s.cluster cl).walkers w

/-- The state with a walker replaced. -/
def State.putWalker (s : State) (cl w : Nat) (x : Walker) : State :=
  let c := s.cluster cl
  s.putCluster cl { c with walkers := tset Walker.zero c.walkers w x }

/-- A job leaves its walker's lists. -/
def Walker.without (x : Walker) (n : Nat) : Walker :=
  { lat := x.lat.filter (· ≠ n), bulk := x.bulk.filter (· ≠ n), run := x.run.filter (· ≠ n),
    timed := x.timed.filter (· ≠ n) }

/-- A job is over, and nothing more is done for it. -/
def State.dropJob (s : State) (n : Nat) : State :=
  match tfind s.jobs n with
  | none => s
  | some j =>
    let s1 := s.putWalker j.cluster j.w ((s.walker j.cluster j.w).without n)
    State.forget { s1 with jobs := tdel s1.jobs n } j.id

/-- A fatal condition of a job (R249): reported for its task, with the cluster, the walker and a walk program's PC. -/
def State.jobTrap (s : State) (n : Nat) (j : Job) (code sub : Nat) : State :=
  (fatalFor s j.core j.bank j.id j.ctx code sub j.pc fun r =>
    { r with slice := j.cluster, way := j.w, set := match j.walk with | some w => w.pc | none => 0 }).dropJob n

/-- A job is held until Fennel resolves a condition (R249; 16 R344). -/
def State.holdJob (s : State) (n : Nat) (j : Job) (sub va : Nat) : State :=
  (s.putJob n { j with st := .held }).holdFault j.ctx
    { sub := BitVec.ofNat 8 sub, chip := none, va := va, kind := 3, core := j.core, bank := j.bank, id := j.id, at_ := s.dt.toNat,
      saved := none, job := some n }

/-- A condition that a job meets: a trap, or a hold. -/
def State.jobCond (s : State) (n : Nat) (j : Job) (code sub va : Nat) : State :=
  if code = 4 then s.holdJob n j sub va else s.jobTrap n j code sub

/-! ### Issue (R247, R250-R254) -/

/-- A record register. -/
def Task.recReg (t : Task) (r : Reg) (k : Nat) : Word := t.rd .a (BitVec.ofNat 6 (r.toNat + k))

/-- A restored timed copy that waits for a place in a walker's buffer `x` (R266). -/
def Job.outside (j : Job) (n : Nat) (x : Walker) : Bool := j.st == .timed && j.t != 0 && !x.timed.contains n

/-- Timed copies of the buffer and restored copies that are due and wait for an accept queue (R259, R266), as (T, number). -/
def State.dueFor (s : State) (cl w : Nat) (lat : Bool) : List (Nat × Nat) :=
  let x := s.walker cl w
  s.jobs.filterMap fun e =>
    if e.2.st == .timed && e.2.cluster == cl && e.2.w == w && e.2.lat == lat && decide (e.2.t.toNat ≤ s.dt.toNat) && !e.2.outside e.1 x then
      some (e.2.t.toNat, e.1)
    else none

/-- A restored copy that has not yet entered its walker's accept queue or buffer (R266). -/
def State.enters (s : State) (e : Nat × Job) : Bool :=
  e.2.st == .timed && (e.2.t == 0 || e.2.outside e.1 (s.walker e.2.cluster e.2.w))

/-- Entries of an accept queue. -/
def Walker.queue (x : Walker) (lat : Bool) : List Nat := if lat then x.lat else x.bulk

/-- A copy that a core issues finds its queue full, or entries that free go to others first. -/
def State.acceptFull (s : State) (cl w : Nat) (lat : Bool) : Bool :=
  decide (8 ≤ ((s.walker cl w).queue lat).length) || !(s.dueFor cl w lat).isEmpty

/-- A job at the tail of an accept queue. -/
def Walker.push (x : Walker) (lat : Bool) (n : Nat) : Walker :=
  if lat then { x with lat := x.lat ++ [n] } else { x with bulk := x.bulk ++ [n] }

/-- A job of the word that executes, with nothing in it. A walk or load of a CRITICAL or LATENCY task takes the latency queue as its copies
do (DESIGN CHOICE, log 109: R247 names copies only). -/
def newJob (s : State) (t : Task) (k : BitVec 3) (w : BitVec 2) (kind : JobKind) : Job :=
  { kind := kind, st := .queued, core := s.cur.core, bank := s.cur.bank, id := t.who.id, ctx := t.who.ctx,
    launch := t.who.launch, sib := t.mem.group.map fun g => (g, t.mem.index), pc := t.a.pc,
    cluster := clusterOf s.cur.core, w := w.toNat, lat := decide (t.cls.cur < 2), k := some k, rec0 := 0, rec1 := 0,
    ext0 := 0, ext1 := 0, rec3 := 0, rec4 := 0, rec5 := 0, t := 0, rows := 0, got := 0, buf := [], part := [], put := 0,
    err := none, idx := none, recvs := [], walk := none, snap := [], chips := 0 }

/-- The token of a new job (R254). -/
def Task.bindTok (t : Task) (k : BitVec 3) (n : Nat) : Task :=
  t.onA fun a => { a with toks := tset Token.zero a.toks k.toNat { st := .pending, errc := 0, done := 0, job := n } }

/-- Restored timed copies that wait for a place in a walker's buffer, which they take ahead of a copy that a core issues (R266). -/
def State.anyOutside (s : State) (cl w : Nat) (x : Walker) : Bool :=
  s.jobs.any fun e => e.2.cluster == cl && e.2.w == w && e.2.outside e.1 x

/-- A job handed to its walker: it waits while its token is PENDING or its queue, or a timed copy's buffer, is full. -/
def hand (s : State) (t : Task) (k : BitVec 3) (j : Job) : State :=
  let x := s.walker j.cluster j.w
  let timed := j.st == .timed
  if (t.tok k.toNat).st == .pending then s.wait 1
  else if (if timed then decide (32 ≤ x.timed.length) || s.anyOutside j.cluster j.w x else s.acceptFull j.cluster j.w j.lat) then s.wait 1
  else
    let n := s.nextJob
    let s1 := { s with jobs := tins s.jobs n j, nextJob := n + 1 }
    let s2 := s1.putWalker j.cluster j.w (if timed then { x with timed := x.timed ++ [n] } else x.push j.lat n)
    finishA s2 (t.bindTok k n)

/-- A multiple. -/
def offGrid (v : Word) (n : Nat) : Bool := v.toNat % n ≠ 0

/-- The limits of a record (R252). -/
def recordBad (t : Task) (r : Reg) (srcG dstG : Bool) : Bool :=
  let ext := t.recReg r 2
  let e0 := (ext.extractLsb' 0 32).toNat
  let e1 := (ext.extractLsb' 32 32).toNat
  e0 % 32 ≠ 0 || decide (e0 < 32) || decide (65536 < e0) || decide (e1 < 1) || decide (65536 < e1) ||
    offGrid (t.recReg r 0) (if srcG then 32 else 128) || offGrid (t.recReg r 3) (if srcG then 32 else 128) ||
    offGrid (t.recReg r 1) (if dstG then 32 else 128) || offGrid (t.recReg r 4) (if dstG then 32 else 128) ||
    ((!srcG || !dstG) && e0 % 128 ≠ 0)

/-- The record's registers read into a job (R250). -/
def Job.withRecord (j : Job) (t : Task) (r : Reg) : Job :=
  let ext := t.recReg r 2
  { j with rec0 := t.recReg r 0, rec1 := t.recReg r 1, ext0 := (ext.extractLsb' 0 32).toNat,
           ext1 := (ext.extractLsb' 32 32).toNat, rec3 := t.recReg r 3, rec4 := t.recReg r 4, rec5 := t.recReg r 5 }

/-- Whether a KIND's source is global (R251). -/
def kindSrcG (k : CKind) : Bool := k == .gg || k == .gs

/-- Whether a KIND's destination is global. -/
def kindDstG (k : CKind) : Bool := k == .gg || k == .sg

/-- CPY (R255). -/
def execCpy (c : CpyArgs) (sig : Bool) (s : State) : Out :=
  memSlot s c.wait fun t =>
    if recordBad t c.rg (kindSrcG c.kind) (kindDstG c.kind) || (sig && (t.recReg c.rg 5).extractLsb' 22 42 != 0) then ill s 0x0E
    else hand s t c.k ((newJob s t c.k c.w (.copy c.kind c.waite c.srcw c.srcc sig)).withRecord t c.rg)

/-- CPYT (R259): held in the time-sorted buffer until DT reaches T. -/
def execCpyt (c : CpyArgs) (s : State) : Out :=
  memSlot s c.wait fun t =>
    if recordBad t c.rg (kindSrcG c.kind) (kindDstG c.kind) then ill s 0x0E
    else
      hand s t c.k { ((newJob s t c.k c.w (.copy c.kind c.waite c.srcw c.srcc false)).withRecord t c.rg) with
        st := .timed, t := t.recReg c.rg 5 }

/-- CPYG (R260). -/
def execCpyg (wait : BitVec 8) (k : BitVec 3) (rg : Reg) (scratch : Bool) (w : BitVec 2) (waite : Bool) (s : State) : Out :=
  memSlot s wait fun t =>
    if recordBad t rg true (!scratch) || offGrid (t.recReg rg 5) 4 then ill s 0x0E
    else hand s t k ((newJob s t k w (.gather scratch waite)).withRecord t rg)

/-- The receivers of a multicast: the local cores of the mask (R256). -/
def receivers (core : Nat) (mask : BitVec 12) : List Recv :=
  (List.range 12).filterMap fun c =>
    if mask.getLsbD c then
      some { st := .waiting, core := clusterOf core * 12 + c, bank := 0, id := 0, base := 0, slot := 0, put := 0 }
    else none

/-- CPYM (R256). -/
def execCpym (wait : BitVec 8) (k : BitVec 3) (rg : Reg) (w : BitVec 2) (waite : Bool) (j : BitVec 2) (mask : BitVec 12)
    (s : State) : Out :=
  memSlot s wait fun t =>
    if mask = 0 || recordBad t rg true false then ill s 0x0E
    else
      hand s t k { ((newJob s t k w (.multi j.toNat mask waite)).withRecord t rg) with recvs := receivers s.cur.core mask }

/-- WLOAD (R269): `ext0` holds the number of words, `rec1` the first word. -/
def execWload (wait : BitVec 8) (k : BitVec 3) (rg : Reg) (w : BitVec 2) (s : State) : Out :=
  memSlot s wait fun t =>
    let a := t.recReg rg 0
    let v := t.recReg rg 1
    let first := (v.extractLsb' 0 8).toNat
    let count := (v.extractLsb' 8 9).toNat + 1
    if offGrid a 4 || v.extractLsb' 17 47 != 0 || decide (256 < first + count) then ill s 0x0E
    else
      hand s t k { newJob s t k w .load with rec0 := a, rec1 := BitVec.ofNat 64 first, ext0 := count, ext1 := 1 }

/-- PERMIT_LAND (R257). -/
def execPermitLand (wait : BitVec 8) (rg : Reg) (j : BitVec 2) (s : State) : Out :=
  memSlot s wait fun t =>
    let a := t.recReg rg 0
    let b := t.recReg rg 1
    if a.extractLsb' 14 50 != 0 || b.extractLsb' 22 42 != 0 then ill s 0x0E
    else finishA s (t.onA fun x => { x with lands := tins x.lands j.toNat { base := a.setWidth 14, slot := b.setWidth 22 } })

/-- PERMIT_UNLAND (R257). -/
def execPermitUnland (wait : BitVec 8) (j : BitVec 2) (s : State) : Out :=
  memSlot s wait fun t => finishA s (t.onA fun x => { x with lands := tdel x.lands j.toNat })

/-- TOKW (R264): with `.clr` each named token is IDLE, bound to no copy (03 R73). -/
def execTokw (wait : BitVec 8) (clr : Bool) (s : State) : Out :=
  memSlot s wait fun t =>
    if clr then
      finishA s (t.onA fun a => { a with toks := (List.range 8).foldl (fun ts k =>
        if wait.getLsbD k then tset Token.zero ts k Token.zero else ts) a.toks })
    else finishA s t

/-- The code of a token state (03 R73). -/
def TokState.code : TokState → Nat
  | .idle => 0
  | .pending => 1
  | .ok => 2
  | .err => 3

/-- The status of a token (R264); DONE of a PENDING token is that of its job. -/
def State.tokStatus (s : State) (k : Token) : Word :=
  let done := if k.st == .pending then (match tfind s.jobs k.job with | some j => j.rows | none => k.done.toNat) else k.done.toNat
  BitVec.ofNat 64 (k.st.code + (if k.st == .err then 16 * k.errc.toNat else 0) + 65536 * (done % 2 ^ 32))

/-- TOKST (R264); its result is available after 2 cc. -/
def execTokst (wait : BitVec 8) (k : BitVec 3) (d : Reg) (s : State) : Out :=
  memSlot s wait fun t => finishA s (t.result .a d 2 (s.tokStatus (t.tok k.toNat)))

/-! ### Queues and starting (R247, R259) -/

/-- The earlier of two due copies: by T, then by acceptance. -/
def dueBefore (a b : Nat × Nat) : Bool := decide (a.1 < b.1) || (a.1 == b.1 && decide (a.2 < b.2))

/-- The task that a restore holds until its reissued copies have entered their queues goes on (19 R417). -/
def State.reissued (s : State) (core bank : Nat) (id : BitVec 32) : State :=
  match s.task core bank with
  | none => s
  | some t =>
    if t.susp == some .restoring && !s.jobs.any (fun e => e.2.id == id && s.enters e) then
      s.putTask core bank { t with susp := none }
    else s

/-- CPYT_DUE (R259): the job, once DT has reached T, enters its accept queue when it has room and no earlier due entry waits
for it. -/
def execCpytDue (s : State) : Out :=
  match tfind s.jobs s.job with
  | none => .next s
  | some j =>
    let x := s.walker j.cluster j.w
    let me := (j.t.toNat, s.job)
    if j.st == .timed && (j.t == 0 || x.timed.contains s.job) && decide (j.t.toNat ≤ s.dt.toNat) && decide ((x.queue j.lat).length < 8) &&
        !((s.dueFor j.cluster j.w j.lat).any fun e => dueBefore e me) then
      let x1 := (x.without s.job).push j.lat s.job
      .next (((s.putWalker j.cluster j.w x1).putJob s.job { j with st := .queued }).reissued j.core j.bank j.id)
    else .next s

/-- A walker takes jobs while it holds fewer than 4: the head of the latency queue, else that of the bulk queue. -/
def startWalker (cl w : Nat) : Nat → State → State
  | 0, s => s
  | n + 1, s =>
    let x := s.walker cl w
    if 4 ≤ x.run.length then s
    else
      let go (k : Nat) (x1 : Walker) : State :=
        let s1 := s.putWalker cl w { x1 with run := x1.run ++ [k] }
        { s1 with jobs := tmod s1.jobs k fun j => { j with st := .running } }
      match x.lat with
      | k :: r => startWalker cl w n (go k { x with lat := r })
      | [] =>
        match x.bulk with
        | k :: r => startWalker cl w n (go k { x with bulk := r })
        | [] => s

/-- Restored timed copies enter a walker's buffer while it has room, in their order (R266). -/
def State.bufferJobs (s : State) (cl w : Nat) : State :=
  let x := s.walker cl w
  let late := s.jobs.filter fun e => e.2.cluster == cl && e.2.w == w && e.2.outside e.1 x
  let go := late.take (32 - x.timed.length)
  if go.isEmpty then s
  else
    go.foldl (fun s e => s.reissued e.2.core e.2.bank e.2.id) (s.putWalker cl w { x with timed := x.timed ++ go.map (·.1) })

/-- The four walkers of a cluster start what they can. -/
def State.startJobs (s : State) (cl : Nat) : State :=
  (List.range 4).foldl (fun s w => (startWalker cl w 4 s).bufferJobs cl w) s

/-! ### Record rows (R248-R251, R260) -/

/-- Whether a job's source is global. -/
def Job.srcG (j : Job) : Bool :=
  match j.kind with
  | .copy k _ _ _ _ => kindSrcG k
  | _ => true

/-- Whether a job's destination is global. -/
def Job.dstG (j : Job) : Bool :=
  match j.kind with
  | .copy k _ _ _ _ => kindDstG k
  | .gather scratch _ => !scratch
  | _ => false

/-- WAITE of a job. -/
def Job.waite (j : Job) : Bool :=
  match j.kind with
  | .copy _ w _ _ _ => w
  | .multi _ _ w => w
  | .gather _ w => w
  | _ => false

/-- SRCW of a job. -/
def Job.srcw (j : Job) : Bool := match j.kind with | .copy _ _ w _ _ => w | _ => false

/-- SRCC of a job. -/
def Job.srcc (j : Job) : Bool := match j.kind with | .copy _ _ _ c _ => c | _ => false

/-- An address computed exactly (00 R8): one below 0 lies outside every space, as 2^64 does. -/
def exactAt (base : Word) (stride : Word) (i : Nat) : Nat :=
  let v : Int := base.toNat + i * stride.toInt
  if v < 0 then 2 ^ 64 else v.toNat

/-- The source address of row `i`; none for a row of zeros (R260). -/
def Job.srcAt (j : Job) (i : Nat) : Option Nat :=
  match j.kind with
  | .gather _ _ =>
    let v := (j.idx.getD []).getD i 0
    if v = 0xFFFFFFFF then none else some (exactAt j.rec0 j.rec3 v)
  | _ => some (exactAt j.rec0 j.rec3 i)

/-- The destination address of row `i`. -/
def Job.dstAt (j : Job) (i : Nat) : Nat := exactAt j.rec1 j.rec4 i

/-- Scratchpad rows of a record row. -/
def Job.perRow (j : Job) : Nat := j.ext0 / 128

/-- The condition of a scratchpad range: rows outside the window (03 R55). -/
def outRows (t : Option Task) (a n : Nat) : List (Nat × Nat × Nat) :=
  match t with
  | none => []
  | some t => if t.win.rows < a / 128 + n then [(3, 1, a)] else []

/-- The row of a scratchpad that the linear row `p` of a copy lands in, from destination row `base`; one below 0 lies outside every window. -/
def Job.rowFor (j : Job) (base p : Nat) : Nat :=
  let v : Int := base * 128 + j.rec1.toNat + (p / j.perRow : Nat) * j.rec4.toInt
  (if v < 0 then 2 ^ 64 else v.toNat) / 128 + p % j.perRow

/-- The bank of a receiver's core that holds entry `e` for a context: B0 before B1 (R257). -/
def State.entryAt (s : State) (core ctx e : Nat) : Option (Nat × Task × Landing) :=
  [0, 1].findSome? fun b =>
    match s.task core b with
    | none => none
    | some t => if t.who.ctx ≠ ctx then none else (tfind t.as.lands e).map fun l => (b, t, l)

/-- Rows of record row `i` that lie outside the window of a receiver (R249, R256). -/
def State.recvOut (s : State) (j : Job) (i : Nat) (r : Recv) : List (Nat × Nat × Nat) :=
  let e := match j.kind with | .multi e _ _ => e | _ => 0
  let out (t : Option Task) (base : Nat) : List (Nat × Nat × Nat) := outRows t (j.rowFor base (i * j.perRow) * 128) j.perRow
  match r.st with
  | .waiting => match s.entryAt r.core j.ctx e with | none => [] | some (_, t, l) => out (some t) l.base.toNat
  | .landing => out ((s.task r.core r.bank).filter fun t => t.who.id == r.id) r.base
  | _ => []

/-- The conditions of row `i` (R249). -/
def State.rowConds (s : State) (j : Job) (i : Nat) : List (Nat × Nat × Nat) :=
  let t := s.jobTask j
  (match j.srcAt i with
    | none => []
    | some a => if j.srcG then s.secConds j.ctx .rd (sectorsOf a j.ext0) else outRows t a j.perRow) ++
  (if j.recvs.isEmpty then
    (if j.dstG then s.secConds j.ctx .wr (sectorsOf (j.dstAt i) j.ext0) else outRows t (j.dstAt i) j.perRow)
   else j.recvs.flatMap (s.recvOut j i))

/-! ### Errors (R265; 23 R454, R456) -/

/-- A page joins the list of retired pages once; a full list holds further retirements until the next reset (23 R455). A residency frame is
withdrawn, as a quarantined way's are, and the reservations are recomputed (R456, R458). -/
def State.retirePage (s : State) (pa : Nat) : State :=
  let p := pa / 65536 * 65536
  if s.nv.retired.contains p then s
  else if 4096 ≤ s.nv.retired.length then
    { s with nv := { s.nv with dueReturn := true, waiting := if s.nv.waiting.contains p then s.nv.waiting else s.nv.waiting ++ [p] } }
  else
    let s1 : State := { s with nv := { s.nv with retired := s.nv.retired ++ [p] } }
    if isResidencyOff (offOf p) then s1.recompute else s1

/-- F3 retires the page of an error's physical address, when this device has it; while F3 is hung the retirement waits (23 R456,
R463). -/
def State.retireAt (s : State) (pa : Nat) : State :=
  if chipOf pa ≠ s.pod.chip.toNat || isHostOff (offOf pa) then s
  else if s.fen.alive.getLsbD 3 then s.retirePage pa
  else { s with fen := { s.fen with later := s.fen.later ++ [(some pa, 0, 0xFF)] } }

/-- The record of a machine error at a physical address, in device memory or the L2, whose page the state has retired if it could. -/
def errRecord (s : State) (code : BitVec 8) (pa st : Nat) : FaultRec :=
  { FaultRec.blank s.dt 2 code 0 with
    pa := pa, action := if s.nv.retired.contains (pa / 65536 * 65536) then 2 else 0, struct_ := st, slice := homeSlice pa, sector := pa / 32 % 8,
    set := pa / 256 % 4096 }

/-- The record of an uncorrectable error met in a copy's global source, and the retirement of its page. -/
def State.sourceError (s : State) (ctx sec sub : Nat) : State :=
  let pa := s.homeSec ctx sec * 32
  let s1 := (s.meetPoison ctx sec sub).retireAt pa
  let r := errRecord s1 3 pa (if sub = 7 then memStruct pa else 2)
  (s1.addFault r).postFault r

/-- A source error at row `got` (R265): no further row is read; a global destination ends there, and the rows of a scratchpad
destination not landed become POISON. -/
def Job.fail (j : Job) (code : BitVec 4) : Job :=
  let j1 := { j with err := some code, part := [] }
  if j.dstG then { j1 with st := .done } else j1

/-! ### Reading a row -/

/-- What a move of a job gives: progress, or a wait. -/
abbrev Move := Option State

/-- A whole row read, kept until it has been written everywhere. -/
def Job.gotRow (j : Job) (l : List (BitVec 256)) : Job :=
  { j with got := j.got + 1, buf := tins j.buf j.got l, part := [] }

/-- The four sectors of a scratchpad row. -/
def rowSectors (r : Row) : List (BitVec 256) := (List.range 4).map fun k => r.extractLsb' (256 * k) 256

/-- One scratchpad source row read (R255): SRCW waits for its tag, a POISON row or an uncorrectable error ends the copy,
SRCC empties it, once it is not reserved (08 R199). The copy of an uncorrectable error does not trap, and the owner ends (23 R448). -/
def readScratch (s : State) (n : Nat) (j : Job) (a : Nat) : Move :=
  let v := a / 128 + j.part.length / 4
  let done (s : State) (r : Row) : State :=
    let p := j.part ++ rowSectors r
    s.putJob n (if p.length * 32 = j.ext0 then j.gotRow p else { j with part := p })
  match s.jobTask j with
  | none => none
  | some t =>
    let r := t.row v
    if (j.srcw && r.seen = .empty) || (j.srcc && t.reserved v) then none
    else if r.seen = .poison then some (s.putJob n (j.fail 2))
    else if r.ue ≠ 0 then
      let f := { FaultRec.blank s.dt 2 3 0 with core := j.core, bank := j.bank, struct_ := 3, task := j.id, elem := v }
      some ((s.putJob n (j.fail 1)).terminate j.ctx f)
    else some (done (if j.srcc then s.putJobTask j (t.setTag v .empty) else s) r.data)

/-- A whole global source row read as the cluster's egress point saw it when the copy issued (09 R232). -/
def readGlobal (s : State) (n : Nat) (j : Job) (a : Nat) : Move :=
  if s.linesHeld j.ctx (sectorsOf a j.ext0) then none else
  match s.readSecs (some j.cluster) j.ctx j.snap (sectorsOf a j.ext0) with
  | .error e => some ((s.sourceError j.ctx e.1 e.2).putJob n (j.fail 1))
  | .ok l => some (s.putJob n (j.gotRow l))

/-- The next row read, after the tests of R249. -/
def readRow (s : State) (n : Nat) (j : Job) : Move :=
  match (if j.part.isEmpty then firstCond (s.rowConds j j.got) else none) with
  | some (c, k, va) => some (s.jobCond n j c k va)
  | none =>
    match j.srcAt j.got with
    | none => some (s.putJob n (j.gotRow (List.replicate (j.ext0 / 32) 0)))
    | some a => if j.srcG then readGlobal s n j a else readScratch s n j a

/-- The index list of a gather read in its entirety (R260), as its cluster saw it when the copy issued (09 R232). -/
def readIdx (s : State) (n : Nat) (j : Job) : Move :=
  let va := j.rec5.toNat
  let vas := sectorsOf va (4 * j.ext1)
  match firstCond (s.secConds j.ctx .rd vas) with
  | some (c, k, a) => some (s.jobCond n j c k a)
  | none =>
    match s.readSecs (some j.cluster) j.ctx j.snap vas with
    | .error e => some ((s.sourceError j.ctx e.1 e.2).putJob n (j.fail 1))
    | .ok ds =>
      let l := (ds.flatMap fun d => (List.range 32).map fun i => sectorByte d i).drop (va % 32)
      some (s.putJob n { j with idx := some ((List.range j.ext1).map fun i => bytesNat ((l.drop (4 * i)).take 4)) })

/-! ### Writing and landing a row (R255, R261, R265) -/

/-- The data of linear scratchpad row `p`, when its record row has been read. -/
def Job.dataFor (j : Job) (p : Nat) : Option Row :=
  match tfind j.buf (p / j.perRow) with
  | none => none
  | some l =>
    let k := p % j.perRow * 4
    some (BitVec.ofNat 1024 (rowNat 256 ((List.range 4).map fun i => (l.getD (k + i) 0).toNat)))

/-- A landing of linear row `p` in a task: it waits while the row is reserved, and with WAITE while it is FULL; its data make
it FULL, and after a source error it becomes POISON and keeps its bytes. -/
def landRow (t : Task) (j : Job) (v : Nat) (d : Option Row) : Option Task :=
  match d with
  | some r =>
    if t.reserved v || (j.waite && (t.row v).seen = .full) then none
    else some ((t.setRow v r (BitVec.allOnes 1024)).setTag v .full)
  | none => if t.reserved v then none else some (t.setTag v .poison)

/-- Whether linear row `p` may land: its data have been read, or a source error has ended the reading. -/
def Job.mayLand (j : Job) (p : Nat) : Bool := (j.dataFor p).isSome || j.err.isSome

/-- The job after linear row `p` of a plain copy has landed. -/
def Job.landed (j : Job) (p : Nat) : Job :=
  let i := p / j.perRow
  let last := decide (p % j.perRow + 1 = j.perRow)
  let good := (j.dataFor p).isSome
  let j1 := { j with put := p + 1, rows := if last && good then j.rows + 1 else j.rows,
                     buf := if last then tdel j.buf i else j.buf }
  if p + 1 = j.ext1 * j.perRow then { j1 with st := .done } else j1

/-- The next scratchpad row of a plain copy or gather landed. -/
def landPlain (s : State) (n : Nat) (j : Job) : Move :=
  let p := j.put
  if !j.mayLand p then none
  else
    match s.jobTask j with
    | none => none
    | some t =>
      let v := j.rowFor 0 p
      if t.win.rows ≤ v then some (s.jobTrap n j 3 1)
      else
        match landRow t j v (j.dataFor p) with
        | none => none
        | some t1 => some ((s.putJobTask j t1).putJob n (j.landed p))

/-- The physical sectors of some addresses, and a mask of their devices. -/
def State.placesOf (s : State) (ctx : Nat) (vas : List Nat) : List Nat × BitVec 64 :=
  vas.foldl (fun (e : List Nat × BitVec 64) va =>
    match s.xlate ctx va .wr false with
    | .ok pa _ => (e.1 ++ [pa / 32], e.2 ||| (1 <<< chipOf pa : BitVec 64))
    | .bad _ _ => e) ([], 0)

/-- The next row of a global destination written at its home, behind the cluster's earlier writes; a later row reads what it has written
(R248). -/
def writeGlobal (s : State) (n : Nat) (j : Job) : Move :=
  match tfind j.buf j.rows with
  | none => none
  | some l =>
    let vas := sectorsOf (j.dstAt j.rows) j.ext0
    let ws := (vas.zip l).map fun e => (e.1, BitVec.allOnes 32, e.2)
    if s.linesHeld j.ctx vas then none else
    match (s.drainEgress j.cluster).writeSecs j.ctx ws with
    | .bad c k va => some (s.jobCond n j c k va)
    | .ok s1 =>
      let (secs, chips) := s.placesOf j.ctx vas
      let kept := match tfind s1.jobs n with | some j1 => j1.snap | none => []
      let j1 := { j with rows := j.rows + 1, buf := tdel j.buf j.rows, chips := j.chips ||| chips,
                         snap := kept.filter fun e => !secs.contains e.1 }
      some (s1.putJob n (if j1.rows = j.ext1 then { j1 with st := .done } else j1))

/-! ### Multicasts (R256-R258) -/

/-- A receiver that still takes part. -/
def Recv.active (r : Recv) : Bool := r.st == .waiting || r.st == .landing

/-- Rows read that no receiver still needs leave the buffer. -/
def Job.trim (j : Job) : Job :=
  { j with buf := j.buf.filter fun e => j.recvs.any fun r => r.active && decide (r.put / j.perRow ≤ e.1) }

/-- A receiver replaced. -/
def Job.setRecv (j : Job) (i : Nat) (r : Recv) : Job := { j with recvs := j.recvs.set i r }

/-- The signal of a job: an add to a slot, as a release (R262); an id that names no slot is ADDR 0x05 for the job's task
(R249, 11 R275). -/
def State.jobSignal (s : State) (n : Nat) (j : Job) (slot : BitVec 22) (v : BitVec 32) : State :=
  if 768 ≤ idCore slot || !s.inPod (idChip slot) then
    fatalFor s j.core j.bank j.id j.ctx 3 5 j.pc fun r =>
      { r with slice := j.cluster, way := j.w, set := match j.walk with | some w => w.pc | none => 0 }
  else
    s.sendSem { src := .signal j.cluster j.w (match j.walk with | some w => w.pc | none => 0) n, core := j.core, bank := j.bank, id := j.id, pc := j.pc, ctx := j.ctx, slot := 0, op := .add v,
                own := false, due := 0 } slot

/-- A receiver's next row (R256): at its first it takes its landing entry; with its last it signals the entry's slot. DONE counts the rows of
every receiver, also beside a source error (DESIGN CHOICE, log 108: R264 says summed over receivers, R265 says e). -/
def landRecv (s : State) (n : Nat) (j : Job) (i : Nat) (r : Recv) (e : Nat) : Move :=
  if !r.active || !j.mayLand r.put then none
  else
    match r.st with
    | .waiting =>
      match s.entryAt r.core j.ctx e with
      | none => some (s.putJob n (j.setRecv i { r with st := .noland }).trim)
      | some (b, t, l) =>
        some (s.putJob n (j.setRecv i { r with st := .landing, bank := b, id := t.who.id, base := l.base.toNat, slot := l.slot }))
    | _ =>
      match s.task r.core r.bank with
      | none => some (s.putJob n (j.setRecv i { r with st := .noland }).trim)
      | some t =>
        if t.who.id ≠ r.id then some (s.putJob n (j.setRecv i { r with st := .noland }).trim)
        else
          let v := j.rowFor r.base r.put
          if t.win.rows ≤ v then some (s.jobTrap n j 3 1)
          else
            match landRow t j v (j.dataFor r.put) with
            | none => none
            | some t1 =>
              let p := r.put + 1
              let full := decide (p = j.ext1 * j.perRow)
              let whole := decide (p % j.perRow = 0) && (j.dataFor r.put).isSome
              let j1 := { (j.setRecv i { r with put := p, st := if full then .done else .landing }) with
                rows := if whole then j.rows + 1 else j.rows }
              let s1 := (s.putTask r.core r.bank t1).putJob n j1.trim
              some (if full then s1.jobSignal n j r.slot 1 else s1)

/-- The first receiver that can move. -/
def landFirst (s : State) (n : Nat) (j : Job) (e : Nat) : Nat → List Recv → Move
  | _, [] => none
  | i, r :: rs =>
    match landRecv s n j i r e with
    | some s1 => some s1
    | none => landFirst s n j e (i + 1) rs

/-- A move of a multicast: it ends once every receiver has; a receiver without entry makes the token ERR NOLAND. -/
def moveMulti (s : State) (n : Nat) (j : Job) (e : Nat) : Move :=
  if !j.recvs.any Recv.active then
    let j1 := { j with st := .done,
                       err := if j.err.isNone && j.recvs.any (fun r => r.st == .noland) then some 3 else j.err }
    some (s.putJob n j1)
  else
    match landFirst s n j e 0 j.recvs with
    | some s1 => some s1
    | none =>
      if j.err.isNone && decide (j.got < j.ext1) && j.recvs.any fun r => r.active && decide (j.got ≤ r.put / j.perRow) then
        readRow s n j
      else none

/-! ### Loads of the control store (R268, R269) -/

/-- The partition of a context in a cluster's control store. -/
def State.partition (s : State) (cl ctx : Nat) : Nat := (s.cluster cl).ctxs.findIdx (· == ctx)

/-- Words written into a partition. -/
def putStore (st : Tab (BitVec 16)) (k : Nat) : List (BitVec 16) → Tab (BitVec 16)
  | [] => st
  | w :: ws => putStore (tset 0 st k w) (k + 1) ws

/-- Bytes as walker words. -/
def walkWords : Nat → List Byte → List (BitVec 16)
  | 0, _ => []
  | n + 1, l => BitVec.ofNat 16 (bytesNat (l.take 2)) :: walkWords n (l.drop 2)

/-- Walk programs of the context on the router that were accepted earlier (R269). -/
def State.walksBefore (s : State) (n : Nat) (j : Job) : Bool :=
  s.jobs.any fun e => decide (e.1 < n) && e.2.cluster == j.cluster && e.2.ctx == j.ctx && e.2.kind == .walk

/-- Loads of the context on the router that were accepted earlier: a walk waits for them. -/
def State.loadsBefore (s : State) (n : Nat) (j : Job) : Bool :=
  s.jobs.any fun e => decide (e.1 < n) && e.2.cluster == j.cluster && e.2.ctx == j.ctx && e.2.kind == .load

/-- A load's words put into the partition, once no earlier walk program runs or waits; DONE is then 1 (DESIGN CHOICE, log 107: R264 counts
rows and launches only). -/
def moveLoad (s : State) (n : Nat) (j : Job) : Move :=
  if s.walksBefore n j then none
  else
    match s.readRange (some j.cluster) j.ctx j.rec0.toNat (2 * j.ext0) with
    | .bad c k va => some (s.jobCond n j c k va)
    | .poison sec k => some ((s.sourceError j.ctx sec k).putJob n { j with err := some 1, st := .done })
    | .bytes l =>
      let c := s.cluster j.cluster
      let base := s.partition j.cluster j.ctx * 256 + j.rec1.toNat
      some ((s.putCluster j.cluster { c with store := putStore c.store base (walkWords j.ext0 l) }).putJob n
        { j with st := .done, rows := 1 })

/-! ### The events of a copy (R248, R263) -/

/-- One move of a running job. -/
def moveJob (s : State) (n : Nat) (j : Job) : Move :=
  match j.kind with
  | .walk => none
  | .load => moveLoad s n j
  | .multi e _ _ => moveMulti s n j e
  | _ =>
    if (match j.kind with | .gather _ _ => j.idx.isNone && j.err.isNone | _ => false) then readIdx s n j
    else if !j.dstG && j.err.isSome then landPlain s n j
    else if j.got = j.rows && decide (j.got < j.ext1) then readRow s n j
    else if j.dstG then writeGlobal s n j
    else landPlain s n j

/-- Moves until a row is wholly written, or the job waits, is held or ends. -/
def moveRow : Nat → Nat → State → State
  | 0, _, s => s
  | f + 1, r, s =>
    match tfind s.jobs s.job with
    | none => s
    | some j =>
      if j.st != .running || decide (r < j.rows) then s
      else
        match moveJob s s.job j with
        | none => s
        | some s1 => moveRow f r s1

/-- COPY_ROW (R248): the walker moves the next row of the acting job. Nothing is moved for a context that terminates
(R249). -/
def execCopyRow (s : State) : Out :=
  match tfind s.jobs s.job with
  | none => .next s
  | some j =>
    let c := s.ctx j.ctx
    if c.term.isSome then .next s else .next (moveRow (2 * j.perRow + 4 + 2 * j.recvs.length) j.rows s)

/-- The token of a job takes its outcome in the issuing task, in its bank or saved (R263, R266). -/
def Task.endTok (t : Task) (n : Nat) (j : Job) : Task :=
  let f (k : Nat) (x : Token) : Token :=
    if x.job = n && x.st == .pending && decide (k < 8) then
      match j.err with
      | none => { x with st := .ok, done := BitVec.ofNat 32 j.rows }
      | some e => { x with st := .err, errc := e, done := BitVec.ofNat 32 j.rows }
    else x
  (t.onA fun a => { a with toks := tmap a.toks f }).splitDone

/-- A change of the task with an id, wherever it stands. -/
def State.onTaskId (s : State) (id : BitVec 32) (f : Task → Task) : State :=
  { s with
    tasks := tmap s.tasks fun _ t => if t.who.id = id then f t else t
    fe := { s.fe with saved := tmap s.fe.saved fun _ v =>
      if v.task.who.id = id then let t := f v.task; { v with task := t, ready := v.ready || (v.task.susp.isSome && t.susp.isNone) } else v } }

/-- The SIG of a `cpy` (R255). -/
def Job.sig (j : Job) : Bool := match j.kind with | .copy _ _ _ _ g => g | _ => false

/-- Signals of a job that have not performed. -/
def State.signalsOut (s : State) (n : Nat) : Bool :=
  let mine (m : SemMsg) : Bool := match m.src with | .signal _ _ _ k => k == n | _ => false
  s.cores.any (fun c => c.2.inbox.any mine) || s.pod.sems.any mine

/-- TOKEN_COMPLETE (R262, R263): the acting job has ended; once its writes have performed its signal is sent, and once its signals have
performed its token leaves PENDING, unless `tok` has completed it. -/
def execTokenComplete (s : State) : Out :=
  match tfind s.jobs s.job with
  | none => .next s
  | some j =>
    let s1 := s.flushPeers
    let close (s : State) : State :=
      if s.signalsOut s.job then s
      else
        let early := match j.walk with | some w => w.tokd | none => false
        let s2 := if early then s else s.onTaskId j.id fun t => t.endTok s.job j
        s2.dropJob s.job
    match j.st with
    | .done =>
      if s1.stuckOut j.ctx .pod j.chips then .next s
      else
        let s2 := s1.putJob s.job { j with st := .ending }
        .next (close (if j.sig then s2.jobSignal s.job j (idOf j.rec5) 1 else s2))
    | .ending => .next (close s1)
    | _ => .next s

end Sys2Proof.Machine
end

