-- ==== Sys2Proof/Machine/Walk.lean ====
section
/-! DEFINITION. Walk programs (10 R268-R273): launching one, permits, the 22 walker words, and the launches of `fetch`, `send`
and `write`. -/

namespace Sys2Proof.Machine

/-! ### Launching and pacing (R270, R273) -/

/-- The state of a fresh walk program (R270). -/
def freshWalk (t : Task) (a : WalkArgs) : Walk :=
  { pc := a.entry.toNat, stack := ((List.range a.npar.toNat).map fun k => t.recReg a.rg k).reverse, loops := [], rets := [],
    stage := [], permits := 0, chain := if a.chen then some a.chain.toNat else none, tokd := false, launch := none }

/-- WALK (R270). -/
def execWalk (a : WalkArgs) (s : State) : Out :=
  memSlot s a.wait fun t =>
    if 6 < a.npar.toNat then ill s 2
    else hand s t a.k { newJob s t a.k a.w .walk with walk := some (freshWalk t a) }

/-- PERMIT (R273): the counter saturates; without a walk program bound to the token the permit is discarded. -/
def execPermit (wait : BitVec 8) (k : BitVec 3) (n : BitVec 16) (s : State) : Out :=
  memSlot s wait fun t =>
    let x := t.tok k.toNat
    let s1 : State :=
      if x.st == .pending then
        { s with jobs := tmod s.jobs x.job fun j =>
            { j with walk := j.walk.map fun w => { w with permits := min (w.permits + n.toNat) (2 ^ 32 - 1) } } }
      else s
    finishA s1 t

/-! ### Words (R271) -/

/-- A walker word's effect on the acting job. -/
def onWalk (s : State) (f : Job → Walk → State) : Out :=
  match tfind s.jobs s.job with
  | none => .fault .noWalk
  | some j =>
    match j.walk with
    | none => .fault .noWalk
    | some w => .next (f j w)

/-- WALK with a subcode (R272). -/
def walkTrap (s : State) (j : Job) (sub : Nat) : State := s.jobTrap s.job j 7 sub

/-- The program goes on with the next word. -/
def walkNext (s : State) (j : Job) (w : Walk) : State := s.putJob s.job { j with walk := some { w with pc := w.pc + 1 } }

/-- A push: WALK 0x03 when the stack holds 8 entries. -/
def walkPush (s : State) (j : Job) (w : Walk) (v : Word) : State :=
  if 8 ≤ w.stack.length then walkTrap s j 3 else walkNext s j { w with stack := v :: w.stack }

/-- An operation that pops one entry. -/
def pop1 (s : State) (f : Job → Walk → Word → State) : Out :=
  onWalk s fun j w =>
    match w.stack with
    | b :: r => f j { w with stack := r } b
    | [] => walkTrap s j 3

/-- An operation that pops two entries, `a` below the top `b`. -/
def pop2 (s : State) (f : Job → Walk → Word → Word → State) : Out :=
  onWalk s fun j w =>
    match w.stack with
    | b :: a :: r => f j { w with stack := r } a b
    | _ => walkTrap s j 3

/-- WALKER_LIT (R271). -/
def execWalkerLit (v : BitVec 15) (s : State) : Out := onWalk s fun j w => walkPush s j w (v.setWidth 64)

/-- WALKER_LITX (R271). -/
def execWalkerLitx (v : BitVec 10) (s : State) : Out :=
  pop1 s fun j w b => walkPush s j w ((b <<< 10) ||| v.setWidth 64)

/-- WALKER_DUP (R271). -/
def execWalkerDup (s : State) : Out :=
  onWalk s fun j w =>
    match w.stack with
    | b :: _ => walkPush s j w b
    | [] => walkTrap s j 3

/-- WALKER_DROP (R271). -/
def execWalkerDrop (s : State) : Out := pop1 s fun j w _ => walkNext s j w

/-- WALKER_SWAP (R271). -/
def execWalkerSwap (s : State) : Out := pop2 s fun j w a b => walkNext s j { w with stack := a :: b :: w.stack }

/-- WALKER_OVER (R271). -/
def execWalkerOver (s : State) : Out :=
  onWalk s fun j w =>
    match w.stack with
    | _ :: a :: _ => walkPush s j w a
    | _ => walkTrap s j 3

/-- WALKER_ADD (R271). -/
def execWalkerAdd (s : State) : Out := pop2 s fun j w a b => walkPush s j w (a + b)

/-- WALKER_SUB (R271). -/
def execWalkerSub (s : State) : Out := pop2 s fun j w a b => walkPush s j w (a - b)

/-- WALKER_MUL (R271). -/
def execWalkerMul (s : State) : Out := pop2 s fun j w a b => walkPush s j w (a * b)

/-- WALKER_SHL (R271). -/
def execWalkerShl (s : State) : Out := pop2 s fun j w a b => walkPush s j w (a <<< (b.toNat % 64))

/-- WALKER_AND (R271). -/
def execWalkerAnd (s : State) : Out := pop2 s fun j w a b => walkPush s j w (a &&& b)

/-- WALKER_LOOP (R271): a count of zero skips the body. -/
def execWalkerLoop (v : BitVec 10) (s : State) : Out :=
  pop1 s fun j w c =>
    if c = 0 then s.putJob s.job { j with walk := some { w with pc := w.pc + v.toNat + 1 } }
    else if 4 ≤ w.loops.length then walkTrap s j 4
    else walkNext s j { w with loops := (c, w.pc + 1) :: w.loops }

/-- WALKER_ENDL (R271). -/
def execWalkerEndl (s : State) : Out :=
  onWalk s fun j w =>
    match w.loops with
    | [] => walkTrap s j 4
    | (c, start) :: r =>
      if c - 1 = 0 then walkNext s j { w with loops := r }
      else s.putJob s.job { j with walk := some { w with loops := (c - 1, start) :: r, pc := start } }

/-- A global launch's limits (R271). -/
def launchBad (o : BitVec 10) (addr len : Word) : Bool :=
  len.toNat % 32 ≠ 0 || decide (len.toNat < 32) || decide (4096 < len.toNat) || addr.toNat % 32 ≠ 0 ||
    decide (32768 < 32 * o.toNat + len.toNat)

/-- A launch starts; the program goes on once it completes. -/
def walkLaunch (s : State) (j : Job) (w : Walk) (l : WLaunch) : State := walkNext s j { w with launch := some l }

/-- WALKER_FETCH (R271). -/
def execWalkerFetch (v : BitVec 10) (s : State) : Out :=
  pop2 s fun j w addr len =>
    if launchBad v addr len then walkTrap s j 6 else walkLaunch s j w (.fetch v.toNat addr.toNat len.toNat)

/-- WALKER_SEND (R271). -/
def execWalkerSend (v : BitVec 10) (s : State) : Out :=
  pop2 s fun j w row m =>
    if m = 0 || 32 < m.toNat || 32768 < 32 * v.toNat + 128 * m.toNat then walkTrap s j 6
    else walkLaunch s j w (.send v.toNat row.toNat m.toNat)

/-- WALKER_WRITE (R271). -/
def execWalkerWrite (v : BitVec 10) (s : State) : Out :=
  pop2 s fun j w addr len =>
    if launchBad v addr len then walkTrap s j 6 else walkLaunch s j w (.write v.toNat addr.toNat len.toNat)

/-- WALKER_AWAIT (R271): without permits enough the program waits at the word. -/
def execWalkerAwait (v : BitVec 10) (s : State) : Out :=
  onWalk s fun j w =>
    if v = 0 then walkTrap s j 6
    else if w.permits < v.toNat then s
    else walkNext s j { w with permits := w.permits - v.toNat }

/-- WALKER_SIGNAL (R262, R271): the program's earlier writes have performed, since each launch completes first. -/
def execWalkerSignal (v : BitVec 10) (s : State) : Out :=
  pop1 s fun j w id => (walkNext s j w).jobSignal s.job j (idOf id) (v.setWidth 32)

/-- WALKER_TOK (R263, R271): the token completes, once the program's signals have performed; a second `tok` does nothing. -/
def execWalkerTok (v : BitVec 10) (s : State) : Out :=
  onWalk s fun j w =>
    if (1 ≤ v.toNat && v.toNat ≤ 7) || 15 < v.toNat then walkTrap s j 1
    else if w.tokd then walkNext s j w
    else if s.signalsOut s.job then s
    else
      let j1 := { j with err := if v = 0 then none else some (v.setWidth 4) }
      (walkNext s j { w with tokd := true }).onTaskId j.id fun t => t.endTok s.job j1

/-- WALKER_CALL (R271). -/
def execWalkerCall (v : BitVec 10) (s : State) : Out :=
  onWalk s fun j w =>
    if 4 ≤ w.rets.length then walkTrap s j 4
    else if 255 < v.toNat then walkTrap s j 5
    else s.putJob s.job { j with walk := some { w with rets := (w.pc + 1) :: w.rets, pc := v.toNat } }

/-- WALKER_RET (R271). -/
def execWalkerRet (s : State) : Out :=
  onWalk s fun j w =>
    match w.rets with
    | [] => walkTrap s j 4
    | a :: r => s.putJob s.job { j with walk := some { w with rets := r, pc := a } }

/-- WALKER_HALT (R270): the program continues once at CHAIN, or ends. -/
def execWalkerHalt (s : State) : Out :=
  onWalk s fun j w =>
    match w.chain with
    | some c => s.putJob s.job { j with walk := some { w with pc := c, chain := none, loops := [], rets := [] } }
    | none => s.putJob s.job { j with st := .done }

/-! ### Launches (R261, R271) -/

/-- Bytes of the staging buffer. -/
def Walk.staged (w : Walk) (o n : Nat) : List Byte := (List.range n).map fun k => tget 0 w.stage (32 * o + k)

/-- Bytes written into the staging buffer. -/
def putStage (st : Tab Byte) (k : Nat) : List Byte → Tab Byte
  | [] => st
  | b :: bs => putStage (tset 0 st k b) (k + 1) bs

/-- A launch has completed: DONE counts it (R264). -/
def launchOver (s : State) (j : Job) (w : Walk) : State :=
  s.putJob s.job { j with rows := j.rows + 1, walk := some { w with launch := none } }

/-- A `fetch` (R271): an error in its source ends the program with ERRC SRCUE (R265; 23 R448). -/
def runFetch (s : State) (j : Job) (w : Walk) (o addr len : Nat) : State :=
  match s.readRange (some j.cluster) j.ctx addr len with
  | .bad c k va => s.jobCond s.job j c k va
  | .poison sec k =>
    (s.sourceError j.ctx sec k).putJob s.job { j with err := some 1, st := .done, walk := some { w with launch := none } }
  | .bytes l => launchOver s j { w with stage := putStage w.stage (32 * o) l }

/-- The next row of a `send` (R261, R271). -/
def runSend (s : State) (j : Job) (w : Walk) (o row m : Nat) : State :=
  let next (s : State) : State :=
    if m ≤ 1 then launchOver s j w else s.putJob s.job { j with walk := some { w with launch := some (.send (o + 4) (row + 1) (m - 1)) } }
  match s.jobTask j with
  | none => s
  | some t =>
    if t.win.rows ≤ row then s.jobTrap s.job j 3 1
    else if t.reserved row then s
    else
      next (s.putJobTask j
        ((t.setRow row (BitVec.ofNat 1024 (bytesNat (w.staged o 128))) (BitVec.allOnes 1024)).setTag row .full))

/-- A `write` (R271), behind the cluster's earlier writes; one whose bytes are on their way to a device without a route is not complete. -/
def runWrite (s : State) (j : Job) (w : Walk) (o addr len : Nat) : State :=
  match (s.drainEgress j.cluster).writeRange j.ctx addr (w.staged o len) with
  | .bad c k va => s.jobCond s.job j c k va
  | .ok s1 =>
    let s2 := s1.flushPeers
    let j1 := { j with chips := j.chips ||| (s.placesOf j.ctx (sectorsOf addr len)).2 }
    if s2.stuckOut j1.ctx .pod j1.chips then s2.putJob s.job { j1 with walk := some { w with launch := some .wrote } }
    else launchOver s2 j1 w

/-- WALKER_LAUNCH_DONE (R271): the acting job's launch is carried out. Without one nothing happens. -/
def execWalkerLaunchDone (s : State) : Out :=
  match tfind s.jobs s.job with
  | none => .next s
  | some j =>
    let c := s.ctx j.ctx
    match j.walk with
    | none => .next s
    | some w =>
      if j.st != .running || c.term.isSome then .next s
      else
        match w.launch with
        | none => .next s
        | some (.fetch o a n) => .next (runFetch s j w o a n)
        | some (.send o r m) => .next (runSend s j w o r m)
        | some (.write o a n) => .next (runWrite s j w o a n)
        | some .wrote =>
          let s1 := s.flushPeers
          .next (if s1.stuckOut j.ctx .pod j.chips then s1 else launchOver s1 j w)

/-! ### What a walker does next (R270, R272) -/

/-- What the acting walk program does in its turn: wait, complete a launch, trap, or execute a word. -/
inductive WalkTurn where
  | idle
  | launch
  | bad (sub : Nat)
  | word (i : Instr)
  deriving DecidableEq, Repr

/-- The turn of a job's walk program: it does not run while held, while its context terminates, or before an earlier load
has completed (R269). -/
def State.walkTurn (s : State) (n : Nat) : WalkTurn :=
  match tfind s.jobs n with
  | none => .idle
  | some j =>
    let c := s.ctx j.ctx
    match j.walk with
    | none => .idle
    | some w =>
      if j.st != .running || c.term.isSome || s.loadsBefore n j then .idle
      else if w.launch.isSome then .launch
      else if 255 < w.pc then .bad 5
      else
        match decodeWalker (tget 0 (s.cluster j.cluster).store (s.partition j.cluster j.ctx * 256 + w.pc)) with
        | .ok i => .word i
        | .bad k => .bad k

end Sys2Proof.Machine
end

