-- ==== Sys2Proof/Machine/Tasks.lean ====
section
/-! DEFINITION. Tasks (11 R286-R295): stopping and cancelling a task, continuation records and their admission, `split`, `yield`
and `retire`, retirement, and the picker of a core's banks (03 R52). -/

namespace Sys2Proof.Machine

/-! ### Stopping (19 R410) -/

/-- A stalled `swait`, `swaitv` or `sacq` abandoned: recorded as not issued, with the rest of its group as it stood. -/
def Task.unissue (t : Task) (bit : BitVec 3) (w : SlotWait) : Task :=
  if t.as.issued != 0 then t.onA fun a => { a with issued := a.issued &&& ~~~bit, wait := none }
  else
    { t with a := { t.a with pc := w.pc },
             as := { t.as with issued := 7 ^^^ bit, nextpc := some t.a.pc, wait := none, group := bit } }

/-- The A-strand's stalled wait, if it has one, abandoned. -/
def Task.abandon (t : Task) : Task :=
  match t.as.wait with
  | none => t
  | some w =>
    match w.kind with
    | .swait _ => t.unissue 4 w
    | .swaitv _ => if t.susp == some .swaitv then t else t.unissue 4 w
    | .sacq _ => t.unissue 2 w
    | .split => t

/-- The compares of a task's abandoned wait, on their way or armed at another device, are taken back. -/
def State.unwait (s : State) (id : BitVec 32) : State :=
  let stays (m : SemMsg) : Bool := !(m.id == id && m.src == .strand && m.op == .wait)
  { s with
    cores := tmap s.cores fun _ c => { c with inbox := c.inbox.filter stays }
    pod := { s.pod with sems := s.pod.sems.filter stays } }

/-- A bank's task stops at a group boundary, and the writes due there perform (R412). -/
def State.stopTask (s : State) (core bank : Nat) (why : Option Susp) : State :=
  match s.task core bank with
  | none => s
  | some t =>
    let t1 := t.abandon.reachStop
    let s1 := if t.as.wait.isSome && t1.as.wait.isNone then s.unwait t.who.id else s
    s1.putTask core bank { t1 with susp := if why.isSome then why else t1.susp }

/-- A point of 03 R52 has been reached on a core: the picker prefers the standby bank. -/
def State.pointAt (s : State) (core : Nat) : State := s.putCore core { (s.core core) with switching := true }

/-! ### Ending a task (R292, R293) -/

/-- The join add of a task or record (R292): one operation of the front end on the join slot. -/
def State.joinAdd (s : State) (core bank : Nat) (id : BitVec 32) (ctx : Nat) (slot : BitVec 22) : State :=
  s.sendSem { src := .block 0, core := core, bank := bank, id := id, pc := 0, ctx := ctx, slot := 0, op := .add 1, own := false,
              due := 0 } slot

/-- The first chunk of an `mma` or `mmag` with a pop not made, if there is one. -/
def MmaJob.firstUnmade (j : MmaJob) : Option Nat :=
  let ety := j.args.ety.toNat
  let n := j.args.kch.toNat + 1
  let a := if j.args.ta then n else j.madeA / popsA ety
  let c := min a (j.madeB / popsB ety)
  if c < n then some c else none

/-- A flight of a strand that `retire` ends: accesses not yet made are never made, and the results that they feed do not
perform (R293). -/
def Flight.cut (f : Flight) : Flight :=
  match f.kind with
  | .mld slot d p _ m made rows => { f with kind := .mld slot d p made m made rows, lat := 2 * made }
  | .mst p m _ made rows => { f with kind := .mst p m [] made rows, lat := 2 * made }
  | .mma j =>
    match j.firstUnmade with
    | none => f
    | some c => { f with kind := .mma { j with dead := some c } }
  | _ => f

/-- Both strands ended as by `retire` (R293). -/
def Task.endBoth (t : Task) : Task :=
  let t1 := t.onX fun x => { x with flights := x.flights.map Flight.cut }
  { t1 with a := { t1.a with ended := true }, x := { t1.x with ended := true }, retiring := true,
            as := { t1.as with issued := 0, nextpc := none, group := 0 } }

/-- Whether a task's PARENT chain leads to a task; the fuel bounds the chain. -/
def leadsTo (tree : List (BitVec 32 × BitVec 32)) (root : BitVec 32) : Nat → BitVec 32 → Bool
  | 0, _ => false
  | n + 1, p =>
    if p = root then true
    else
      match tree.find? fun e => e.1 == p with
      | none => false
      | some e => leadsTo tree root n e.2

/-- The queued records of a launch that lead to a task, and those still waiting, retired without running (R293): each makes
its join add. -/
def State.retireTree (s : State) (launch : Nat) (root : BitVec 32) : State :=
  match tfind s.fe.launches launch with
  | none => s
  | some l =>
    let hit (r : Record) : Bool := leadsTo l.tree root (l.tree.length + 1) r.parent
    let gone := (l.recs ++ l.wait ++ l.cond).filter hit
    let l1 := { l with recs := l.recs.filter fun r => !hit r, wait := l.wait.filter fun r => !hit r,
                       cond := l.cond.filter fun r => !hit r }
    gone.foldl (fun s r => match r.join with | none => s | some j => s.joinAdd 0xFFFF 0 0 l.ctx j)
      { s with fe := { s.fe with launches := tins s.fe.launches launch l1 } }

/-! ### CANCEL (18 R403) -/

/-- The tokens of a task without that of a `samp` that waits for its engine: its request is dropped, with ERRC 0x4 (18 R395). -/
def Task.droppedSamp (t : Task) : Tab Token :=
  match t.as.samp with
  | none => t.as.toks
  | some h => tmap t.as.toks fun _ x => if x.job = h.job && x.st == .pending then { x with st := .err, errc := 4 } else x

/-- CANCEL taken at a cancellation point whose word is `pc`: the X-strand ends as by `end`, the A-strand goes on at
CANCELPC, one that had ended too (DEDUCED, log 111); without a cancel entry the task retires as by `retire.tree`. -/
def takeCancel (s : State) (core bank : Nat) (t : Task) (sub : BitVec 8) (pc : Word) : State :=
  let t1 := t.setTrap .a 8 sub.toNat pc
  let t2 : Task :=
    { t1 with
      a := { t1.a with pc := t.cancelpc, via := none, hold := none, ended := false }
      x := { t1.x with ended := true }
      as := { t1.as with issued := 0, nextpc := none, wait := none, gap := 0, group := 0, samp := none, toks := t1.droppedSamp }
      cancel := none, point := false, yielded := false }
  let s1 := if t.as.wait.isSome then s.unwait t.who.id else s
  if t.cancelpc = 0 then (s1.putTask core bank t2.endBoth).retireTree t.who.launch t.who.id else s1.putTask core bank t2

/-- A cancellation point that the executing word is: CANCEL is taken when it is pending, else `k`. -/
def atPoint (s : State) (t : Task) (k : State) : State :=
  match t.cancel with
  | some sub => takeCancel s s.cur.core s.cur.bank t sub (t.st s.cur.side).pc
  | none => k

/-! ### Records (R286-R291) -/

/-- A MASK outside R286. -/
def maskBad (v : Word) : Bool :=
  v.getLsbD 0 || decide (16 < ((List.range 64).filter fun j => v.getLsbD j).length)

/-- The values of the registers that a MASK names. -/
def Task.carried (t : Task) (v : Word) : List (Nat × Word) :=
  ((List.range 64).filter fun j => v.getLsbD j).map fun j => (j, t.rd .a (BitVec.ofNat 6 j))

/-- A stage of a launch. -/
def Launch.stage (l : Launch) (n : Nat) : Stage :=
  l.stages.getD n { aentry := 0, xentry := 0, cancel := 0, cap := 9, minc := 0, maxc := 0, n := 0, sprows := 0, actiles := 0, mregs := 0 }

/-- The entry that a record of a depth may take in its stage queue: none for a general one; no answer while both kinds are
taken (R291). -/
def Launch.entryFor (l : Launch) (stage depth : Nat) : Option (Option Nat) :=
  let q := l.recs.filter fun r => r.stage == stage
  let general := (q.filter fun r => r.entry.isNone).length
  if general < (l.stage stage).cap - 8 then some none
  else if q.any fun r => r.entry == some depth then none
  else some (some depth)

/-- The launch table with a launch replaced. -/
def State.putLaunch (s : State) (n : Nat) (l : Launch) : State :=
  { s with fe := { s.fe with launches := tins s.fe.launches n l } }

/-- ENQ (R290). -/
def execEnq (m sj : Reg) (stage : BitVec 4) (cls : BitVec 2) (hasCls join : Bool) (s : State) : Out :=
  semSlot s fun t =>
    let mask := t.rd .a m
    let jv := t.rd .a sj
    if decide (t.who.last < stage.toNat) || maskBad mask || (!join && sj != 0) || (join && jv.extractLsb' 22 42 != 0) then
      ill s 0x0E
    else if 7 ≤ t.who.depth then ill s 0x47
    else
      match (if join then s.idBad jv else none) with
      | some (c, k) => trapHere s c k
      | none =>
        match tfind s.fe.launches t.who.launch with
        | none => s.wait 1
        | some l =>
          match l.entryFor stage.toNat (t.who.depth + 1) with
          | none => s.wait 1
          | some e =>
            let r : Record :=
              { pc := (l.stage stage.toNat).aentry, vals := t.carried mask, parent := t.who.id, stage := stage.toNat,
                set := if hasCls then max cls.toNat t.cls.ceil else t.cls.set, depth := t.who.depth + 1,
                join := if join then some (idOf jv) else none, decls := [], mem := t.mem, cond := none, entry := e }
            finishA (s.putLaunch t.who.launch { l with recs := l.recs ++ [r] }) t

/-- RECORD_ADMISSION (R291): the first waiting record of the stage for which an entry is free enters its queue. -/
def execRecordAdmission (launch stage : Nat) (s : State) : Out :=
  match tfind s.fe.launches launch with
  | none => .next s
  | some l =>
    match l.wait.findSome? fun r => if r.stage == stage then (l.entryFor stage r.depth).map fun e => (r, e) else none with
    | none => .next s
    | some (r, e) => .next (s.putLaunch launch { l with recs := l.recs ++ [{ r with entry := e }], wait := l.wait.erase r })

/-- Tests of the fields of a `split` that its registers and immediates do not admit (R287). -/
def splitBad (c : BitVec 3) (slotw : Bool) (v : Word) : Bool :=
  (!slotw && c != 0) || decide (3 < c.toNat) || (slotw && v.extractLsb' 22 42 != 0)

/-- A record made by `split.any` joins its launch: one with a slot condition waits until it holds, else it enters its queue or waits for
admission (R288, R291). -/
def Launch.addSplit (l : Launch) (r : Record) : Launch :=
  if r.cond.isSome then { l with cond := l.cond ++ [r] }
  else
    match l.entryFor r.stage r.depth with
    | some e => { l with recs := l.recs ++ [{ r with entry := e }] }
    | none => { l with wait := l.wait ++ [r] }

/-- SPLIT_ANY (R287, R288): it waits until the X-strand has ended, makes the record, and ends the task without a join add. A slot
condition is compared at the slot's file, for the record. -/
def execSplitAny (m sj o : Reg) (c : BitVec 3) (slotw : Bool) (kw : BitVec 8) (s : State) : Out :=
  strongSem s fun t =>
    atPoint s t <|
      let v := t.rd .a sj
      let mask := t.rd .a m
      if kw != 0 || maskBad mask || splitBad c slotw v then ill s 0x0E
      else
        match (if slotw then s.idBad v else none) with
        | some (code, k) => trapHere s code k
        | none =>
          if !(t.x.ended && t.xs.flights.isEmpty && t.xs.array == 0) then s.wait 1
          else
            match tfind s.fe.launches t.who.launch with
            | none => s.wait 1
            | some l =>
              let w : SlotWait :=
                { kind := .split, slot := idOf v, cond := c, t := t.low o, phase := .sent, pc := t.a.pc }
              let r : Record :=
                { pc := t.a.pc + 1, vals := t.carried mask, parent := t.who.id, stage := t.who.stage, set := t.cls.set,
                  depth := t.who.depth, join := t.who.join, decls := t.as.decls, mem := t.mem,
                  cond := if slotw then some w else none, entry := none }
              let s1 := (s.putLaunch t.who.launch (l.addSplit r)).pointAt s.cur.core
              let t1 := { t with a := { t.a with ended := true }, who := { t.who with join := none }, retiring := true }
              if slotw then
                withRoute s t w.slot
                  (finishA (sendFrom s1 t .record w.slot .wait) (t1.onA fun a => { a with outst := a.outst + 1 }))
              else finishA s1 t1

/-- SPLIT_HERE (R287, R289): the task suspends in its bank until the condition holds. -/
def execSplitHere (sj o : Reg) (c : BitVec 3) (slotw : Bool) (kw : BitVec 8) (s : State) : Out :=
  strongSem s fun t =>
    atPoint s t <|
      let v := t.rd .a sj
      if splitBad c slotw v then ill s 0x0E
      else
        match (if slotw then s.idBad v else none) with
        | some (code, k) => trapHere s code k
        | none =>
          let (s1, t1) := if slotw then startWait s t (idOf v) .split c (t.low o) else (s, t)
          let go := finishA (s1.pointAt s.cur.core) (({ t1 with susp := some (.split kw) } : Task).splitDone)
          if slotw then withRoute s t (idOf v) go else go

/-- YIELD (R289): ready at once, and the picker decides which bank issues. -/
def execYield (s : State) : Out :=
  strongSem s fun t => atPoint s t (finishA (s.pointAt s.cur.core) { t with point := true, yielded := true })

/-- RETIRE (R293), a point at which the core may issue from the standby bank (03 R52). -/
def execRetire (tree : Bool) (s : State) : Out :=
  semSlot s fun t =>
    let s1 := finishA (s.pointAt s.cur.core) t.endBoth
    if tree then s1.retireTree t.who.launch t.who.id else s1

/-! ### Retirement (R292) and the picker (03 R52, R295) -/

/-- The conditions of R292. -/
def Task.drained (t : Task) : Bool :=
  t.a.ended && t.x.ended && t.xs.flights.isEmpty && t.xs.array == 0 && t.as.fill.isNone && t.as.outst == 0 &&
    t.as.awaited.isEmpty && t.as.wait.isNone && t.susp.isNone

/-- A task whose bank counts with N = 0: it has been signalled to halt for a save under 15 R327 (03 R67). -/
def Task.leaving (t : Task) : Bool := t.evict.isSome

/-- Registers that a task holds SPILLED, without those that count as saved (03 R66, R67). -/
def Task.spilledCount (t : Task) : Nat := (t.xs.slots.filter fun e => e.2.phys.isNone && !(t.evict.getD []).contains e.1).length

/-- The spill ways that a core reserves (03 R67): a leaving task counts with N = 0, and keeps those of its SPILLED registers. -/
def State.spillWays (s : State) (core : Nat) : Nat :=
  let n (b : Nat) : Nat := match s.task core b with | none => 0 | some t => if t.leaving then 0 else t.who.n
  let kept (b : Nat) : Nat := match s.task core b with | none => 0 | some t => if t.leaving then (t.spilledCount + 1) / 2 else 0
  (n 0 + n 1 - 96 + 1) / 2 + kept 0 + kept 1

/-- Every sibling of a group is to be tested for its release (18 R404). -/
def Group.testAll (g : Group) : Group := { g with sibs := g.sibs.map fun b => { b with test := true } }

/-- Shallot tests a sibling when a task of it retires (18 R404). -/
def State.testSib (s : State) (m : Member) : State :=
  match m.group with
  | none => s
  | some key =>
    { s with groups := tmod s.groups key fun g => { g with sibs := g.sibs.modify m.index fun b => { b with test := true } } }

/-- TASK_RETIREMENT (R292): the acting bank becomes empty; the join add releases the regions bound to the join slot. -/
def execTaskRetirement (s : State) : Out :=
  match s.here with
  | none => .next s
  | some t =>
    if !t.drained then .next s
    else
      let core := s.cur.core
      let s1 :=
        match t.who.join with
        | none => s
        | some j => (s.cleanL1 core .device (boundTo s t j)).joinAdd core s.cur.bank t.who.id t.who.ctx j
      let s2 := (({ s1 with tasks := tdel s1.tasks s.cur.key } : State).keepRetired t).testSib t.mem
      .next ((s2.setSpill core (s2.spillWays core)).pointAt core)

/-- Whether the picker leaves the issuing bank for the standby (03 R52, R295); strands that have ended by `end` keep their bank until the task
retires. -/
def State.prefers (s : State) (core : Nat) : Bool :=
  let c := s.core core
  match s.task core (1 - c.bank) with
  | none => false
  | some o =>
    o.ready &&
      match s.task core c.bank with
      | none => true
      | some t => c.switching || t.susp.isSome || t.stop.isSome || t.retiring || decide (o.cls.cur < t.cls.cur)

/-- BANK_SWITCH (R295; 03 R52): the acting core issues from its standby bank when the picker prefers it; nothing is
saved. -/
def execBankSwitch (s : State) : Out :=
  let n := s.cur.core
  let c := s.core n
  if s.prefers n then
    let s1 := s.stopTask n c.bank none
    .next (s1.putCore n { (s1.core n) with bank := 1 - c.bank, switching := false })
  else .next (s.putCore n { c with switching := false })

end Sys2Proof.Machine
end

