-- ==== Sys2Proof/Machine/Command.lean ====
section
/-! DEFINITION. Command queues (15 R313-R319, R490): doorbells, reading and checking a command, its buffers, status and
completion, the plain commands, and the graph parameters (15 R330). A command acts on the queue `FrontEnd.curq`. -/

namespace Sys2Proof.Machine

/-! ### Queues -/

/-- A queue. -/
def State.queue (s : State) (q : Nat) : Option CQueue := tfind s.fe.queues q

/-- The state with a queue replaced. -/
def State.putQueue (s : State) (q : Nat) (x : CQueue) : State := { s with fe := { s.fe with queues := tins s.fe.queues q x } }

/-- The state with a queue changed, if it exists. -/
def State.onQueue (s : State) (q : Nat) (f : CQueue → CQueue) : State :=
  { s with fe := { s.fe with queues := tmod s.fe.queues q f } }

/-- A function that is present: the physical one, context 0's virtual function, and in DEPLOYED the tenants' virtual functions 1 to 15
(01 R18; 25 R482; DEDUCED, log 112). -/
def State.present (s : State) (fn : Nat) : Bool := fn == 0 || fn == 16 || (decide (fn ≤ 15) && s.nv.lcs == 2)

/-- A function that owns a queue: that of its context, and the physical function for a queue created through it (R315). -/
def CQueue.ownedBy (x : CQueue) (fn : Nat) : Bool := fn == vfOf x.ctx || (fn == 0 && x.pf)

/-- A QERROR message (23 R461) to the physical function and to the owning context's function. -/
def State.qerror (s : State) (q cause : Nat) (x : CQueue) : State :=
  let m := { Msg.zero with src := 1, p1 := BitVec.ofNat 64 (q + 256 * cause), p2 := x.head.setWidth 64 }
  let s1 := s.post 0 3 m
  s1.post (vfOf x.ctx) 3 m

/-- What a read of a queue's doorbell returns: TAIL and HEAD (R315); a function that does not own the queue reads 0 (DESIGN CHOICE, log
112). -/
def State.doorbellRead (s : State) (fn q : Nat) : Word :=
  match s.queue q with
  | none => 0
  | some x => if x.ownedBy fn then (x.head ++ x.tail : BitVec 64) else 0

/-- A queue enters ERROR. -/
def State.failQueue (s : State) (q cause : Nat) (x : CQueue) : State :=
  (s.putQueue q { x with error := true }).qerror q cause x

/-- Commands that the ring holds (R315). -/
def CQueue.held (x : CQueue) : Nat := (x.tail - x.head).toNat

/-- DOORBELL (R315); `width` counts bits. A function that is not present has no doorbells (25 R482). -/
def execDoorbell (fn q : Nat) (width : Nat) (v : Word) (s : State) : Out :=
  match s.queue q with
  | none => .next s
  | some x =>
    let t : BitVec 32 := v.setWidth 32
    if width ≠ 64 || v.extractLsb' 32 32 != 0 || !x.ownedBy fn || !s.present fn then .next s
    else if x.size < (t - x.head).toNat || 2 ^ 31 ≤ (t - x.tail).toNat then .next (s.failQueue q 2 x)
    else .next (s.putQueue q { x with tail := t })

/-! ### Status and buffers (R316, R319, R490) -/

/-- The work of the current queue's command has ended with a status; one that takes no effect leaves the queue's PHASE as it was (R319,
R490). -/
def State.ended (s : State) (st : Nat) : State :=
  ({ s with decoders := tdel s.decoders s.fe.curq, opens := tdel s.opens s.fe.curq } : State).onQueue s.fe.curq fun x =>
    { x with run := x.run.map fun r => { r with status := some st },
             phase := if st = 0 then x.phase else match x.run with | some r => r.old | none => x.phase }

/-- The context of the current queue. -/
def State.curCtx (s : State) : Nat := match s.queue s.fe.curq with | some x => x.ctx | none => 0

/-- A SCOPE code that a command may hold (R316). -/
def scopeOk (v : BitVec 8) : Bool := v == 2 || v == 3 || v == 4

/-- The scope of a command. -/
def cmdScope (c : Cmd) : Scope := if c.scope = 2 then .device else if c.scope = 3 then .pod else .system

/-- A header field outside R316. -/
def cmdHeadBad (c : Cmd) : Bool :=
  c.flags.extractLsb' 2 6 != 0 || c.ceil.extractLsb' 2 6 != 0 || c.z != 0 || !scopeOk c.scope

/-- Bytes 40-63 of a command that are marked zero. -/
def cmdTailBad (c : Cmd) : Bool := c.w5 != 0 || c.w6 != 0 || c.w7 != 0

/-- A plain command: BADCMD for a bad field, else its effect. -/
def command (s : State) (bad : Bool) (k : State) : Out := .next (if bad then s.ended 6 else k)

/-- A central block is held at an address (16 R342, R344): F2 holds the condition once, with access kind 3. -/
def State.blockHeld (s : State) (ctx sub va : Nat) : State :=
  if (s.ctx ctx).faults.any fun f => f.core == 0xFFFF && f.va == va && f.job.isNone then s
  else
    s.holdFault ctx { sub := BitVec.ofNat 8 sub, chip := none, va := va, kind := 3, core := 0xFFFF, bank := 0, id := 0, at_ := s.dt.toNat,
                      saved := none, job := none }

/-- A buffer that a command reads (R490): it is held while a byte stands behind a condition of BACK, it ends with `st` where
a byte cannot be read, else `k` has the bytes. -/
def withBuffer (s : State) (va n st : Nat) (k : List Byte → State) : State :=
  if s.linesHeld s.curCtx (sectorsOf va n) then s else
  match s.readRange none s.curCtx va n with
  | .bad code sub a => if code = 4 then s.blockHeld s.curCtx sub a else s.ended st
  | .poison _ _ => s.ended st
  | .bytes l => k l

/-- What a central block's write for a context gives (16 R342): it has been made; or it is held, or the context ends. -/
inductive BlockWr where
  | made (s : State)
  | held (s : State)
  deriving DecidableEq, Repr

/-- A central block writes for a context (16 R342): held behind a condition of BACK; an address in no extent, or without
write permission, terminates the context and writes nothing. -/
def State.blockPut (s : State) (ctx : Nat) (id : BitVec 32) (va : Nat) (l : List Byte) : BlockWr :=
  if s.linesHeld ctx (sectorsOf va l.length) then .held s
  else
    match s.writeRange ctx va l with
    | .ok s1 => .made s1
    | .bad code sub a =>
      .held (if code = 4 then s.blockHeld ctx sub a
             else s.terminate ctx { FaultRec.blank s.dt 1 (BitVec.ofNat 8 code) (BitVec.ofNat 8 sub) with ctx := some ctx, task := id })

/-- One write of a central block, with what follows it. -/
def blockWrite (s : State) (ctx : Nat) (id : BitVec 32) (va : Nat) (l : List Byte) (k : State → State) : State :=
  match s.blockPut ctx id va l with
  | .made s1 => k s1
  | .held s1 => s1

/-- A central block's writes, made one after another from the `n`th on (16 R342): the number made, and the state. A held one stops
them there, and they go on from it. -/
def State.blockPuts (s : State) (ctx : Nat) (id : BitVec 32) : Nat → List (Nat × List Byte) → Nat × State × Bool
  | n, [] => (n, s, true)
  | n, w :: r =>
    match s.blockPut ctx id w.1 w.2 with
    | .made s1 => s1.blockPuts ctx id (n + 1) r
    | .held s1 => (n, s1, false)

/-- Little-endian words of a list of bytes; the fuel is their number. -/
def bytesWords : Nat → List Byte → List Word
  | 0, _ => []
  | n + 1, l => BitVec.ofNat 64 (bytesNat (l.take 8)) :: bytesWords n (l.drop 8)

/-! ### The plain commands (R317, R334) -/

/-- SETGP (R317). -/
def execSetgp (c : Cmd) (s : State) : Out :=
  command s (cmdHeadBad c || cmdTailBad c || decide (63 < c.a.toNat))
    ((s.onQueue s.fe.curq fun x => { x with gp := tset 0 x.gp c.a.toNat c.b }).ended 0)

/-- SPECDEPTH (R317). -/
def execSpecdepth (c : Cmd) (s : State) : Out :=
  command s (cmdHeadBad c || cmdTailBad c || decide (15 < c.a.toNat) || c.b != 0)
    (let n := s.curCtx
     (s.putCtx n { (s.ctx n) with specPend := c.a.setWidth 4 }).ended 0)

/-- FENCE_IB (R334): the model's front end holds no prefetched byte. -/
def execFenceIb (c : Cmd) (s : State) : Out := command s (cmdHeadBad c || cmdTailBad c || c.a != 0 || c.b != 0) (s.ended 0)

/-- WAIT (R317): it is taken again until the word has reached the target; the front end has no cache to acquire into. -/
def execWait (c : Cmd) (s : State) : Out :=
  command s (cmdHeadBad c || cmdTailBad c || c.a.toNat % 8 ≠ 0)
    (withBuffer s c.a.toNat 8 6 fun l => if c.b.toNat ≤ bytesNat l then s.ended 0 else s)

/-- SIGNAL (R317). -/
def execSignal (c : Cmd) (s : State) : Out := command s (cmdHeadBad c || cmdTailBad c || c.a != 0 || c.b != 0) (s.ended 0)

/-- A SLOTS entry (R320): slot, core, chip, REL, value. -/
structure SlotEntry where
  slot : Nat
  core : Nat
  chip : Nat
  rel : Bool
  v : BitVec 32
  deriving DecidableEq, Repr

/-- The fields of a SLOTS entry. -/
def slotEntry (w : Word) : SlotEntry :=
  { slot := (w.extractLsb' 0 6).toNat, core := (w.extractLsb' 6 10).toNat, chip := (w.extractLsb' 16 6).toNat,
    rel := w.getLsbD 22, v := w.extractLsb' 32 32 }

/-- A strand or a record waits on a slot of this device. -/
def State.waited (s : State) (id : BitVec 22) : Bool :=
  s.waits.any (fun e => e.2.slot == id && e.2.phase != .fired) || (s.core (idCore id)).monitors.any fun m => m.slot == idSlot id

/-- The conditions of SLOTFREE on its entries; whether another device's slots meet them is free. -/
def State.freeable (s : State) (es : List SlotEntry) : Bool :=
  es.all fun e =>
    if e.chip = s.pod.chip.toNat then
      (s.sem e.core e.slot).owner == s.curCtx && !s.waited (BitVec.ofNat 22 (e.chip * 65536 + e.core * 64 + e.slot))
    else Config.freeBool s.fresh

/-- A slot of the list has had its operation of this tick (11 R277). -/
def State.servedAny (s : State) (es : List SlotEntry) : Bool :=
  es.any fun e => e.chip == s.pod.chip.toNat && (s.core e.core).served.contains e.slot

/-- A slot freed in one operation of its file (11 R277). -/
def State.freeSlot (s : State) (e : SlotEntry) : State :=
  if e.chip = s.pod.chip.toNat then
    let s1 := s.putSem e.core e.slot Sem.zero
    s1.putCore e.core { (s1.core e.core) with served := e.slot :: (s1.core e.core).served }
  else s

/-- SLOTFREE (R317); the operations of the front end on its slots follow those of the cores and walkers of their cycle (11 R277), so a
slot that has had one waits for the next tick. A nonzero bit in [31:23] of an entry counts for nothing (DESIGN CHOICE, log 131), and a nonzero
byte of 20-23 makes the count bad (DESIGN CHOICE, log 146). -/
def execSlotfree (c : Cmd) (s : State) : Out :=
  let n := c.b.toNat
  command s (cmdHeadBad c || cmdTailBad c || c.a.toNat % 8 ≠ 0 || n = 0 || decide (4096 < n))
    (withBuffer s c.a.toNat (8 * n) 6 fun l =>
      let es := (bytesWords n l).map slotEntry
      if es.any (fun e => e.rel || decide (768 ≤ e.core) || !s.inPod e.chip) then s.ended 6
      else if s.servedAny es then s
      else if !s.freeable es then { s with fresh := s.fresh + 1 }.ended 6
      else
        let s1 := es.foldl State.freeSlot s
        { s1 with fresh := s1.fresh + 1 }.ended 0)

/-! ### Graph parameters (R330) -/

/-- The index of a `gpset` or `gpget`. -/
def gpIndex (t : Task) (n : BitVec 6) (b : Reg) (x : Bool) : Nat := if x then (t.rd .a b).toNat % 64 else n.toNat

/-- GPSET (R330): a strong access to the task's queue. -/
def execGpset (n : BitVec 6) (a b : Reg) (x : Bool) (s : State) : Out :=
  strongSem s fun t =>
    finishA (s.onQueue t.who.queue fun q => { q with gp := tset 0 q.gp (gpIndex t n b x) (t.rd .a a) }) t

/-- GPGET (R330). -/
def execGpget (d : Reg) (n : BitVec 6) (b : Reg) (x : Bool) (s : State) : Out :=
  strongSem s fun t =>
    let v : Word := match s.queue t.who.queue with | some q => tget 0 q.gp (gpIndex t n b x) | none => 0
    finishA s (t.result .a d 5 v)

/-! ### Completion (R318, R319) -/

/-- A launch has ended: no task, record, copy, walk program or sampler request of it is left (R318). -/
def State.launchOver (s : State) (n : Nat) : Bool :=
  match tfind s.fe.launches n with
  | none => true
  | some l =>
    l.granted && l.recs.isEmpty && l.wait.isEmpty && l.cond.isEmpty && !s.tasks.any (fun e => e.2.who.launch == n) &&
      !s.fe.saved.any (fun e => e.2.launch == n) && !s.jobs.any (fun e => e.2.launch == n) &&
      !s.sorrel.any fun e => e.2.any fun r => r.launch == n

/-- The work of a running command has ended, with its status. -/
def State.workEnded (s : State) (r : Running) : Option Nat :=
  match r.status with
  | some st => some st
  | none =>
    match r.launch with
    | none => none
    | some n => if s.launchOver n then some 0 else none

/-- A command leaves its queue; inside a REPLAY its status counts for the REPLAY, BADCMD ends it (R332), and FAULT completes the REPLAY
too (R319). -/
def CQueue.leave (x : CQueue) (st : Nat) : CQueue :=
  match x.replay, x.outer with
  | none, _ => { x with run := none }
  | some _, none => { x with run := none, replay := none }
  | some p, some o =>
    if st = 0x10 then { x with run := some { o with status := some st, launch := none }, outer := none, replay := none }
    else
      let p1 := if st = 6 then { p with status := 6, next := p.count } else { p with status := if p.status = 0 then st else p.status,
                                                                                      next := p.next + 1 }
      { x with run := none, replay := some p1 }

/-- Bytes of a context on their way to a device without a route, which a completion of POD or SYSTEM scope waits for (R318). -/
def State.stuckOwn (s : State) (sc : Scope) (ctx : Nat) : Bool :=
  (sc == .pod || sc == .system) && s.pod.out.any fun w => w.owner == ctx && s.stuck w

/-- A command whose work has ended completes (R318): the cores of the launch write down their L1s, except after FAULT, then the status
and SEQ are stored; an area in no writable extent puts the queue into ERROR, and one behind a condition of BACK holds the completion. A SCOPE outside R316
counts as DEVICE (DESIGN CHOICE, log 147). -/
def State.complete (s : State) (q : Nat) : State :=
  match s.queue q with
  | none => s
  | some x =>
    match x.run with
    | none => s
    | some r =>
      match s.workEnded r with
      | none => s
      | some st =>
        let sc := if scopeOk r.cmd.scope then cmdScope r.cmd else Scope.device
        let cores := match r.launch.bind (tfind s.fe.launches ·) with | some l => if st = 0x10 then [] else l.ran | none => []
        let s1 := cores.foldl (fun s n => s.cleanL1 n sc fun _ => true) s
        if st ≠ 0x10 && s1.stuckOwn sc x.ctx then s1
        else
          let fe := match r.launch with | none => s1.fe | some n => { s1.fe with launches := tdel s1.fe.launches n }
          let s2 := { s1 with fe := fe }
          if r.cmd.caddr = 0 then s2.putQueue q (x.leave st)
          else
            let bytes := natBytes 8 r.cmd.seq.toNat ++ natBytes 8 st
            match s2.writeRange x.ctx r.cmd.caddr.toNat bytes with
            | .ok s3 => (if sc = .device then s3 else s3.flushPeers).putQueue q (x.leave st)
            | .bad code sub a => if code = 4 then s.blockHeld x.ctx sub a else s2.failQueue q 1 (x.leave st)

/-- COMMAND_COMPLETION (R318). -/
def execCommandCompletion (q : Nat) (s : State) : Out := .next (s.complete q)

end Sys2Proof.Machine
end

