-- ==== Sys2Proof/Machine/Scalar.lean ====
section
/-! DEFINITION. The integer, bit-field, constant, address, predicate and select instructions of both strands
(05 R112-R121). -/

namespace Sys2Proof.Machine

/-- The end of an instruction of either strand: the pc moves on. -/
def finish (s : State) (t : Task) : State := s.putHere (t.advance s.cur.side)

/-- An instruction with one scalar result of latency `lat` (05 R113). -/
def scalarOp (s : State) (d : Reg) (lat : Nat) (f : Task → Side → Word) : Out :=
  onTask s fun t => finish s (t.result s.cur.side d lat (f t s.cur.side))

/-- A two-source instruction (05 R112). -/
def alu (s : State) (d a : Reg) (b : Src) (lat : Nat) (f : Word → Word → Word) : Out :=
  scalarOp s d lat fun t sd => f (t.rd sd a) (t.src sd b)

/-- ADD (R114). -/
def execAdd (d a : Reg) (b : Src) (s : State) : Out := alu s d a b 1 fun x y => x + y

/-- SUB (R114). -/
def execSub (d a : Reg) (b : Src) (s : State) : Out := alu s d a b 1 fun x y => x - y

/-- MUL (R114). -/
def execMul (d a : Reg) (b : Src) (s : State) : Out := alu s d a b 3 fun x y => x * y

/-- MULH_I (R114). -/
def execMulhI (d a : Reg) (b : Src) (s : State) : Out :=
  alu s d a b 3 fun x y => (x.signExtend 128 * y.signExtend 128).extractLsb' 64 64

/-- MULH_N (R114). -/
def execMulhN (d a : Reg) (b : Src) (s : State) : Out :=
  alu s d a b 3 fun x y => (x.setWidth 128 * y.setWidth 128).extractLsb' 64 64

/-- The quotient of `div.i` (R115). -/
def quotI (x y : Word) : Word := if y = 0 then BitVec.allOnes 64 else BitVec.ofInt 64 (x.toInt.tdiv y.toInt)

/-- The quotient of `div.n` (R115). -/
def quotN (x y : Word) : Word := if y = 0 then BitVec.allOnes 64 else x / y

/-- DIV_I (R115). -/
def execDivI (d a : Reg) (b : Src) (s : State) : Out := alu s d a b 18 quotI

/-- DIV_N (R115). -/
def execDivN (d a : Reg) (b : Src) (s : State) : Out := alu s d a b 18 quotN

/-- REM_I (R115). -/
def execRemI (d a : Reg) (b : Src) (s : State) : Out :=
  alu s d a b 18 fun x y => if y = 0 then x else x - quotI x y * y

/-- REM_N (R115). -/
def execRemN (d a : Reg) (b : Src) (s : State) : Out := alu s d a b 18 fun x y => if y = 0 then x else x % y

/-- AND (R114). -/
def execAnd (d a : Reg) (b : Src) (s : State) : Out := alu s d a b 1 fun x y => x &&& y

/-- OR (R114). -/
def execOr (d a : Reg) (b : Src) (s : State) : Out := alu s d a b 1 fun x y => x ||| y

/-- XOR (R114). -/
def execXor (d a : Reg) (b : Src) (s : State) : Out := alu s d a b 1 fun x y => x ^^^ y

/-- ANDN (R114). -/
def execAndn (d a : Reg) (b : Src) (s : State) : Out := alu s d a b 1 fun x y => x &&& ~~~y

/-- A shift or rotation by b[5:0]; an immediate outside 0-63 is ILL 0x0E (R114). -/
def shiftOp (s : State) (d a : Reg) (b : Src) (f : Word → Nat → Word) : Out :=
  if shiftBad b then onTask s fun _ => ill s 0x0E else alu s d a b 1 fun x y => f x (y.toNat % 64)

/-- SHL (R114). -/
def execShl (d a : Reg) (b : Src) (s : State) : Out := shiftOp s d a b fun x n => x <<< n

/-- SHR (R114). -/
def execShr (d a : Reg) (b : Src) (s : State) : Out := shiftOp s d a b fun x n => x >>> n

/-- SAR (R114). -/
def execSar (d a : Reg) (b : Src) (s : State) : Out := shiftOp s d a b fun x n => x.sshiftRight n

/-- ROTL (R114). -/
def execRotl (d a : Reg) (b : Src) (s : State) : Out := shiftOp s d a b fun x n => x.rotateLeft n

/-- MIN_I (R114). -/
def execMinI (d a : Reg) (b : Src) (s : State) : Out := alu s d a b 1 fun x y => if y.slt x then y else x

/-- MIN_N (R114). -/
def execMinN (d a : Reg) (b : Src) (s : State) : Out := alu s d a b 1 fun x y => if y.ult x then y else x

/-- MAX_I (R114). -/
def execMaxI (d a : Reg) (b : Src) (s : State) : Out := alu s d a b 1 fun x y => if x.slt y then y else x

/-- MAX_N (R114). -/
def execMaxN (d a : Reg) (b : Src) (s : State) : Out := alu s d a b 1 fun x y => if x.ult y then y else x

/-- The number of leading zero bits: 64 for zero (R114). -/
def leadingZeros (x : Word) : Nat := if x = 0 then 64 else 63 - Nat.log2 x.toNat

/-- The number of one bits (R114). -/
def ones (x : Word) : Nat := ((List.range 64).filter fun i => x.getLsbD i).length

/-- CLZ (R114). -/
def execClz (d a : Reg) (s : State) : Out := scalarOp s d 1 fun t sd => BitVec.ofNat 64 (leadingZeros (t.rd sd a))

/-- POPC (R114). -/
def execPopc (d a : Reg) (s : State) : Out := scalarOp s d 1 fun t sd => BitVec.ofNat 64 (ones (t.rd sd a))

/-- A mask of `w + 1` ones at bit 0; `w` is the width less one. -/
def fieldMask (w : Reg) : Word := BitVec.allOnes 64 >>> (63 - w.toNat)

/-- A bit-field instruction: a field past bit 63 is ILL 0x0E (R116). -/
def fieldOp (s : State) (d lo w : Reg) (f : Task → Side → Word) : Out :=
  if 64 < lo.toNat + w.toNat + 1 then onTask s fun _ => ill s 0x0E else scalarOp s d 1 f

/-- BEXT (R116). -/
def execBext (d a lo w : Reg) (s : State) : Out :=
  fieldOp s d lo w fun t sd => (t.rd sd a >>> lo.toNat) &&& fieldMask w

/-- BEXT_I (R116): the field moved to the top and back, copying its top bit. -/
def execBextI (d a lo w : Reg) (s : State) : Out :=
  fieldOp s d lo w fun t sd => (t.rd sd a <<< (63 - lo.toNat - w.toNat)).sshiftRight (63 - w.toNat)

/-- BINS (R116). -/
def execBins (d a lo w : Reg) (s : State) : Out :=
  fieldOp s d lo w fun t sd =>
    let m := fieldMask w <<< lo.toNat
    (t.rd sd d &&& ~~~m) ||| ((t.rd sd a <<< lo.toNat) &&& m)

/-- LI (R117). -/
def execLi (d : Reg) (imm : BitVec 48) (s : State) : Out := scalarOp s d 1 fun _ _ => imm.signExtend 64

/-- LI_N (R117). -/
def execLiN (d : Reg) (imm : BitVec 48) (s : State) : Out := scalarOp s d 1 fun _ _ => imm.setWidth 64

/-- LUI (R117). -/
def execLui (d : Reg) (imm : BitVec 48) (s : State) : Out :=
  scalarOp s d 1 fun t sd => (imm ++ (t.rd sd d).extractLsb' 0 16 : BitVec 64)

/-- LEA (R118). -/
def execLea (d a : Reg) (b : Src) (h : BitVec 3) (s : State) : Out := alu s d a b 1 fun x y => x + (y <<< h.toNat)

/-- CMP (R119). -/
def execCmp (c : Cc) (p : BitVec 3) (a : Reg) (b : Src) (s : State) : Out :=
  onTask s fun t =>
    let sd := s.cur.side
    finish s (t.predResult sd p 1 (ccHolds c (t.rd sd a) (t.src sd b)))

/-- A combination of two predicates (R120). -/
def popOp (s : State) (p : BitVec 3) (x y : Guard) (f : Bool → Bool → Bool) : Out :=
  onTask s fun t =>
    let sd := s.cur.side
    finish s (t.predResult sd p 1 (f (t.guard sd x) (t.guard sd y)))

/-- POP_AND (R120). -/
def execPopAnd (p : BitVec 3) (x y : Guard) (s : State) : Out := popOp s p x y fun a b => a && b

/-- POP_OR (R120). -/
def execPopOr (p : BitVec 3) (x y : Guard) (s : State) : Out := popOp s p x y fun a b => a || b

/-- POP_XOR (R120). -/
def execPopXor (p : BitVec 3) (x y : Guard) (s : State) : Out := popOp s p x y fun a b => a != b

/-- SEL (R121): under a false guard no result performs. -/
def execSel (g : Guard) (d : Reg) (c : Guard) (a : Reg) (b : Src) (s : State) : Out :=
  onTask s fun t =>
    let sd := s.cur.side
    if t.guard sd g then finish s (t.result sd d 1 (if t.guard sd c then t.rd sd a else t.src sd b)) else finish s t

/-- NOP (R138). -/
def execNop (s : State) : Out := onTask s fun t => finish s t

end Sys2Proof.Machine
end

