-- ==== Sys2Proof/Machine/SysReg.lean ====
section
/-! DEFINITION. The system registers (03 R75-R77) and the instructions that read and write them (05 R132). -/

namespace Sys2Proof.Machine

/-- A number placed at a bit of a register. -/
def bitsAt (v lo : Nat) : Word := BitVec.ofNat 64 (v * 2 ^ lo)

/-- A flag placed at a bit of a register. -/
def flagAt (b : Bool) (lo : Nat) : Word := if b then bitsAt 1 lo else 0

/-- An optional number, 0 where absent. -/
def orZero (o : Option Nat) : Nat := o.getD 0

/-- The number of SPILLED slots of a bank (03 R76). -/
def Task.spills (t : Task) : Nat := (t.xs.slots.filter fun e => e.2.phys.isNone).length

/-- XSTAT (03 R76). -/
def regXstat (s : State) (t : Task) (sd : Side) : Word :=
  flagAt (sd == .x) 0 ||| bitsAt s.cur.bank 1 ||| flagAt t.who.excl 2 ||| flagAt t.cancel.isSome 3 ||| bitsAt t.spills 8 |||
    bitsAt t.who.n 16

/-- CORE (03 R76). -/
def regCore (s : State) : Word :=
  bitsAt s.cur.core 0 ||| bitsAt (s.cur.core % 12) 16 ||| bitsAt s.pod.chip.toNat 24

/-- CLUSTER (03 R76, 01 R12). -/
def regCluster (s : State) : Word :=
  let c := s.cur.core / 12
  bitsAt c 0 ||| bitsAt (c % 8) 8 ||| bitsAt (c / 8) 12 ||| bitsAt (s.cluster c).mhz 16

/-- BANK (03 R76); RDY is 1 when the other bank's task is ready to issue. -/
def regBank (s : State) : Word :=
  let o := s.task s.cur.core (1 - s.cur.bank)
  bitsAt (s.core s.cur.core).bank 0 ||| flagAt o.isSome 1 |||
    flagAt (match o with | some t => t.ready | none => false) 2

/-- CLASS (03 R76). -/
def regClass (t : Task) : Word :=
  let c := t.cls
  bitsAt c.cur 0 ||| bitsAt c.set 2 ||| bitsAt c.ceil 4 ||| flagAt (decide (c.cur < c.set)) 8 ||| flagAt c.lat 9 |||
    flagAt c.borrow 10

/-- RRB (03 R76). -/
def regRrb (t : Task) : Word := bitsAt t.xs.base.toNat 0 ||| bitsAt t.ring 8 ||| bitsAt t.xs.step.toNat 16

/-- The open stream of a task. -/
def State.taskStream (s : State) (t : Task) : Option Stream := t.mem.stream.bind (tfind s.streams ·)

/-- A frame that is complete, its last bitstream byte written; its record may still wait (R368, R369). -/
def Frame.done (f : Frame) : Bool := match f.out with | some o => decide (2 ≤ o.stage) | none => false

/-- The started frames that are not complete. -/
def Stream.live (st : Stream) : List Frame := st.frames.filter fun f => !f.done

/-- The started frame, not yet complete, that a task of a stream belongs to (17 R367). -/
def State.frameOf (s : State) (t : Task) : Option Frame :=
  (s.taskStream t).bind fun st => st.live.find? fun f => f.n % 2 ^ 32 = t.mem.frame.toNat % 2 ^ 32

/-- The rung in force for a task's frame, with STEPS_eff and whether the frame is interpolated: those of the last frame started once it is
complete (17 R367, R379). -/
def State.rungNow (s : State) (t : Task) (st : Stream) : Nat × Nat × Bool :=
  match s.frameOf t with
  | some f => (f.rung, f.steps, f.interp)
  | none => (st.rung, st.steps, st.interp)

/-- RUNG: the rung in force for the frame (03 R76). -/
def regRung (s : State) (t : Task) : Word :=
  match s.taskStream t with
  | none => 0
  | some st =>
    let (r, n, b) := s.rungNow t st
    bitsAt r 0 ||| bitsAt (st.desc.nrung - 1) 4 ||| bitsAt (n % 256) 8 ||| flagAt b 16

/-- STREAM (03 R76). -/
def regStream (t : Task) : Word :=
  match t.mem.stream with
  | none => 0
  | some k => bitsAt k 0 ||| bitsAt 1 15 ||| bitsAt (t.mem.frame.toNat % 2 ^ 32) 32

/-- SIBLING (03 R76). -/
def regSibling (t : Task) : Word :=
  match t.mem.group with
  | none => 0
  | some g => bitsAt (g % 1024) 0 ||| bitsAt 1 15 ||| bitsAt t.mem.index 16 ||| bitsAt t.mem.size 24

/-- TRAPINFO (03 R76). -/
def regTrap (st : Strand) : Word :=
  bitsAt st.trap.code.toNat 0 ||| bitsAt st.trap.sub.toNat 8 ||| flagAt st.trap.fatal 16

/-- The value of a system register at the reading instruction's issue (03 R76, R77). -/
def sysRead (s : State) (t : Task) (sd : Side) (n : Nat) : Word :=
  match n with
  | 0x00 => regXstat s t sd
  | 0x01 => regCore s
  | 0x02 => regCluster s
  | 0x03 => bitsAt t.who.ctx 0 ||| bitsAt t.who.phase.toNat 16
  | 0x04 => regBank s
  | 0x05 => bitsAt t.who.id.toNat 0 ||| bitsAt t.who.depth 32
  | 0x06 => bitsAt t.who.stage 0 ||| bitsAt t.who.last 8 ||| bitsAt (t.who.launch % 2 ^ 32) 16
  | 0x07 => regClass t
  | 0x08 => regRrb t
  | 0x09 => bitsAt (t.st sd).loopc.toNat 0
  | 0x0A => bitsAt t.xs.rndm.toNat 0
  | 0x0B => bitsAt t.qskip.exp.toNat 0 ||| flagAt t.qskip.en 8
  | 0x0C => s.dt
  | 0x0D => let c := s.ctx t.who.ctx; bitsAt c.specCur.toNat 0 ||| bitsAt c.specPend.toNat 8
  | 0x0E => regStream t
  | 0x0F => regRung s t
  | 0x10 => regSibling t
  | 0x11 => regTrap (t.st sd)
  | 0x12 => bitsAt (t.cancelpc.toNat % 2 ^ 54) 3
  | 0x13 => bitsAt t.win.spBase 0 ||| bitsAt t.win.spSize 16
  | 0x14 => bitsAt t.win.acBase 0 ||| bitsAt t.win.acSize 8
  | _ => bitsAt ((t.st sd).trappc.toNat % 2 ^ 54) 3

/-- SRGET (R132); an unassigned number is ILL 0x0D. -/
def execSrget (d : Reg) (n : BitVec 6) (s : State) : Out :=
  onTask s fun t =>
    if 0x15 < n.toNat then ill s 0x0D else finish s (t.result s.cur.side d 1 (sysRead s t s.cur.side n.toNat))

/-- A field of a source value. -/
def fieldOf (v : Word) (lo len : Nat) : Nat := (v.extractLsb' lo len).toNat

/-- SRSET of RRB (03 R64, R76). -/
def setRrb (s : State) (t : Task) (v : Word) : State :=
  let b := fieldOf v 0 6
  let st := fieldOf v 16 6
  if (if t.ring = 0 then b ≠ 0 else t.ring ≤ b) || st = 0 || max t.ring 1 < st then ill s 0x0E
  else finish s (t.onX fun x => { x with base := BitVec.ofNat 6 b, step := BitVec.ofNat 6 st })

/-- SRSET of QSKIP (03 R76): EN with EXP outside -126..0 is ILL 0x0E. -/
def setQskip (s : State) (t : Task) (v : Word) : State :=
  let e : BitVec 8 := v.extractLsb' 0 8
  let en := v.getLsbD 8
  if en && (decide (e.toInt < -126) || decide (0 < e.toInt)) then ill s 0x0E
  else finish s { t with qskip := { exp := e, en := en } }

/-- SRSET of RNDM (03 R76): modes 110 and 111 are ILL 0x0A. -/
def setRndm (s : State) (t : Task) (v : Word) : State :=
  let m : BitVec 3 := v.extractLsb' 0 3
  if 6 ≤ m.toNat then ill s 0x0A else finish s (t.onX fun x => { x with rndm := m })

/-- SRSET of CANCELPC (03 R76): a byte address that is no word address is ILL 0x0E. -/
def setCancelpc (s : State) (t : Task) (v : Word) : State :=
  if v.extractLsb' 0 3 != 0 then ill s 0x0E else finish s { t with cancelpc := (v.extractLsb' 3 54).setWidth 64 }

/-- SRSET (R132): a number that is unassigned, or that 03 R75 does not let the strand write, is ILL 0x0D. -/
def execSrset (n : BitVec 6) (a : Src) (s : State) : Out :=
  onTask s fun t =>
    let sd := s.cur.side
    let v := t.src sd a
    match n.toNat, sd with
    | 0x08, .x => setRrb s t v
    | 0x09, _ => finish s (t.onSt sd fun st => { st with loopc := v.setWidth 32 })
    | 0x0A, .x => setRndm s t v
    | 0x0B, _ => setQskip s t v
    | 0x12, .a => setCancelpc s t v
    | _, _ => ill s 0x0D

end Sys2Proof.Machine
end

