-- ==== Sys2Proof/Machine/Image.lean ====
section
/-! DEFINITION. The task-state layout (19 R419): a task's state as bytes, and a task read from such bytes. Where the layout
gives no bytes to something a task holds (the engine record, the copy records, an ended strand), the model's own places are
used (log 30). -/

namespace Sys2Proof.Machine

/-! ### Word streams: the model's own coding of the engine record -/

/-- A value read off a list of words, and what is left; an empty list reads as zeros. -/
abbrev Unp (α : Type) := List Nat → α × List Nat

/-- A truth value as a bit. -/
def bit (b : Bool) : Nat := if b then 1 else 0

/-- One word. -/
def unNat : Unp Nat
  | [] => (0, [])
  | v :: r => (v, r)

/-- A row as sixteen words. -/
def packRow (r : Row) : List Nat := (List.range 16).map fun k => (r.extractLsb' (64 * k) 64).toNat

/-- A row read back. -/
def unRow : Unp Row := fun l => (BitVec.ofNat 1024 ((l.take 16).foldr (fun v a => v % 2 ^ 64 + 2 ^ 64 * a) 0), l.drop 16)

/-- A list with its length before it. -/
def packList {α : Type} (f : α → List Nat) (l : List α) : List Nat := l.length :: l.flatMap f

/-- So many items read one after another. -/
def unMany {α : Type} (f : Unp α) : Nat → Unp (List α)
  | 0, l => ([], l)
  | n + 1, l =>
    let (a, r) := f l
    let (as, r1) := unMany f n r
    (a :: as, r1)

/-- A list read back. -/
def unList {α : Type} (f : Unp α) : Unp (List α) := fun l => let (n, r) := unNat l; unMany f (min n r.length) r

/-- Two values one after another. -/
def unPair {α β : Type} (f : Unp α) (g : Unp β) : Unp (α × β) := fun l =>
  let (a, r) := f l
  let (b, r1) := g r
  ((a, b), r1)

/-- An option. -/
def packOpt : Option Nat → List Nat
  | none => [0, 0]
  | some v => [1, v]

/-- An option read back. -/
def unOpt : Unp (Option Nat) := fun l =>
  let ((a, b), r) := unPair unNat unNat l
  (if a = 0 then none else some b, r)

/-- An accumulator operation. -/
def packAcc : AccOp → List Nat
  | .azero t md => [0, t, match md with | .both => 0 | .side => 1 | .cells => 2]
  | .amov d s md => [1, d, s, match md with | .cells => 0 | .side => 1 | .all => 2]
  | .abias t row rows => 2 :: t :: (if row then 1 else 0) :: packList packRow rows
  | .ascale t v => [3, t, v.toNat]
  | .ascaleCol t rows => 4 :: t :: packList packRow rows
  | .arsc o f => [5, o, f]
  | .anorm o t => [6, o, t]
  | .astat x s abs => [7, x, s, if abs then 1 else 0]
  | .asmx s o c => [8, s, o, c.toNat]

/-- An accumulator operation read back. -/
def unAcc : Unp AccOp := fun l =>
  let (k, r) := unNat l
  let (a, r1) := unNat r
  let (b, r2) := unNat r1
  let (c, r3) := unNat r2
  match k with
  | 0 => (.azero a (if b = 0 then .both else if b = 1 then .side else .cells), r2)
  | 1 => (.amov a b (if c = 0 then .cells else if c = 1 then .side else .all), r3)
  | 2 => let (rows, q) := unList unRow r2; (.abias a (b = 1) rows, q)
  | 3 => (.ascale a (BitVec.ofNat 32 b), r2)
  | 4 => let (rows, q) := unList unRow r1; (.ascaleCol a rows, q)
  | 5 => (.arsc a b, r2)
  | 6 => (.anorm a b, r2)
  | 7 => (.astat a b (c = 1), r3)
  | _ => (.asmx a b (BitVec.ofNat 16 c), r3)

/-- A parameter set as four words. -/
def packSet (p : PSet) : List Nat := [p.w0.toNat, p.w1.toNat, p.w2.toNat, p.w3.toNat]

/-- A port's sets and walk position. -/
def packPort (q : Port) : List Nat :=
  [(if q.active.isSome then 1 else 0) + (if q.pending.isSome then 2 else 0)] ++ packSet q.staged ++
    packSet (q.active.getD PSet.zero) ++ packSet (q.pending.getD PSet.zero) ++
    [q.i0.toNat, q.i1.toNat, q.i2.toNat, q.i3.toNat, q.count.toNat]

/-- A port read back. -/
def unPort : Unp Port := fun l =>
  let w (k : Nat) : Word := BitVec.ofNat 64 (l.getD k 0)
  let set (k : Nat) : PSet := { w0 := w k, w1 := w (k + 1), w2 := w (k + 2), w3 := w (k + 3) }
  let i (k : Nat) : BitVec 16 := BitVec.ofNat 16 (l.getD k 0)
  ({ staged := set 1, active := if (w 0).getLsbD 0 then some (set 5) else none,
     pending := if (w 0).getLsbD 1 then some (set 9) else none, i0 := i 13, i1 := i 14, i2 := i 15, i3 := i 16,
     count := BitVec.ofNat 32 (l.getD 17 0) }, l.drop 18)

/-- A pop of an engine: which port's, its number, its block, its row; the data are read again (07 R183). -/
def packPop (p : Pop) : List Nat := [bit p.isB, p.idx, p.blk, p.row]

/-- A pop read back. -/
def unPop : Unp Pop := fun l =>
  match l with
  | b :: i :: k :: r :: l => ({ isB := b = 1, idx := i, blk := k, row := r, data := 0 }, l)
  | _ => ({ isB := false, idx := 0, blk := 0, row := 0, data := 0 }, [])

/-- An `mma` or `mmag` (07 R183; R414): its word, the skip exponent in force, the operands read, c*, the positions of PA and PB before
the first pops of the chunks from c* on, the pops made of these chunks, the columns read. -/
def packMma (t : Task) (j : MmaJob) (age : Nat) : List Nat :=
  let c := j.performed age
  [wordOf (if j.grouped then .mmag j.args else .mma j.args)] ++
    packOpt (j.skip.map fun e => (e + 1024).toNat) ++ packList packRow j.scaleA ++ packList packRow j.scaleB ++
    packList packOpt j.adapters ++ [c] ++ packPort (j.startOf t false c) ++ packPort (j.startOf t true c) ++ [j.madeA, j.madeB] ++
    packList (fun e => e.1 :: packPort e.2) j.startA ++ packList (fun e => e.1 :: packPort e.2) j.startB ++ packList packPop j.pops ++
    packList (fun e => e.1 :: packList (fun v => [v.toNat]) e.2) j.acols ++ packOpt j.dead

/-- An `mma` or `mmag` read back; its pops are repeated once its task stands (07 R183). -/
def unMma : Unp (Option MmaJob) := fun l =>
  let (w, l) := unNat l
  let (skip, l) := unOpt l
  let (sa, l) := unList unRow l
  let (sb, l) := unList unRow l
  let (ad, l) := unList unOpt l
  let (_, l) := unNat l
  let (_, l) := unPort l
  let (_, l) := unPort l
  let (a, l) := unNat l
  let (b, l) := unNat l
  let (qa, l) := unList (unPair unNat unPort) l
  let (qb, l) := unList (unPair unNat unPort) l
  let (pops, l) := unList unPop l
  let (cols, l) := unList (unPair unNat (unList fun l => let (v, r) := unNat l; (BitVec.ofNat 32 v, r))) l
  let (dead, l) := unOpt l
  let mk (g : Bool) (m : MmaArgs) : MmaJob :=
    { args := m, grouped := g, skip := skip.map fun (e : Nat) => (e : Int) - 1024, scaleA := sa, scaleB := sb, adapters := ad,
      pops := pops, madeA := a, madeB := b, acols := cols.foldl (fun t e => tins t e.1 e.2) [], startA := qa, startB := qb,
      dead := dead }
  (match decodeWord (BitVec.ofNat 64 w) with
    | .ok (.mma m) => some (mk false m)
    | .ok (.mmag m) => some (mk true m)
    | _ => none, l)

/-- A row with its number. -/
def packNRow (e : Nat × Row) : List Nat := e.1 :: packRow e.2

/-- What the engine record keeps of a flight; the other kinds are shadow entries. -/
def packKind (t : Task) (age : Nat) : FKind → List Nat
  | .mld slot d port r m made _ => [1, slot, d, port, r, made] ++ packRow m
  | .mst port m todo made _ => [2, port, made] ++ packRow m ++ packList packRow todo
  | .aread slot tile r md gens =>
    [3, slot, tile, wordOf (.aread r), md.toNat] ++ packList (packList fun v => [v.toNat]) gens
  | .awrite tile r rows => [4, tile, wordOf (.awrite r)] ++ packList packRow rows
  | .acc op => 5 :: packAcc op
  | .mma j => 6 :: packMma t j age
  | _ => [0]

/-- A word of 32 bits read off. -/
def un32 : Unp (BitVec 32) := fun l => let (v, r) := unNat l; (BitVec.ofNat 32 v, r)

/-- A flight's kind read back. -/
def unKind : Unp (Option FKind) := fun l =>
  let (k, l) := unNat l
  match k with
  | 1 =>
    match l with
    | slot :: d :: port :: r :: made :: l => let (m, l) := unRow l; (some (.mld slot d port r m made []), l)
    | _ => (none, [])
  | 2 =>
    match l with
    | port :: made :: l =>
      let (m, l) := unRow l
      let (todo, l) := unList unRow l
      (some (.mst port m todo made []), l)
    | _ => (none, [])
  | 3 =>
    match l with
    | slot :: tile :: w :: md :: l =>
      let (gens, l) := unList (unList un32) l
      (match decodeWord (BitVec.ofNat 64 w) with
        | .ok (.aread r) => some (.aread slot tile r (BitVec.ofNat 3 md) gens)
        | _ => none, l)
    | _ => (none, [])
  | 4 =>
    match l with
    | tile :: w :: l =>
      let (rows, l) := unList unRow l
      (match decodeWord (BitVec.ofNat 64 w) with
        | .ok (.awrite r) => some (.awrite tile r rows)
        | _ => none, l)
    | _ => (none, [])
  | 5 => let (op, l) := unAcc l; (some (.acc op), l)
  | 6 => let (j, l) := unMma l; (j.map fun x => .mma x, l)
  | _ => (none, l)

/-! ### Shadow entries (R412, R419) -/

/-- A shadow entry: KIND, DEST, REM, MASK, OLD and NEW with their size in bytes; `at_` is the flight's place in issue
order. -/
structure Shadow where
  kind : Nat
  dest : Nat
  rem : Nat
  mask : Nat
  size : Nat
  old : Nat
  new : Nat
  at_ : Nat
  deriving DecidableEq, Repr

/-- The cells of a mask row. -/
def cellMask (m : Row) : Nat := ((List.range 64).filter fun k => elemAt 16 m k != 0).foldl (fun a k => a + 2 ^ k) 0

/-- Whether rows of cells are cells of a slice. -/
def fitsSlice (w : Bool) (dir x : Nat) (rows : List (Nat × Row × Row)) : Bool :=
  rows.all fun e => (List.range 64).any fun k =>
    let c := sliceCell w dir x k
    c.1 == e.1 && e.2.2 == BitVec.ofNat 1024 (0xFFFF * 2 ^ (16 * c.2))

/-- The column or diagonal slice that rows of one cell each belong to, as (32-bit, DIR, index). -/
def sliceOf (rows : List (Nat × Row × Row)) : Option (Bool × Nat × Nat) :=
  match rows with
  | [] => none
  | (r, _, m) :: _ =>
    let c := ((List.range 64).find? fun k => elemAt 16 m k != 0).getD 0
    let cand : List (Bool × Nat × Nat) :=
      [(false, 1, c), (false, 2, (c + 64 - r % 64) % 64), (true, 1, 32 * (r / 32) + c / 2),
       (true, 2, 32 * (r / 32) + (c / 2 + 32 - r % 32) % 32)]
    cand.find? fun e => fitsSlice e.1 e.2.1 e.2.2 rows

/-- The vector that rows of cells hold in a slice. -/
def sliceVec (w : Bool) (dir x : Nat) (rows : List (Nat × Row × Row)) (f : Row × Row → Row) : Row :=
  rowOf 16 ((List.range 64).map fun k =>
    let c := sliceCell w dir x k
    rows.foldl (fun a e => if e.1 = c.1 && elemAt 16 e.2.2 c.2 != 0 then elemAt 16 (f e.2) c.2 else a) 0)

/-- A number of rows as one number, the first row lowest. -/
def rowsNat (l : List Row) : Nat := l.foldr (fun r a => r.toNat + 2 ^ 1024 * a) 0

/-- The entry of a flight of cells: a row, a whole register, the four rows of `vhist`, or a column or diagonal slice, whose
DIR stands in DEST [13:12] and whose 32-bit form in [14] (log 30). -/
def Task.cellShadow (t : Task) (slot : Nat) (rows : List (Nat × Row × Row)) (rem n : Nat) : List Shadow :=
  let one (r : Nat) (v m : Row) : Shadow :=
    { kind := 4, dest := slot * 64 + r, rem := rem, mask := cellMask m, size := 128, old := (t.mrow slot r).toNat,
      new := v.toNat, at_ := n }
  match rows with
  | [] => []
  | [(r, v, m)] => [one r v m]
  | (r0, _, _) :: _ =>
    if rows.all fun e => e.2.2 == BitVec.allOnes 1024 then
      let whole := rows.length = 64
      [{ kind := if whole then 5 else 6, dest := slot * 64 + r0, rem := rem,
         mask := if whole then 2 ^ 64 - 1 else 2 ^ rows.length - 1, size := 128 * rows.length,
         old := rowsNat (rows.map fun e => t.mrow slot e.1), new := rowsNat (rows.map fun e => e.2.1), at_ := n }]
    else
      match sliceOf rows with
      | some (w, dir, x) =>
        [{ kind := 4, dest := slot * 64 + x + 4096 * dir + (if w then 16384 else 0), rem := rem,
           mask := cellMask (sliceVec w dir x rows fun e => e.2), size := 128,
           old := (t.readSlice slot w dir x).toNat, new := (sliceVec w dir x rows fun e => e.1).toNat, at_ := n }]
      | none => rows.map fun e => one e.1 e.2.1 e.2.2

/-- The shadow entries of a flight (R412). -/
def Task.shadows (t : Task) (n : Nat) (f : Flight) : List Shadow :=
  let rem (due : Nat) := due - f.age - 1
  let plain (kind dest mask size old new : Nat) : List Shadow :=
    [{ kind := kind, dest := dest, rem := rem f.lat, mask := mask, size := size, old := old, new := new, at_ := n }]
  match f.kind with
  | .sreg r v => plain 1 r 255 8 (tget 0 t.x.regs r).toNat v.toNat
  | .sbyte r p v =>
    let o := tget 0 t.x.regs r
    plain 1 r (2 ^ p) 8 o.toNat (setByte o p v).toNat
  | .pred p b => plain 2 p 1 1 (if t.x.preds.getLsbD p then 1 else 0) (if b then 1 else 0)
  | .gmask g v => plain 3 g 255 8 (tget 0 t.xs.masks g).toNat v.toNat
  | .cells slot rows => t.cellShadow slot rows (rem f.lat) n
  | .prow row v m => plain 7 row (cellMask m) 128 (t.row row).data.toNat v.toNat
  | .mld slot d _ _ m _ rows =>
    rows.map fun e =>
      { kind := 8, dest := slot * 64 + d + e.1, rem := rem (2 * (e.1 + 1)), mask := cellMask m, size := 128,
        old := (t.mrow slot (d + e.1)).toNat, new := e.2.toNat, at_ := n }
  | .mst _ m _ _ rows =>
    rows.map fun e =>
      { kind := 7, dest := e.2.1, rem := rem (2 * (e.1 + 1)), mask := cellMask m, size := 128,
        old := (t.row e.2.1).data.toNat, new := e.2.2.toNat, at_ := n }
  | _ => []

/-- All shadow entries, in issue order. -/
def Task.allShadows (t : Task) : List Shadow := t.xs.flights.zipIdx.flatMap fun e => t.shadows e.2 e.1

/-- A cell mask as a row. -/
def maskRow (m : Nat) : Row := rowOf 16 ((List.range 64).map fun k => if m / 2 ^ k % 2 = 1 then 65535 else 0)

/-- The flight of a shadow entry read from an image: it performs in resumed issue cycle REM (R413). -/
def Shadow.flight (e : Shadow) : Flight :=
  let row (k : Nat) : Row := BitVec.ofNat 1024 (e.new / 2 ^ (1024 * k))
  let slot := e.dest / 64 % 64
  let idx := e.dest % 64
  let rows (n : Nat) : List (Nat × Row × Row) :=
    (List.range n).filterMap fun k => if e.mask / 2 ^ k % 2 = 1 then some (idx + k, row k, BitVec.allOnes 1024) else none
  let k : FKind :=
    match e.kind with
    | 1 => if e.mask % 256 = 255 then .sreg (e.dest % 64) (BitVec.ofNat 64 e.new)
           else let p := Nat.log2 (e.mask % 256); .sbyte (e.dest % 64) p (BitVec.ofNat 8 (e.new / 256 ^ p))
    | 2 => .pred (e.dest % 8) (e.new % 2 = 1)
    | 3 => .gmask (e.dest % 8) (BitVec.ofNat 64 e.new)
    | 5 => .cells slot (rows 64)
    | 6 => .cells slot (rows 4)
    | 7 => .prow e.dest (row 0) (maskRow e.mask)
    | _ => .cells slot (sliceRows (decide (16384 ≤ e.dest)) (e.dest / 4096 % 4) idx (row 0) (maskRow e.mask))
  { pc := 0, age := 0, lat := e.rem + 1, kind := k, word := 0 }

/-! ### Parts of a state (R419) -/

/-- The slots that a state saves: BOUND or SPILLED. -/
def Task.savedSlots (t : Task) : List Nat := t.xs.slots.map (·.1)

/-- What the layout gives no field to, as words before the engine record: the array hold left, the strands that have ended, the word to
which a branch goes on, the empty issue cycles left, the predicate of a `swaitv`, the places of the shadow entries in issue order
(log 30). -/
def Task.ownWords (t : Task) : List Nat :=
  let p := match t.as.wait with | some w => (match w.kind with | .swaitv p => p.toNat | _ => 0) | none => 0
  [t.xs.array, bit t.a.ended, bit t.x.ended] ++ packOpt (t.as.nextpc.map (·.toNat)) ++ [t.xs.gap, p] ++
    packList (fun e => [e.at_]) t.allShadows

/-- The engine record as words: per entry its place in issue order, pc, word, h − t, latency, and what the kind keeps. -/
def Task.engineWords (t : Task) : List Nat :=
  t.ownWords ++ packList (fun (e : Flight × Nat) =>
      [e.2, e.1.pc.toNat, e.1.word.toNat, e.1.age + 1, e.1.lat] ++ packKind t e.1.age e.1.kind)
    (t.xs.flights.zipIdx.filter fun e => e.1.kind.engine)

/-- A KIND code of a copy record. -/
def jobCode : JobKind → Nat
  | .copy k _ _ _ _ => (match k with | .gg => 0 | .gs => 1 | .sg => 2 | .ss => 3)
  | .gather sc _ => if sc then 5 else 4
  | .multi _ _ _ => 6
  | .walk => 7
  | .load => 8

/-- The flags of a copy record. -/
def jobFlags : JobKind → Nat
  | .copy _ a b c d => (if a then 1 else 0) + (if b then 2 else 0) + (if c then 4 else 0) + (if d then 8 else 0)
  | .gather _ a => if a then 1 else 0
  | .multi _ _ a => if a then 1 else 0
  | _ => 0

/-- A copy record as words: rec0-rec5, T, and KIND, flags, walker, token and rows done in one; a walk adds its PC, stacks,
permits, chain and staging buffer. -/
def packJob (j : Job) : List Nat :=
  [j.rec0.toNat, j.rec1.toNat, j.ext0 + 2 ^ 32 * j.ext1, j.rec3.toNat, j.rec4.toNat, j.rec5.toNat, j.t.toNat,
   jobCode j.kind + 2 ^ 8 * jobFlags j.kind + 2 ^ 16 * j.w + 2 ^ 24 * (match j.k with | some k => k.toNat | none => 255) +
     2 ^ 32 * j.rows] ++
    match j.walk with
    | none => []
    | some w =>
      [w.pc] ++ packList (fun v => [v.toNat]) w.stack ++ packList (fun e => [e.1.toNat, e.2]) w.loops ++
        packList (fun v => [v]) w.rets ++ [w.permits] ++ packOpt w.chain ++
        (List.range 4096).map fun k => bytesNat ((List.range 8).map fun i => tget 0 w.stage (8 * k + i))

/-- Where the parts of a state start, and its length. -/
structure Lay where
  slots : Nat
  tiles : Nat
  rows : Nat
  tags : Nat
  shadow : Nat
  engine : Nat
  jobs : Nat
  length : Nat
  deriving DecidableEq, Repr

/-- The next multiple of 8. -/
def up8 (n : Nat) : Nat := (n + 7) / 8 * 8

/-- The layout of a task's state. -/
def Task.lay (t : Task) (js : List Job) : Lay :=
  let s0 := 0x3080
  let s1 := s0 + t.who.n + 8192 * t.savedSlots.length
  let s2 := s1 + t.win.acSize * 33792
  let s3 := s2 + 128 * t.win.rows
  let s4 := s3 + (t.win.rows + 3) / 4
  let s5 := up8 (s4 + t.allShadows.foldl (fun a e => a + 2 * e.size) 0)
  let s6 := s5 + 8 * t.engineWords.length
  { slots := s0, tiles := s1, rows := s2, tags := s3, shadow := s4, engine := s5, jobs := s6,
    length := up8 (s6 + 8 * (js.flatMap packJob).length) }

/-- A named piece of the fixed area: offset, size, value. -/
abbrev Field := Nat × Nat × Nat

/-- WAITC (R419): the condition that a suspended task waits for, or the `yield` at which it stopped. -/
def Task.waitc (t : Task) : List Field :=
  let kind := match t.susp with
    | some .swaitv => 1
    | some (.split _) => 2
    | some (.back _) => 4
    | _ => if t.yielded then 3 else 0
  let kw := match t.susp with | some (.split k) => k.toNat | _ => 0
  match t.as.wait with
  | some w =>
    [(0x280, 1, kind), (0x281, 1, w.cond.toNat), (0x282, 1, kw), (0x284, 4, w.slot.toNat), (0x288, 4, w.t.toNat)]
  | none => [(0x280, 1, kind), (0x282, 1, kw)]

/-- The fields of a strand; `x` tells the X-strand's places from the A-strand's. -/
def strandFields (st : Strand) (b : Nat) (x : Bool) : List Field :=
  [(b, 8, st.pc.toNat)] ++ (List.range 64).map (fun k => (b + 8 + 8 * k, 8, (tget 0 st.regs k).toNat)) ++
    [(b + 0x208, 1, (st.preds ||| 1).toNat), (b + (if x then 0x250 else 0x210), 8, st.loopc.toNat),
     (b + (if x then 0x380 else 0x218), 8, (regTrap st).toNat),
     (b + (if x then 0x388 else 0x3A0), 8, (st.trappc <<< 3).toNat),
     (b + (if x then 0x268 else 0x228), 8, match st.hold with | some v => v.toNat | none => 0),
     (b + (if x then 0x270 else 0x230), 1, bit st.hold.isSome)]

/-- The fields of a parameter set. -/
def setFields (b : Nat) (p : PSet) : List Field :=
  [(b, 8, p.w0.toNat), (b + 8, 8, p.w1.toNat), (b + 16, 8, p.w2.toNat), (b + 24, 8, p.w3.toNat)]

/-- Whether accesses of an `mld` or `mst` on a port, with store ports from 8 on, are still to be made. -/
def Flight.onPort (f : Flight) (k : Nat) : Bool :=
  match f.kind with
  | .mld _ _ p n _ made _ => p == k && decide (made < n)
  | .mst p _ todo _ _ => p + 8 == k && !todo.isEmpty
  | _ => false

/-- The fields of a port, with the `mld` or `mst` in flight on it. -/
def Task.portFields (t : Task) (k : Nat) : List Field :=
  let q := t.port k
  let b := 0x0A80 + 128 * k
  let one (w : Word) (ht j : Nat) : List Field := [(b + 0x70, 8, w.toNat), (b + 0x78, 2, ht), (b + 0x7A, 2, j)]
  let fl : List Field := match t.xs.flights.find? fun f => f.onPort k with
    | some f => (match f.kind with
      | .mld _ _ _ _ _ made _ => one f.word (f.age + 1) made
      | .mst _ _ _ made _ => one f.word (f.age + 1) made
      | _ => [])
    | none => []
  setFields b q.staged ++ setFields (b + 32) (q.active.getD PSet.zero) ++ setFields (b + 64) (q.pending.getD PSet.zero) ++
    [(b + 0x60, 2, q.i0.toNat), (b + 0x62, 2, q.i1.toNat), (b + 0x64, 2, q.i2.toNat), (b + 0x66, 2, q.i3.toNat),
     (b + 0x68, 4, bit q.active.isSome + 2 * bit q.pending.isSome), (b + 0x6C, 4, q.count.toNat)] ++ fl

/-- The fields of the fixed area (R419). -/
def stateFields (s : State) (t : Task) (stage : Nat) (l : Lay) : List Field :=
  let item (q : Queue) (b n : Nat) : List Field := (q.items.take n).zipIdx.map fun e => (b + 8 * e.2, 8, e.1.v.toNat)
  [(0, 4, l.length), (4, 1, stage), (5, 1, t.who.pin.getD 255),
   (6, 1, bit t.who.excl + 2 + 4 * bit (match t.susp with | some (.debug _) => true | _ => false)),
   (7, 1, t.who.n), (8, 4, t.who.id.toNat), (12, 1, t.who.depth), (13, 1, t.cls.set + 16 * t.cls.ceil),
   (14, 2, t.win.spSize), (16, 1, t.win.acSize), (17, 1, t.xs.base.toNat), (18, 1, t.xs.step.toNat),
   (24, 4, l.slots), (28, 4, l.tiles), (32, 4, l.rows), (36, 4, l.tags), (40, 4, l.shadow), (44, 4, l.engine),
   (48, 4, l.jobs)] ++
  strandFields t.a 0x40 false ++
  [(0x249, 1, (t.as.group &&& ~~~t.as.issued).toNat), (0x260, 8, (t.cancelpc <<< 3).toNat), (0x278, 8, t.as.podmask.toNat)] ++ t.waitc ++
  (List.range 4).map (fun k => (0x290 + 4 * k, 4, match t.as.decls[k]? with | some d => 2 ^ 31 + d.toNat | none => 0)) ++
  t.as.lands.flatMap (fun e => [(0x2A0 + 16 * e.1, 8, 2 ^ 63 + e.2.base.toNat), (0x2A8 + 16 * e.1, 8, e.2.slot.toNat)]) ++
  t.as.binds.zipIdx.flatMap (fun e =>
    [(0x2E0 + 16 * e.2, 8, e.1.base.toNat), (0x2E8 + 16 * e.2, 4, e.1.len.toNat),
     (0x2EC + 16 * e.2, 4, 2 ^ 31 + e.1.slot.toNat)]) ++
  strandFields t.x 0x440 true ++
  (List.range 8).map (fun k => (0x650 + 8 * k, 8, if k = 0 then 2 ^ 64 - 1 else (tget 0 t.xs.masks k).toNat)) ++
  [(0x698, 8, t.xs.rndm.toNat), (0x6A0, 8, t.qskip.exp.toNat + 256 * bit t.qskip.en)] ++
  (List.range 64).map (fun k => (0x6C0 + 4 * k, 4, (tget 0 t.xs.gens k).toNat)) ++
  item t.aq 0x840 32 ++ item t.xq 0x940 16 ++
  [(0x9C0, 8, t.bq.items.zipIdx.foldl (fun a e => a + (e.1.v.toNat % 2) * 2 ^ e.2) 0),
   (0x9C8, 2, t.aq.items.length), (0x9CA, 2, t.xq.items.length), (0x9CC, 2, t.bq.items.length)] ++
  (List.range 8).map (fun k => (0xA40 + 8 * k, 8, (s.tokStatus (tget Token.zero t.as.toks k)).toNat)) ++
  (List.range 12).flatMap t.portFields ++
  t.tiles.map (fun e => (0x1080 + 8 * e.1, 8, e.2.first + 2 ^ 16 * e.2.count + 2 ^ 32 + 2 ^ 33 * bit e.2.up)) ++
  (t.allShadows.take 128).zipIdx.flatMap (fun e =>
    let b := 0x1880 + 32 * e.2
    let off := (t.allShadows.take e.2).foldl (fun a x => a + 2 * x.size) l.shadow
    [(b, 1, 1), (b + 1, 1, e.1.kind), (b + 2, 2, e.1.dest), (b + 4, 1, e.1.rem), (b + 8, 8, e.1.mask), (b + 16, 4, off),
     (b + 20, 4, e.1.size)]) ++
  t.consts.map fun e => (0x2880 + 2 * e.1, 2, e.2.toNat)

/-- A byte of a list of numbers of 8 bytes. -/
def wordsByte (l : List Nat) (o : Nat) : Nat := l.getD (o / 8) 0 / 256 ^ (o % 8) % 256

/-- The two bits of a tag (R419). -/
def Tag.code : Tag → Nat
  | .empty => 0
  | .full => 1
  | .poison => 2

/-- A byte of the slot map and of the saved slots. -/
def Task.slotByte (t : Task) (o : Nat) : Nat :=
  let ks := t.savedSlots
  if o < t.who.n then bit (ks.contains o)
  else
    let k := ks.getD ((o - t.who.n) / 8192) 0
    let p := (o - t.who.n) % 8192
    (t.mrow k (p / 128)).toNat / 256 ^ (p % 128) % 256

/-- A byte of the tiles. -/
def Task.tileByte (t : Task) (o : Nat) : Nat :=
  let k := o / 33792
  let p := o % 33792
  if p < 32768 then (tget 0 t.acc (k * 128 + p / 256)).toNat / 256 ^ (p % 256) % 256
  else if p < 33280 then (tget 0xFF800000 t.rowmax (k * 128 + (p - 32768) / 4)).toNat / 256 ^ (p % 4) % 256
  else (tget 0 t.rowsum (k * 128 + (p - 33280) / 4)).toNat / 256 ^ (p % 4) % 256

/-- A byte of the tags: four rows, the lowest in bits [1:0]. -/
def Task.tagByte (t : Task) (o : Nat) : Nat :=
  (List.range 4).foldl (fun a k => a + (t.row (4 * o + k)).tag.code * 4 ^ k) 0

/-- OLD and NEW of a task's shadow entries. -/
def Task.shadowPairs (t : Task) : List (Nat × Nat) := t.allShadows.map fun e => (e.old, e.new)

/-- A byte of the shadow data of some entries: OLD, then NEW, of each. -/
def shadowByte (l : List Shadow) (o : Nat) : Nat :=
  (l.foldl (fun (a : Nat × Nat) e =>
    let (p, v) := a
    if o < p || p + 2 * e.size ≤ o then (p + 2 * e.size, v)
    else
      let k := o - p
      (p + 2 * e.size, if k < e.size then e.old / 256 ^ k % 256 else e.new / 256 ^ (k - e.size) % 256)) (0, 0)).2

/-- A byte of a task's state. -/
def stateByte (s : State) (t : Task) (stage : Nat) (js : List Job) (o : Nat) : Nat :=
  let l := t.lay js
  if l.length ≤ o then 0
  else if o < l.slots then
    match (stateFields s t stage l).find? fun f => f.1 ≤ o && o < f.1 + f.2.1 with
    | some f => f.2.2 / 256 ^ (o - f.1) % 256
    | none => 0
  else if o < l.tiles then t.slotByte (o - l.slots)
  else if o < l.rows then t.tileByte (o - l.tiles)
  else if o < l.tags then (t.row ((o - l.rows) / 128)).data.toNat / 256 ^ ((o - l.rows) % 128) % 256
  else if o < l.shadow then t.tagByte (o - l.tags)
  else if o < l.engine then shadowByte t.allShadows (o - l.shadow)
  else if o < l.jobs then wordsByte t.engineWords (o - l.engine)
  else wordsByte (js.flatMap packJob) (o - l.jobs)

/-- Eight bytes of a task's state. -/
def stateWord (s : State) (t : Task) (stage : Nat) (js : List Job) (o : Nat) : Word :=
  BitVec.ofNat 64 ((List.range 8).foldr (fun k a => stateByte s t stage js (o + k) + 256 * a) 0)

/-! ### A task read from an image (R320, R419) -/

/-- A reader of an image: offset and size give the little-endian number that stands there. -/
abbrev Rd := Nat → Nat → Nat

/-- The bytes from an offset on. -/
def Rd.at_ (r : Rd) (b : Nat) : Rd := fun o n => r (b + o) n

/-- A table of `n` entries, with `d` unlisted. -/
def tabOf {α : Type} [DecidableEq α] (d : α) (n : Nat) (f : Nat → α) : Tab α := (List.range n).foldl (fun t k => tset d t k (f k)) []

/-- A strand read. -/
def readStrand (r : Rd) (x : Bool) (ended : Bool) : Strand :=
  let o (a b : Nat) : Nat := if x then b else a
  let tr := r (o 0x218 0x380) 8
  { pc := BitVec.ofNat 64 (r 0 8)
    regs := (tdel (tabOf 0 64 fun k => BitVec.ofNat 64 (r (8 + 8 * k) 8)) 0)
    preds := BitVec.ofNat 8 (r 0x208 1 / 2 * 2)
    loopc := BitVec.ofNat 32 (r (o 0x210 0x250) 8)
    trap := { code := BitVec.ofNat 8 tr, sub := BitVec.ofNat 8 (tr / 256), fatal := tr / 65536 % 2 = 1 }
    trappc := BitVec.ofNat 64 (r (o 0x3A0 0x388) 8 / 8)
    hold := if r (o 0x230 0x270) 1 % 2 = 1 then some (BitVec.ofNat 64 (r (o 0x228 0x268) 8)) else none
    ended := ended, via := none }

/-- A parameter set read. -/
def readSet (r : Rd) : PSet :=
  { w0 := BitVec.ofNat 64 (r 0 8), w1 := BitVec.ofNat 64 (r 8 8), w2 := BitVec.ofNat 64 (r 16 8), w3 := BitVec.ofNat 64 (r 24 8) }

/-- A port read. -/
def readPort (r : Rd) : Port :=
  let fl := r 0x68 4
  { staged := readSet r, active := if fl % 2 = 1 then some (readSet (r.at_ 32)) else none,
    pending := if fl / 2 % 2 = 1 then some (readSet (r.at_ 64)) else none,
    i0 := BitVec.ofNat 16 (r 0x60 2), i1 := BitVec.ofNat 16 (r 0x62 2), i2 := BitVec.ofNat 16 (r 0x64 2),
    i3 := BitVec.ofNat 16 (r 0x66 2), count := BitVec.ofNat 32 (r 0x6C 4) }

/-- A queue read: `n` entries of 8 bytes. -/
def readQueue (r : Rd) (n : Nat) : Queue :=
  { items := (List.range n).map fun k => { v := BitVec.ofNat 64 (r (8 * k) 8), at_ := 0 }, popped := 0 }

/-- A token read (10 R264). -/
def readTok (v : Nat) : Token :=
  { st := (match v % 4 with | 0 => .idle | 1 => .pending | 2 => .ok | _ => .err), errc := BitVec.ofNat 4 (v / 16),
    done := BitVec.ofNat 32 (v / 65536), job := 0 }

/-- A shadow header read; none where VALID is 0. -/
def readShadow (r : Rd) (k : Nat) : Option Shadow :=
  let h := r.at_ (0x1880 + 32 * k)
  if h 0 1 % 2 = 0 then none
  else
    let size := min (h 20 4) 8192
    some { kind := h 1 1, dest := h 2 2, rem := h 4 1, mask := h 8 8, size := size, old := r (h 16 4) size,
           new := r (h 16 4 + size) size, at_ := k }

/-- The valid shadow headers. -/
def readShadows (r : Rd) : List Shadow := (List.range 128).filterMap (readShadow r)

/-- An `mld` or `mst` in flight with its h − t and next access as its port's fields hold them, where it is the only one on its port; where
there are more, the fields show one of them and the engine record holds all (log 30). -/
def readAccess (r : Rd) (fs : List Flight) (f : Flight) : Flight :=
  let alone (k : Nat) : Bool := f.onPort k && (fs.filter fun g => g.onPort k).length == 1
  let ht (p : Nat) : Nat := r (0x0AF8 + 128 * p) 2 - 1
  let j (p : Nat) : Nat := r (0x0AFA + 128 * p) 2
  match f.kind with
  | .mld slot d p n m _ rows => if alone p then { f with age := ht p, kind := .mld slot d p n m (j p) rows } else f
  | .mst p m todo made rows =>
    if alone (p + 8) then { f with age := ht (p + 8), kind := .mst p m (todo.drop (j (p + 8) - made)) (j (p + 8)) rows } else f
  | _ => f

/-- What a state holds beside the fields of the layout (log 30): the words before the engine record, and the engine's flights with their
places in issue order. -/
structure Own where
  array : Nat
  aEnded : Bool
  xEnded : Bool
  nextpc : Option Word
  gap : Nat
  pred : BitVec 3
  places : List Nat
  engine : List (Nat × Flight)
  deriving DecidableEq, Repr

/-- A fresh state has nothing beside its fields. -/
def Own.zero : Own :=
  { array := 0, aEnded := false, xEnded := false, nextpc := none, gap := 0, pred := 0, places := [], engine := [] }

/-- The engine record of a state and what stands before it. -/
def readOwn (r : Rd) (from_ end_ : Nat) : Own :=
  let ws := (List.range ((end_ - from_) / 8)).map fun k => r (from_ + 8 * k) 8
  let (array, l) := unNat ws
  let (ae, l) := unNat l
  let (xe, l) := unNat l
  let (np, l) := unOpt l
  let (gap, l) := unNat l
  let (p, l) := unNat l
  let (places, l) := unList unNat l
  let one : Unp (Option (Nat × Flight)) := fun l =>
    match l with
    | n :: pc :: w :: age :: lat :: l =>
      let (k, l) := unKind l
      (k.map fun k => (n, { pc := BitVec.ofNat 64 pc, age := age - 1, lat := lat, kind := k, word := BitVec.ofNat 64 w }), l)
    | _ => (none, [])
  let es := (unList one l).1.filterMap id
  { array := array, aEnded := ae = 1, xEnded := xe = 1, nextpc := np.map (BitVec.ofNat 64 ·), gap := gap,
    pred := BitVec.ofNat 3 p, places := places, engine := es.map fun e => (e.1, readAccess r (es.map (·.2)) e.2) }

/-- Shadow and engine flights in issue order. -/
def mergeFlights (a : List (Nat × Flight)) : List (Nat × Flight) → List Flight
  | [] => a.map (·.2)
  | e :: r => mergeFlights ((a.filter fun x => decide (x.1 ≤ e.1)) ++ [e] ++ a.filter fun x => decide (e.1 < x.1)) r

/-- The flights of a state. -/
def readFlights (r : Rd) (o : Own) : List Flight :=
  mergeFlights ((readShadows r).map fun e => (o.places.getD e.at_ e.at_, e.flight)) o.engine

/-- The suspension and the wait that WAITC records. -/
def readWait (r : Rd) (o : Own) : Option Susp × Option SlotWait :=
  let w (k : WaitKind) : SlotWait :=
    { kind := k, slot := BitVec.ofNat 22 (r 0x284 4), cond := BitVec.ofNat 3 (r 0x281 1), t := BitVec.ofNat 32 (r 0x288 4),
      phase := .sent, pc := 0 }
  match r 0x280 1 with
  | 1 => (some .swaitv, some (w (.swaitv o.pred)))
  | 2 => (some (.split (BitVec.ofNat 8 (r 0x282 1))), if r 0x284 4 = 0 && r 0x288 4 = 0 && r 0x281 1 = 0 then none else some (w .split))
  | _ => (none, none)

/-- A task read from its state's bytes; `t` supplies its identity, class ceiling, windows and N. -/
def readTask (r : Rd) (t : Task) : Task :=
  let fl := r 6 1
  let inflight := fl / 2 % 2 = 1
  let n := t.who.n
  let slots := (List.range n).filter fun k => r (r 24 4 + k) 1 % 2 = 1
  let mrows := slots.zipIdx.foldl (fun m e =>
    (List.range 64).foldl (fun m i =>
      tset 0 m (e.1 * 64 + i) (BitVec.ofNat 1024 (r (r 24 4 + n + 8192 * e.2 + 128 * i) 128))) m) []
  let tiles := min (r 16 1) t.win.acSize
  let rows := min (2 * r 14 2) t.win.rows
  let tl := r 28 4
  let tag (k : Nat) : Tag :=
    match r (r 36 4 + k / 4) 1 / 4 ^ (k % 4) % 4 with
    | 1 => .full
    | 2 => .poison
    | _ => .empty
  let row (k : Nat) : SRow :=
    { data := BitVec.ofNat 1024 (r (r 32 4 + 128 * k) 128), tag := tag k, seen := tag k, ue := 0 }
  let own := if inflight then readOwn r (r 44 4) (r 48 4) else Own.zero
  let (susp, wait) := readWait r own
  let left := BitVec.ofNat 3 (r 0x249 1)
  let tile (k : Nat) : Option Tile :=
    let v := r (0x1080 + 8 * k) 8
    if v / 2 ^ 32 % 2 = 1 then some { first := v % 2 ^ 14, count := v / 2 ^ 16 % 2 ^ 14, up := v / 2 ^ 33 % 2 = 1 } else none
  let toks := tabOf Token.zero 8 fun k => readTok (r (0xA40 + 8 * k) 8)
  let as1 : AState :=
    { AState.zero with
      toks := toks, issued := if left = 0 then 0 else ~~~left, group := left, nextpc := own.nextpc, podmask := BitVec.ofNat 64 (r 0x278 8)
      binds := (List.range 16).filterMap fun k =>
        let v := r (0x2EC + 16 * k) 4
        if 2 ^ 31 ≤ v then
          some { base := BitVec.ofNat 64 (r (0x2E0 + 16 * k) 8), len := BitVec.ofNat 32 (r (0x2E8 + 16 * k) 4),
                 slot := BitVec.ofNat 22 v }
        else none
      decls := (List.range 4).filterMap fun k =>
        let v := r (0x290 + 4 * k) 4
        if v < 2 ^ 31 then none else some (BitVec.ofNat 22 v)
      lands := (List.range 4).foldl (fun l k =>
        let v := r (0x2A0 + 16 * k) 8
        if 2 ^ 63 ≤ v then
          tins l k { base := BitVec.ofNat 14 v, slot := BitVec.ofNat 22 (r (0x2A8 + 16 * k) 8) }
        else l) []
      wait := wait }
  let xs1 : XState :=
    { XState.zero with
      masks := tdel (tabOf 0 8 fun k => BitVec.ofNat 64 (r (0x650 + 8 * k) 8)) 0
      gens := tabOf 0 64 fun k => BitVec.ofNat 32 (r (0x6C0 + 4 * k) 4)
      base := BitVec.ofNat 6 (r 17 1), step := BitVec.ofNat 6 (r 18 1), rndm := BitVec.ofNat 3 (r 0x698 8)
      mrows := mrows, slots := slots.map fun k => (k, { phys := none, age := none })
      flights := if inflight then readFlights r own else [], array := own.array, gap := own.gap }
  let t1 : Task := { t with
    a := readStrand (r.at_ 0x40) false own.aEnded
    x := readStrand (r.at_ 0x440) true own.xEnded
    as := as1, xs := xs1
    qskip := { exp := BitVec.ofNat 8 (r 0x6A0 8), en := r 0x6A0 8 / 256 % 2 = 1 }
    aq := readQueue (r.at_ 0x840) (min (r 0x9C8 2) 32)
    xq := readQueue (r.at_ 0x940) (min (r 0x9CA 2) 16)
    bq := { items := (List.range (min (r 0x9CC 2) 64)).map fun k =>
              { v := BitVec.ofNat 64 (r 0x9C0 8 / 2 ^ k % 2), at_ := 0 }, popped := 0 }
    acc := (List.range (tiles * 128)).foldl (fun m k =>
      tset 0 m k (BitVec.ofNat 2048 (r (tl + k / 128 * 33792 + k % 128 * 256) 256))) []
    rowmax := (List.range (tiles * 128)).foldl (fun m k =>
      tset 0xFF800000 m k (BitVec.ofNat 32 (r (tl + k / 128 * 33792 + 32768 + k % 128 * 4) 4))) []
    rowsum := (List.range (tiles * 128)).foldl (fun m k =>
      tset 0 m k (BitVec.ofNat 32 (r (tl + k / 128 * 33792 + 33280 + k % 128 * 4) 4))) []
    rows := (List.range rows).foldl (fun m k => tset SRow.zero m k (row k)) []
    touched := []
    tiles := (List.range 256).foldl (fun m k => match tile k with | some e => tins m k e | none => m) []
    ports := tabOf Port.idle 12 fun k => readPort (r.at_ (0x0A80 + 128 * k))
    consts := tabOf 0 1024 fun k => BitVec.ofNat 16 (r (0x2880 + 2 * k) 2)
    cancelpc := BitVec.ofNat 64 (r 0x260 8 / 8)
    susp := susp, yielded := decide (r 0x280 1 = 3) }
  t1.repop

/-- A walk program's own state read back (10 R270): PC, stacks, permits, chain, staging buffer. -/
def unWalk : Unp Walk := fun l =>
  let (pc, l) := unNat l
  let (stack, l) := unList unNat l
  let (loops, l) := unList (unPair unNat unNat) l
  let (rets, l) := unList unNat l
  let (permits, l) := unNat l
  let (chain, l) := unOpt l
  let (ws, l) := unMany unNat 4096 l
  let stage := ws.zipIdx.foldl (fun m e =>
    (List.range 8).foldl (fun m i => tset 0 m (8 * e.2 + i) (BitVec.ofNat 8 (e.1 / 256 ^ i))) m) []
  ({ pc := pc, stack := stack.map (BitVec.ofNat 64 ·), loops := loops.map fun e => (BitVec.ofNat 64 e.1, e.2), rets := rets, stage := stage,
     permits := permits, chain := chain, tokd := false, launch := none }, l)

/-- A copy or walk record read (10 R266), for a task restored from an image; a record of another kind is none. -/
def unJob (b : Job) : Unp (Option Job) := fun l =>
  match l with
  | r0 :: r1 :: e :: r3 :: r4 :: r5 :: t :: v :: l =>
    let k := v / 2 ^ 24 % 256
    let fb (i : Nat) : Bool := v / 2 ^ (8 + i) % 2 = 1
    let j : Job :=
      { b with
        rec0 := BitVec.ofNat 64 r0, rec1 := BitVec.ofNat 64 r1, ext0 := e % 2 ^ 32, ext1 := e / 2 ^ 32, rec3 := BitVec.ofNat 64 r3,
        rec4 := BitVec.ofNat 64 r4, rec5 := BitVec.ofNat 64 r5, t := BitVec.ofNat 64 t, w := v / 2 ^ 16 % 4,
        k := if k < 8 then some (BitVec.ofNat 3 k) else none, rows := v / 2 ^ 32, got := v / 2 ^ 32 }
    let copy (c : CKind) : Option Job := some { j with kind := .copy c (fb 0) (fb 1) (fb 2) (fb 3) }
    match v % 256 with
    | 0 => (copy .gg, l)
    | 1 => (copy .gs, l)
    | 2 => (copy .sg, l)
    | 3 => (copy .ss, l)
    | 4 => (some { j with kind := .gather false (fb 0) }, l)
    | 5 => (some { j with kind := .gather true (fb 0) }, l)
    | 7 => let (w, l) := unWalk l; (some { j with kind := .walk, walk := some w }, l)
    | _ => (none, l)
  | _ => (none, [])

/-- The copy and walk records of a state, from its words; `n` bounds their number. -/
def unJobs (b : Job) : Nat → List Nat → List Job
  | 0, _ => []
  | n + 1, l =>
    if l.length < 8 then []
    else
      let (j, r) := unJob b l
      j.toList ++ unJobs b n r

/-- The copy and walk records of a state read. -/
def readJobs (r : Rd) (b : Job) : List Job :=
  let n := (r 0 4 - r 48 4) / 8
  unJobs b n ((List.range n).map fun k => r (r 48 4 + 8 * k) 8)

/-- Whether a shadow header breaks R419. -/
def shadowBad (r : Rd) : Bool :=
  (readShadows r).any fun e => r 6 1 / 2 % 2 = 0 || e.kind = 0 || decide (8 < e.kind) || e.rem = 0 || decide (17 < e.rem)

end Sys2Proof.Machine
end

