-- ==== Sys2Proof/Machine/Place.lean ====
section
/-! DEFINITION. Placement (15 R323-R329): the grant of cores, the choice of a bank, dispatch of records and restore of saved
tasks (19 R417), the save of a task (19 R416), the stage balancer. -/

namespace Sys2Proof.Machine

/-! ### Tasks of a launch -/

/-- Whether a stage's tasks are exclusive (03 R53). -/
def Stage.excl (st : Stage) : Bool := decide (3072 < st.sprows) || decide (32 < st.actiles)

/-- The windows of a task of a stage in a bank (03 R53). -/
def Stage.windows (st : Stage) (bank : Nat) : Windows :=
  { spBase := bank * 3072, spSize := max 3072 st.sprows, acBase := bank * 32, acSize := max 32 st.actiles }

/-- A launch's stage numbers. -/
def Launch.nums (l : Launch) : List Nat := List.range l.stages.length

/-- A fresh task of a launch (15 R321, R325; 03 R64, R70, R76; 02 R36). -/
def Launch.baseTask (l : Launch) (launch stage depth set : Nat) : Task :=
  let st := l.stage stage
  { who := { id := 0, ctx := l.ctx, queue := l.queue, phase := l.phase, launch := launch, depth := depth, stage := stage,
             last := l.stages.length - 1, n := st.n, excl := st.excl, pin := none, parent := 0, join := none }
    mem := l.mem
    win := st.windows 0
    cls := { set := max set l.ceil, cur := max set l.ceil, ceil := l.ceil, lat := l.lat, borrow := false }
    a := { Strand.zero with pc := st.aentry }
    x := { Strand.zero with pc := st.xentry }
    as := AState.zero
    xs := { XState.zero with gens := tabOf 0 64 fun i => laneSeed 0 i }
    qskip := { exp := 0, en := false }
    aq := Queue.zero, xq := Queue.zero, bq := Queue.zero
    acc := [], rowmax := [], rowsum := [], rows := [], touched := [], tiles := [], ports := []
    consts := l.consts, cancelpc := st.cancel, cancel := none, susp := none, stop := none, retiring := false, point := false, yielded := false, evict := none }

/-- The task that a continuation record becomes (11 R286; 03 R74), its generators those of a fresh image, with seed 0 (DESIGN CHOICE, log
142). -/
def Launch.recordTask (l : Launch) (launch : Nat) (r : Record) : Task :=
  let t := l.baseTask launch r.stage r.depth r.set
  { t with
    who := { t.who with parent := r.parent, join := r.join }
    mem := r.mem
    a := { t.a with pc := r.pc, regs := r.vals.foldl (fun m e => tset 0 m e.1 e.2) [] }
    as := { t.as with decls := r.decls }
    point := true }

/-! ### Cores (R323, R324) -/

/-- The clusters that a mask names, 0 naming all (R316). -/
def maskClusters (m : Word) : List Nat := (List.range 64).filter fun c => m = 0 || m.getLsbD c

/-- Whether a core is reserved (R326). -/
def State.isReserved (s : State) (core : Nat) : Bool := (tget 0 s.fe.reserved (clusterOf core)).getLsbD (core % 12)

/-- The cores of a mask that a launch may be granted, in the order of R324. -/
def State.openCores (s : State) (m : Word) : List Nat :=
  (maskClusters m).flatMap fun c =>
    ((List.range 12).map fun k => c * 12 + k).filter fun n => !s.isReserved n && (s.cluster c).on

/-- Whether a core is assigned to a stage of some launch. -/
def State.assigned (s : State) (core : Nat) : Bool :=
  s.fe.launches.any fun e => !e.2.gang && e.2.cores.any fun x => x.1 == core

/-- Cores that a launch holds for a stage. -/
def Launch.total (l : Launch) (stage : Nat) : Nat := (l.cores.filter fun e => e.2 == stage).length

/-- The stage that a core just granted is given (R324): MINC cores to each stage in ascending order, then one at a time
cyclically, stages at MAXC skipped; the cycle is told from the cores that each stage holds above its MINC. -/
def Launch.nextStage (l : Launch) : Option Nat :=
  match l.nums.find? fun k => decide (l.total k < (l.stage k).minc) with
  | some k => some k
  | none =>
    (l.nums.filter fun k => decide (l.total k < (l.stage k).maxc)).foldl (fun b k =>
      match b with
      | none => some k
      | some j =>
        if l.total k - (l.stage k).minc < l.total j - (l.stage j).minc then some k else some j) none

/-- The sum of a stage field. -/
def Launch.sum (l : Launch) (f : Stage → Nat) : Nat := l.stages.foldl (fun a st => a + f st) 0

/-- A launch with one more core, in the stage that the cyclic rule gives it; it runs once it holds its MINC cores (R324). -/
def Launch.take (l : Launch) (core : Nat) : Launch :=
  match l.nextStage with
  | none => l
  | some k =>
    let cores := l.cores ++ [(core, k)]
    { l with cores := cores, granted := l.granted || decide (l.sum (·.minc) ≤ cores.length) }

/-- Cores that a launch may still hold. -/
def Launch.open_ (l : Launch) : Bool := !l.gang && l.nextStage.isSome

/-- What a launch takes when it starts: every free core of its mask, up to the sum of its MAXC (R324). -/
def State.grant (s : State) (n : Nat) : State :=
  match tfind s.fe.launches n with
  | none => s
  | some l =>
    if l.gang then s
    else
      let l1 := ((s.openCores l.mask).filter fun c => !s.assigned c).foldl Launch.take l
      s.putLaunch n { l1 with granted := l1.granted || decide (l1.sum (·.minc) ≤ l1.cores.length) }

/-- The launches to which a free core is offered, in order (R324): those that wait for their MINC cores, then the others, each in the
order in which their commands started. -/
def State.takers (s : State) : List (Nat × Launch) :=
  let l := s.fe.launches.filter fun e => e.2.open_
  l.filter (fun e => !e.2.granted) ++ l.filter fun e => e.2.granted

/-- A free core goes to the first launch whose mask admits it (R324). -/
def State.offer (s : State) (core : Nat) : State :=
  match s.takers.find? fun e => (maskClusters e.2.mask).contains (clusterOf core) with
  | none => s
  | some (n, l) => s.putLaunch n (l.take core)

/-- The cores that are free, offered one after another (R324). -/
def State.grantAll (s : State) : State :=
  if s.takers.isEmpty then s else ((s.openCores 0).filter fun c => !s.assigned c).foldl State.offer s

/-! ### Where a task may be placed (R323, R326, R327; 03 R53, R67; 16 R337) -/

/-- A saved task that may be restored: its condition holds, and no debug halt keeps it. -/
def Saved.free (v : Saved) : Bool := v.ready && v.halt.isNone

/-- Whether a cluster's range matcher has, or can take, a context (16 R337): the slot of a context of which no bank holds a
task and no copy or walk program runs can be vacated. -/
def State.idleCtx (s : State) (cl c : Nat) : Bool :=
  !(s.tasks.any fun e => clusterOf (e.1 / 2) == cl && e.2.who.ctx == c) && !(s.jobs.any fun e => e.2.cluster == cl && e.2.ctx == c)

/-- The place of a context in a cluster's matcher, present, free or to be vacated. -/
def State.matcherSlot (s : State) (cl c : Nat) : Option Nat :=
  let l := (s.cluster cl).ctxs
  if l.contains c then some (l.findIdx (· == c))
  else if l.contains 16 then some (l.findIdx (· == 16))
  else if l.length < 4 then some l.length
  else (List.range 4).find? fun k => s.idleCtx cl (l.getD k 16)

/-- A bank that may take a task of a stage. -/
def State.bankFits (s : State) (core bank : Nat) (ctx : Nat) (st : Stage) : Bool :=
  let o := s.task core (1 - bank)
  (s.task core bank).isNone && (s.cluster (clusterOf core)).on && (s.matcherSlot (clusterOf core) ctx).isSome &&
    match o with
    | none => !st.excl || bank == 0
    | some u => !st.excl && !u.who.excl && decide (st.n + (if u.leaving then 0 else u.who.n) ≤ 112)

/-- The pinned cores of a gang launch. -/
def Launch.pins (l : Launch) : List Nat := l.cores.map (·.1)

/-- A number put into an ascending list without repeats. -/
def insertNum (n : Nat) : List Nat → List Nat
  | [] => [n]
  | k :: r => if n = k then k :: r else if n < k then n :: k :: r else k :: insertNum n r

/-- Numbers in ascending order. -/
def ascending (l : List Nat) : List Nat := l.foldl (fun r n => insertNum n r) []

/-- The cores of a mask that are assigned to latency-class launches: they take latency records of any launch (R324; DEDUCED, log 49). -/
def State.latCores (s : State) (m : Word) : List Nat :=
  (ascending (s.fe.launches.flatMap fun e => if e.2.lat && !e.2.gang then e.2.cores.map (·.1) else [])).filter fun c =>
    (maskClusters m).contains (clusterOf c)

/-- The reserved cores of a mask. -/
def State.reservedOf (s : State) (m : Word) : List Nat :=
  (maskClusters m).flatMap fun c => ((List.range 12).map fun k => c * 12 + k).filter s.isReserved

/-- A borrower runs in B0 of a core. -/
def State.lent (s : State) (core : Nat) : Bool := match s.task core 0 with | some b => b.cls.borrow | none => false

/-- The banks that a task or record of a launch may take, in the order of R326, as (core, bank, borrows); B1 behind a borrower is its third
case, and the cores of other latency-class launches come after it. -/
def State.places (s : State) (l : Launch) (stage : Nat) : List (Nat × Nat × Bool) :=
  let st := l.stage stage
  let both (cs : List Nat) : List (Nat × Nat × Bool) := cs.flatMap fun c => [(c, 0, false), (c, 1, false)]
  let mine := ascending (if l.gang then l.pins else (l.cores.filter fun e => e.2 == stage).map (·.1))
  let resv := s.reservedOf l.mask
  let fit (p : Nat × Nat × Bool) : Bool := s.bankFits p.1 p.2.1 l.ctx st
  if l.gang then (both mine).filter fit
  else if l.lat then
    (both (resv.filter fun c => !s.lent c) ++ both mine).filter fit
  else
    let latWaits (cl : Nat) : Bool := s.fe.launches.any fun e =>
      e.2.lat && (maskClusters e.2.mask).contains cl && (!e.2.recs.isEmpty || s.fe.saved.any fun v => v.2.launch == e.1 && v.2.free)
    let lend := resv.filter fun c =>
      (s.task c 0).isNone && (s.task c 1).isNone && !latWaits (clusterOf c) && !st.excl
    ((both mine).filter fit) ++ ((lend.map fun c => (c, 0, true)).filter fit)

/-- The banks of the cores of other latency-class launches, which a latency record takes when no case of R326 has one (R324; DESIGN CHOICE,
log 49). -/
def State.latPlaces (s : State) (l : Launch) (stage : Nat) : List (Nat × Nat × Bool) :=
  let mine := (l.cores.filter fun e => e.2 == stage).map (·.1)
  if !l.lat || l.gang then []
  else
    (((s.latCores l.mask).filter fun c => !mine.contains c).flatMap fun c => [(c, 0, false), (c, 1, false)]).filter fun p =>
      s.bankFits p.1 p.2.1 l.ctx (l.stage stage)

/-- B1 of a reserved core whose B0 holds a borrower, which counts with N = 0 once it is signalled to halt (R326 case 3; 03
R67). -/
def State.behindBorrower (s : State) (l : Launch) (stage : Nat) : Option Nat :=
  if !l.lat || l.gang || (l.stage stage).excl then none
  else
    (s.reservedOf l.mask).find? fun c =>
      s.lent c && (s.task c 1).isNone && (s.cluster (clusterOf c)).on && (s.matcherSlot (clusterOf c) l.ctx).isSome

/-! ### Placing (19 R417, R329; 10 R266, R268; 16 R337) -/

/-- The words of a partition. -/
def partOf (st : Tab (BitVec 16)) (k : Nat) : Tab (BitVec 16) :=
  (st.filter fun e => e.1 / 256 == k).map fun e => (e.1 % 256, e.2)

/-- A partition replaced. -/
def setPart (st : Tab (BitVec 16)) (k : Nat) (p : Tab (BitVec 16)) : Tab (BitVec 16) :=
  (List.range 256).foldl (fun m i => tset 0 m (k * 256 + i) (tget 0 p i)) st

/-- A context loaded into a cluster's range matcher: the partition of the context that leaves is saved, and that of the one
that comes is restored (10 R268, 16 R337). -/
def State.loadCtx (s : State) (cl ctx : Nat) : State :=
  let c := s.cluster cl
  if c.ctxs.contains ctx then s
  else
    match s.matcherSlot cl ctx with
    | none => s
    | some k =>
      let old := c.ctxs.getD k 16
      let parked := if old < 16 then tset [] c.parked old (partOf c.store k) else c.parked
      let ctxs := if k < c.ctxs.length then c.ctxs.set k ctx else c.ctxs ++ [ctx]
      s.putCluster cl
        { c with ctxs := ctxs, store := setPart c.store k (tget [] parked ctx), parked := tdel parked ctx }

/-- The walker code of a launch loaded with its first task in a cluster (10 R268). -/
def State.loadWalk (s : State) (cl n : Nat) (l : Launch) : State :=
  let c := s.cluster cl
  if c.loaded.contains (l.ctx, n) then s
  else
    let k := s.partition cl l.ctx
    s.putCluster cl { c with loaded := (l.ctx, n) :: c.loaded, store := putStore c.store (k * 256) l.walk }

/-- The phase operation (R329): another triple, or for a restored task another core, makes the core write down its L1 and
invalidate it. -/
def State.phaseOp (s : State) (core : Nat) (t : Task) (from_ : Option Nat) : State :=
  let now := (t.who.ctx, t.who.queue, t.who.phase)
  let c := s.core core
  let moved := match from_ with | some k => k != core | none => false
  let s1 :=
    if c.last != some now then s.invalL1 core .device fun _ => true
    else if moved then s.invalL1 core .device fun _ => true
    else s
  s1.putCore core { (s1.core core) with last := some now }

/-- A saved slot of a task bound to a physical register: a free one, that of a halted task of the other bank whose save runs, or that of
a slot of its own, which is spilled (03 R65, R66). -/
def State.bindOne (core bank : Nat) (e : State × Task) (k : Nat) : State × Task :=
  let (s, t) := e
  let other := match s.task core (1 - bank) with | none => [] | some o => o.xs.slots.filterMap fun e => e.2.phys
  let used := other ++ t.xs.slots.filterMap fun e => e.2.phys
  match freePhys used, s.donorOf core (1 - bank) with
  | none, some (o, v, p) =>
    (s.putTask core (1 - bank) (o.give v), t.onX fun x => { x with slots := tins x.slots k { phys := some p, age := t.slotAge k } })
  | _, _ => (s, (t.bind used [] k).getD t)

/-- The saved slots of a task bound to physical registers in ascending order (03 R65, R66). -/
def State.bindSaved (s : State) (core bank : Nat) (t : Task) : State × Task :=
  (t.xs.slots.map (·.1)).foldl (State.bindOne core bank) (s, t)

/-- The walker entries of one recorded copy (10 R266), which reads its source as its reissue finds it (DEDUCED, log 113). -/
def State.reissue (s : State) (core bank : Nat) (t : Task) (j : Job) : State × Task :=
  let n := s.nextJob
  let later := j.st == .timed && j.t != 0
  let j1 : Job :=
    { j with st := .timed, t := if later then j.t else 0, snap := [], core := core, bank := bank, id := t.who.id, ctx := t.who.ctx,
             launch := t.who.launch, cluster := clusterOf core, lat := decide (t.cls.cur < 2) }
  let s1 := { s with jobs := tins s.jobs n j1, nextJob := n + 1 }
  let x := s1.walker (clusterOf core) j.w
  let s2 := if later && x.timed.length < 32 then s1.putWalker (clusterOf core) j.w { x with timed := x.timed ++ [n] } else s1
  let t1 := match j.k with
    | none => t
    | some k => t.onA fun a => { a with toks := tmod a.toks k.toNat fun e => if e.st == .pending then { e with job := n } else e }
  (s2, t1)

/-- The recorded copies reissued one after another. -/
def State.reissueAll (s : State) (core bank : Nat) (t : Task) : List Job → State × Task
  | [] => (s, t)
  | j :: js =>
    let (s1, t1) := s.reissue core bank t j
    s1.reissueAll core bank t1 js

/-- A task placed in a bank: its context and walker code are there, its windows lie in the bank, its slots are bound, its
recorded copies are reissued, its other copies answer to its new place, the spill ways stand, the phase operation is done (R329; 03 R53,
R67; 19 R417). It is restored only when every copy reissued has entered its walker's queue or buffer (10 R266). -/
def State.place (s : State) (core bank : Nat) (borrow : Bool) (n : Nat) (l : Launch) (t : Task) (from_ : Option Nat)
    (copies : List Job) : State :=
  let s0 := (s.loadCtx (clusterOf core) t.who.ctx).loadWalk (clusterOf core) n l
  let (s1, t1) := s0.bindSaved core bank
    { t with win := (l.stage t.who.stage).windows bank, cls := { t.cls with borrow := borrow }, stop := none, evict := none }
  let (s2, t2) := s1.reissueAll core bank t1 copies
  let waits := s2.jobs.any fun e => e.2.id == t2.who.id && s2.enters e
  let s3 : State :=
    { s2 with jobs := tmap s2.jobs fun _ j => if j.id == t2.who.id then { j with core := core, bank := bank } else j }
  let s4 := s3.putTask core bank { t2 with susp := if waits then some .restoring else t2.susp }
  let s5 := (s4.setSpill core (s4.spillWays core)).phaseOp core t from_
  match tfind s5.fe.launches n with
  | none => s5
  | some l1 => s5.putLaunch n { l1 with ran := if l1.ran.contains core then l1.ran else l1.ran ++ [core] }

/-- XSTAT.CANCEL that a new task of a member has: a cancelled sibling's reads 1 (18 R402). -/
def State.cancelOf (s : State) (m : Member) : Option (BitVec 8) :=
  match m.group.bind (tfind s.groups ·) with
  | none => none
  | some g => match g.sibs[m.index]? with | some b => if b.st == .cancelled then some b.sub else none | none => none

/-- The next task id (03 R76). -/
def State.newId (s : State) : BitVec 32 × State :=
  (s.fe.nextTask, { s with fe := { s.fe with nextTask := if s.fe.nextTask = BitVec.allOnes 32 then 1 else s.fe.nextTask + 1 } })

/-- The compare of a saved task's wait that is on its way becomes that of its strand, once the task has a bank. -/
def State.ownWait (s : State) (k core bank : Nat) (id : BitVec 32) : State :=
  let f (m : SemMsg) : SemMsg := if m.src == .saved k then { m with src := .strand, core := core, bank := bank, id := id } else m
  { s with cores := tmap s.cores fun _ c => { c with inbox := c.inbox.map f }, pod := { s.pod with sems := s.pod.sems.map f } }

/-- A saved or fresh state placed: a fresh one receives its id. -/
def State.placeSaved (s : State) (core bank : Nat) (borrow : Bool) (k : Nat) (v : Saved) : State :=
  match tfind s.fe.launches v.launch with
  | none => s
  | some l =>
    let (id, s1) := if v.task.who.id = 0 then s.newId else (v.task.who.id, s)
    let t := { v.task with who := { v.task.who with id := id }, point := v.task.point || v.task.who.id != 0 }
    let s2 : State := { s1 with fe := { s1.fe with saved := tdel s1.fe.saved k } }
    (s2.ownWait k core bank id).place core bank borrow v.launch l t v.from_ v.copies

/-- A record placed as a task (11 R286). -/
def State.placeRecord (s : State) (core bank : Nat) (borrow : Bool) (n : Nat) (l : Launch) (r : Record) : State :=
  let (id, s1) := s.newId
  let t := l.recordTask n r
  let t1 := { t with who := { t.who with id := id }, cancel := s.cancelOf r.mem }
  let l1 := { l with recs := l.recs.erase r, tree := l.tree ++ [(id, r.parent)] }
  (s1.putLaunch n l1).place core bank borrow n l1 t1 none []

/-! ### Dispatch (R323, R326, R327) -/

/-- What may be dispatched: a state that waits in its stage queue, or a record. -/
inductive Item where
  | state (k : Nat)
  | rec_ (r : Record)
  deriving DecidableEq, Repr

/-- A place in the order of dispatch: CLASS.SET, then states before records, then the order of admission (R324; 11 R291). -/
abbrev ItemKey := Nat × Nat × Nat

/-- One place before another. -/
def keyBefore (a b : ItemKey) : Bool :=
  decide (a.1 < b.1) || (a.1 == b.1 && (decide (a.2.1 < b.2.1) || (a.2.1 == b.2.1 && decide (a.2.2 < b.2.2))))

/-- The first of a list by its key. -/
def firstKey {α : Type} (l : List (ItemKey × α)) : Option (ItemKey × α) :=
  l.foldl (fun b e =>
    match b with
    | none => some e
    | some x => if keyBefore e.1 x.1 then some e else b) none

/-- What a launch may dispatch next for a stage, with its place in the order. -/
def State.nextItem (s : State) (n : Nat) (l : Launch) (stage : Nat) : Option (ItemKey × Item) :=
  let vs := (s.fe.saved.filter fun e => e.2.launch == n && e.2.stage == stage && e.2.free).map
    fun e => (((e.2.task.cls.set, 0, e.1) : ItemKey), Item.state e.1)
  let rs := (l.recs.zipIdx.filter fun r => r.1.stage == stage).map fun r => (((r.1.set, 1, r.2) : ItemKey), Item.rec_ r.1)
  firstKey (vs ++ rs)

/-- What a launch may dispatch next for a stage. -/
def State.nextFor (s : State) (n : Nat) (l : Launch) (stage : Nat) : Option Item := (s.nextItem n l stage).map (·.2)

/-- Stages with something to dispatch, in the order of what they would dispatch; the fuel is their number. -/
def orderStages : Nat → List (ItemKey × Nat) → List Nat
  | 0, _ => []
  | n + 1, l =>
    match firstKey l with
    | none => []
    | some e => e.2 :: orderStages n (l.erase e)

/-- The stages of a launch in the order in which it dispatches (17 R373; 11 R291). -/
def State.stageOrder (s : State) (n : Nat) (l : Launch) : List Nat :=
  orderStages l.stages.length (l.nums.filterMap fun k => (s.nextItem n l k).map fun e => (e.1, k))

/-- A state or record placed in a bank. -/
def State.placeItem (s : State) (core bank : Nat) (borrow : Bool) (n : Nat) (l : Launch) (it : Item) : State :=
  match it with
  | .state k =>
    match tfind s.fe.saved k with
    | none => s
    | some v => s.placeSaved core bank borrow k v
  | .rec_ r => s.placeRecord core bank borrow n l r

/-- The slots that the register pool of a core can still bind beside a task that stays. -/
def State.poolRoom (s : State) (core : Nat) : Nat := 96 - (s.physUsed core).length

/-- A borrower signalled to halt (R327); a stop that has been asked for already, a debugger's among them, stands (19 R422). -/
def Task.signal (t : Task) : Task :=
  { t with evict := some (t.evict.getD []),
           stop := if t.stop.isSome || t.susp == some .halted then t.stop else some .halted }

/-- A latency task placed behind a borrower, which is signalled to halt, suspended or not (R327); a state whose slots need registers that
the borrower holds waits for the halt (03 R66). -/
def State.displace (s : State) (core : Nat) (n : Nat) (l : Launch) (it : Item) : State :=
  match s.task core 0 with
  | none => s
  | some b =>
    let s1 := s.putTask core 0 b.signal
    let need := match it with
      | .state k => (match tfind s.fe.saved k with | some v => v.task.xs.slots.length | none => 0)
      | .rec_ _ => 0
    if b.susp.isSome || need ≤ s.poolRoom core then s1.placeItem core 1 false n l it else s1

/-- The first of some stages of a launch for which something can be placed. -/
def State.dispatchOne (s : State) (n : Nat) (l : Launch) : List Nat → State
  | [] => s
  | k :: ks =>
    match s.nextFor n l k with
    | none => s.dispatchOne n l ks
    | some it =>
      let pinned := match it with
        | .state i => (match tfind s.fe.saved i with | some v => v.task.who.pin | none => none)
        | .rec_ _ => none
      let ps := match pinned, l.cluster with
        | some p, some cl => (s.places l k).filter fun (e : Nat × Nat × Bool) => e.1 == cl * 12 + p
        | _, _ => s.places l k
      match ps with
      | p :: _ => s.placeItem p.1 p.2.1 p.2.2 n l it
      | [] =>
        match s.behindBorrower l k, s.latPlaces l k with
        | some c, _ => s.displace c n l it
        | none, p :: _ => s.placeItem p.1 p.2.1 p.2.2 n l it
        | none, [] => s.dispatchOne n l ks

/-- The cluster in which a gang can be placed (R323). -/
def State.gangCluster (s : State) (l : Launch) (vs : List (Nat × Saved)) : Option Nat :=
  (maskClusters l.mask).find? fun cl =>
    vs.all fun e =>
      match e.2.task.who.pin with
      | none => false
      | some p => s.bankFits (cl * 12 + p) 0 l.ctx (l.stage e.2.stage) &&
          !(match s.task (cl * 12 + p) 1 with | some o => o.who.excl | none => false)

/-- The core that a slot entry of a gang names in its cluster. -/
def relCore (cl : Nat) (e : Bool × Nat × Nat × BitVec 32) : Nat := if e.1 then cl * 12 + e.2.1 else e.2.1

/-- The slot entries of a gang with REL entries set once its cluster is known (R320, R323). -/
def State.setRels (s : State) (ctx cl : Nat) (rels : List (Bool × Nat × Nat × BitVec 32)) : State :=
  rels.foldl (fun s e => s.putSem (relCore cl e) e.2.2.1 { v := e.2.2.2, owner := ctx }) s

/-- Whether a slot entry of a gang names a slot of another context (R320). -/
def State.relsBusy (s : State) (ctx cl : Nat) (rels : List (Bool × Nat × Nat × BitVec 32)) : Bool :=
  rels.any fun e => let o := (s.sem (relCore cl e) e.2.2.1).owner; o != 0 && o != ctx

/-- A launch that ends before any task runs: its states go, its command's status stands, and the queue's PHASE is as it was (R319). -/
def State.failLaunch (s : State) (n : Nat) (l : Launch) (st : Nat) : State :=
  let mark (x : CQueue) : CQueue :=
    match x.run with
    | some r => if r.launch == some n then { x with run := some { r with status := some st }, phase := r.old } else x
    | none => x
  { s with fe := { s.fe with saved := s.fe.saved.filter fun e => e.2.launch != n,
                             queues := tmod s.fe.queues l.queue mark } }

/-- The waits of saved tasks of a launch tested and armed (19 R417 step 5). -/
def State.rearm (s : State) (n : Nat) : State :=
  let mine (k : Nat) : Bool := match tfind s.fe.saved k with | some v => v.launch == n | none => false
  (s.waits.filter fun e => match e.1 with | .saved k => mine k | _ => false).foldl State.testWait s

/-- A gang placed at once (R323): every task into B0 of its pinned core. -/
def State.placeGang (s : State) (n : Nat) (l : Launch) : State :=
  let vs := s.fe.saved.filter fun e => e.2.launch == n
  if vs.isEmpty then s else
  match s.gangCluster l vs with
  | none => s
  | some cl =>
    if s.relsBusy l.ctx cl l.rels then s.failLaunch n l 7
    else
      let cores := vs.filterMap fun e => e.2.task.who.pin.map fun p => (cl * 12 + p, e.2.stage)
      let s0 := (s.putLaunch n { l with cluster := some cl, cores := cores, granted := true }).setRels l.ctx cl l.rels
      let s1 := if l.rels.isEmpty then s0 else s0.rearm n
      vs.foldl (fun s e =>
        match e.2.task.who.pin, tfind s.fe.saved e.1 with
        | some p, some v => s.placeSaved (cl * 12 + p) 0 false e.1 v
        | _, _ => s) s1

/-- Whether a launch's context still runs and the front end dispatches; in host-driven mode it does for a command that the host
driver runs (23 R463, R465). -/
def State.dispatches (s : State) (l : Launch) : Bool :=
  let driven := s.fen.hostmode && !s.fen.tripped && match s.queue l.queue with | some x => x.host | none => false
  (s.ctx l.ctx).term.isNone && (!s.fen.frozen || driven)

/-- TASK_DISPATCH (R323, R324, R326): free cores are offered, then the launch places one state or record, of the stage that the front end has
chosen where it has chosen one (17 R373), or its gang. -/
def execTaskDispatch (n : Nat) (s : State) : Out :=
  let s1 := s.grantAll
  match tfind s1.fe.launches n with
  | none => .next s1
  | some l =>
    if !s1.dispatches l then .next s
    else if l.gang && l.cluster.isNone then .next (s1.placeGang n l)
    else if !l.granted then .next s1
    else .next (s1.dispatchOne n l (match s1.fe.pick with | some k => [k] | none => s1.stageOrder n l))

/-- TASK_RESTORE (19 R417): a saved task that is ready is streamed into an empty bank that R323, R324 or R326 allows. -/
def execTaskRestore (k : Nat) (s : State) : Out :=
  match tfind s.fe.saved k with
  | none => .next s
  | some v =>
    match tfind s.fe.launches v.launch with
    | none => .next s
    | some l =>
      if !v.free || !l.granted || !s.dispatches l then .next s
      else
        let ok (e : Nat × Nat × Bool) : Bool :=
          match v.task.who.pin, l.cluster with
          | some p, some cl => e.1 == cl * 12 + p
          | _, _ => true
        match (s.places l v.stage).filter ok with
        | p :: _ => .next (s.placeSaved p.1 p.2.1 p.2.2 k v)
        | [] =>
          match s.behindBorrower l v.stage, s.latPlaces l v.stage with
          | some c, _ => .next (s.displace c v.launch l (.state k))
          | none, p :: _ => .next (s.placeSaved p.1 p.2.1 p.2.2 k v)
          | none, [] => .next s

/-! ### Saving (19 R410-R412, R416) -/

/-- SHADOW_ENTRY_PERFORM (19 R413): the acting task's entries whose REM has run down write their NEW cells. -/
def execShadowEntryPerform (s : State) : Out := onTask s fun t => s.putHere t.reachStop

/-- Whether every A-strand instruction that issued has completed (19 R411). -/
def Task.settled (t : Task) : Bool :=
  t.as.outst == 0 && t.as.awaited.isEmpty && t.as.fill.isNone &&
    match t.as.wait with
    | none => true
    | some w => w.phase != .sent

/-- Whether a copy has a side in the scratchpad window of its task's bank, or is a timed one not yet due, and so leaves its
walker when the bank is saved (10 R266); a walk program stops at a launch boundary. -/
def Job.leaves (j : Job) (dt : Nat) : Bool :=
  match j.kind with
  | .copy k _ _ _ _ => (k != .gg && j.st != .done && j.st != .ending) || (j.st == .timed && decide (dt < j.t.toNat))
  | .gather sc _ => sc && j.st != .done && j.st != .ending
  | .walk => j.st != .done && j.st != .ending
  | _ => false

/-- A walk program at a launch boundary: one with a launch under way lets it end first. -/
def Job.atBoundary (j : Job) : Bool := match j.walk with | some w => w.launch.isNone | none => true

/-- The copy that a receiver's remaining rows of a multicast become (10 R258). -/
def recvCopy (j : Job) (r : Recv) : Job :=
  let w := match j.kind with | .multi _ _ w => w | _ => false
  { j with kind := .copy .gs w false false true, st := .running, k := none, rec1 := j.rec1 + BitVec.ofNat 64 (128 * r.base),
           rec5 := r.slot.setWidth 64, rows := r.put / j.perRow, got := r.put / j.perRow, put := r.put, buf := [], part := [],
           recvs := [], err := none }

/-- The receivers of multicasts that leave with a task, and the copies that they become. -/
def State.leaveMulti (s : State) (core bank : Nat) (id : BitVec 32) : State × List Job :=
  let hit (r : Recv) : Bool := r.st == .landing && r.core == core && r.bank == bank && r.id == id
  let made := s.jobs.flatMap fun e => (e.2.recvs.filter hit).map (recvCopy e.2)
  ({ s with jobs := tmap s.jobs fun _ j =>
      { j with recvs := j.recvs.map fun r => if hit r then { r with st := .left } else r } }, made)

/-- A job as a save records it: without a token when none is bound to it any more (10 R254, R270). -/
def Job.recorded (j : Job) (t : Task) (n : Nat) : Job :=
  { j with k := j.k.filter fun k => (t.tok k.toNat).st == .pending && (t.tok k.toNat).job == n }

/-- A queue as a save keeps it: its entries count as pushed, and its last pop as made, before any cc of the core that restores it (03 R51,
05 R130). -/
def Queue.kept (q : Queue) : Queue := { items := q.items.map fun e => { e with at_ := 0 }, popped := 0 }

/-- A task that has stopped leaves its bank for the save area (R416): `ready` says whether its condition holds, `halt` why a debugger
keeps it. -/
def State.save (s : State) (core bank : Nat) (t : Task) (ready : Bool) (halt : Option Nat) : State :=
  let k := s.fe.nextSaved
  let mine := (s.jobs.filter fun e => e.2.id == t.who.id && e.2.leaves s.dt.toNat)
  let (s1, more) := s.leaveMulti core bank t.who.id
  let s2 := mine.foldl (fun s e => s.dropJob e.1) s1
  let s3 := s2.cleanL1 core .device fun _ => true
  let t1 := t.reachStop
  let t2 := { t1 with
    stop := none, evict := none, aq := t1.aq.kept, xq := t1.xq.kept, bq := t1.bq.kept
    as := { t1.as with ready := [] }
    xs := { t1.xs with last := 0, freeze := 0, slots := t1.xs.slots.map fun e => (e.1, { phys := none, age := none }) } }
  let v : Saved :=
    { task := t2, launch := t.who.launch, stage := t.who.stage, from_ := some core, ready := ready, halt := halt,
      bad := false, low := 0, olds := if halt.isSome then t2.shadowPairs else [], cleared := [],
      copies := (mine.map fun e => e.2.recorded t e.1) ++ more }
  let held (f : BFault) : Bool := f.core == core && f.bank == bank && f.id == t.who.id && f.saved.isNone
  let gone (f : BFault) : Bool := match f.job with | some j => mine.any fun e => e.1 == j | none => false
  let s4 : State :=
    { s3 with
      tasks := tdel s3.tasks (core * 2 + bank)
      ctxs := tmap s3.ctxs fun _ c =>
        { c with faults := (c.faults.filter fun f => !gone f).map fun f => if held f then { f with saved := some k } else f }
      fe := { s3.fe with saved := tins s3.fe.saved k v, nextSaved := k + 1 } }
  (s4.setSpill core (s4.spillWays core)).pointAt core

/-- TASK_SAVE (R416): the acting bank's task is asked to stop; once it has stopped and what its A-strand issued has
completed, its state leaves the bank. -/
def execTaskSave (s : State) : Out :=
  match s.here with
  | none => .next s
  | some t =>
    let core := s.cur.core
    let bank := s.cur.bank
    let walks := s.jobs.all fun e => e.2.id != t.who.id || e.2.atBoundary
    match t.susp with
    | none => .next (if t.stop.isNone && !t.retiring then s.putHere { t with stop := some .halted } else s)
    | some why =>
      if !t.settled || !walks then .next s
      else
        let halt := match t.stop with | some (.debug r) => some r | _ => none
        match why with
        | .halted => .next (s.save core bank { t with susp := none } true halt)
        | .debug r => .next (s.save core bank { t with susp := none } true (some r))
        | .swaitv => .next (s.save core bank t false halt)
        | .split _ => .next (s.save core bank t false halt)
        | .back _ => .next (s.save core bank t false halt)
        | .stopped => .next s
        | .restoring => .next s

/-! ### The stage balancer (R328) -/

/-- The words of an A-strand's group that have not issued, from its address to the stop bit; the fuel is the strand's slots. -/
def State.restOfGroup (s : State) (core : Nat) (t : Task) : Nat → Word → List Word
  | 0, _ => []
  | n + 1, pc =>
    match s.codeWord (clusterOf core) t.who.ctx pc with
    | .word w => w :: (if stopBit w then [] else s.restOfGroup core t n (pc + 1))
    | _ => []

/-- An A-strand stalled in `enq` toward a stage: the group at its head holds such an `enq` that has not issued, and both kinds of entry
are taken. -/
def State.enqTo (s : State) (core : Nat) (t : Task) (l : Launch) (k : Nat) : Bool :=
  let aims (w : Word) : Bool := match decodeWord w with | .ok (.enq _ _ st _ _ _) => st.toNat == k | _ => false
  t.susp.isNone && !t.a.ended && !t.retiring && t.as.wait.isNone && t.a.hold.isNone && t.as.gap == 0 && t.as.issued &&& 4 == 0 &&
    (l.entryFor k (t.who.depth + 1)).isNone &&
    (s.restOfGroup core t 3 t.a.pc).any aims

/-- r(s) as a pair of numerator and CAP. -/
def State.ratio (s : State) (n : Nat) (l : Launch) (k : Nat) : Nat × Nat :=
  let queued := (l.recs.filter fun r => r.stage == k).length
  let waiting := (l.wait.filter fun r => r.stage == k).length
  let stalled := (s.tasks.filter fun e => e.2.who.launch == n && s.enqTo (e.1 / 2) e.2 l k).length
  (queued + waiting + stalled, max (l.stage k).cap 1)

/-- A smaller ratio. -/
def ratioLt (a b : Nat × Nat) : Bool := decide (a.1 * b.2 < b.1 * a.2)

/-- The stage with the least, or with the greatest, ratio among some; ties to the lower. -/
def bestStage (f : Nat → Nat × Nat) (most : Bool) (ks : List Nat) : Option Nat :=
  ks.foldl (fun b k =>
    match b with
    | none => some k
    | some j => if (if most then ratioLt (f j) (f k) else ratioLt (f k) (f j)) then some k else b) none

/-- Tasks that run on a core. -/
def State.tasksOn (s : State) (core : Nat) : Nat := (if (s.task core 0).isSome then 1 else 0) + (if (s.task core 1).isSome then 1 else 0)

/-- One visit of the balancer: a launch and a cluster. -/
def State.visit (s : State) (n cl : Nat) : State :=
  match tfind s.fe.launches n with
  | none => s
  | some l =>
    let r := s.ratio n l
    let has (k : Nat) : Bool := l.cores.any fun e => e.2 == k && clusterOf e.1 == cl
    let donor := bestStage r false (l.nums.filter fun k => has k && decide ((l.stage k).minc < l.total k))
    let taker := bestStage r true (l.nums.filter fun k => decide (l.total k < (l.stage k).maxc))
    match donor, taker with
    | some d, some k =>
      if !ratioLt (r d) (r k) then s
      else
        let mine := (l.cores.filter fun e => e.2 == d && clusterOf e.1 == cl).map (·.1)
        let best := mine.foldl (fun (b : Option Nat) c =>
          match b with
          | none => some c
          | some x => if s.tasksOn c < s.tasksOn x || (s.tasksOn c = s.tasksOn x && c < x) then some c else b) none
        match best with
        | none => s
        | some c => s.putLaunch n { l with cores := l.cores.map fun e => if e.1 == c then (c, k) else e }
    | _, _ => s

/-- STAGE_BALANCER (R328): every launch that is no gang launch, and each cluster in which it holds cores; with F1 hung it stands still (23
R465). -/
def execStageBalancer (s : State) : Out :=
  let ns := if s.fen.alive.getLsbD 1 then (s.fe.launches.filter fun e => !e.2.gang && e.2.granted).map (·.1) else []
  .next (ns.foldl (fun s n =>
    (List.range 64).foldl (fun s cl =>
      match tfind s.fe.launches n with
      | none => s
      | some l => if l.cores.any fun e => clusterOf e.1 == cl then s.visit n cl else s) s) s)

end Sys2Proof.Machine
end

