-- ==== Sys2Proof/Machine/Launch.lean ====
section
/-! DEFINITION. LAUNCH and its checkpoint image (15 R319-R325), REPLAY (15 R331-R333), and the front end's reading of
commands (15 R314-R316). -/

namespace Sys2Proof.Machine

/-! ### Checks of an image in the order of R319 -/

/-- How a check of an image ends: it passes, the command is held (with the condition's subcode and address), or it completes
with a status. -/
inductive Chk where
  | fine
  | hold (sub va : Nat)
  | bad (st : Nat)
  deriving DecidableEq, Repr

/-- The first check that does not pass. -/
def Chk.and (a b : Chk) : Chk :=
  match a with
  | .fine => b
  | x => x

/-- The first of a list that does not pass. -/
def chkAll : List Chk → Chk
  | [] => .fine
  | c :: cs => c.and (chkAll cs)

/-- A condition that gives a status. -/
def chkIf (b : Bool) (st : Nat) : Chk := if b then .bad st else .fine

/-- Bytes of an image that must be readable (R490). -/
def State.readable (s : State) (ctx va n : Nat) : Chk :=
  match s.readRange none ctx va n with
  | .bytes _ => .fine
  | .poison _ _ => .bad 1
  | .bad code sub a => if code = 4 then .hold sub a else .bad 1

/-- An image's bytes as numbers. -/
def State.peek (s : State) (ctx va : Nat) : Rd := fun o n =>
  match s.readRange none ctx (va + o) n with
  | .bytes l => bytesNat l
  | _ => 0

/-- The header (R320); NSTAGE outside its limit is STAGES (R321). -/
def headerChk (r : Rd) : Chk :=
  chkAll [chkIf (r 0 4 != 0x4951444F) 1, chkIf (r 4 2 != 1) 1, chkIf (r 6 1 = 0 || decide (16 < r 6 1)) 4, chkIf (r 7 1 != 0) 1,
    chkIf (decide (768 < r 8 4)) 1, chkIf (r 12 4 = 0 || decide (16 < r 12 4)) 1, chkIf (r 16 48 != 0) 1]

/-- An entry of the section table. -/
structure Sect where
  kind : Nat
  len : Nat
  off : Nat
  deriving DecidableEq, Repr

/-- The section table. -/
def sectsOf (r : Rd) : List Sect :=
  (List.range (r 12 4)).map fun k => { kind := r (64 + 16 * k) 4, len := r (68 + 16 * k) 4, off := r (72 + 16 * k) 8 }

/-- Whether a section's length fits its kind. -/
def Sect.lenBad (x : Sect) (r : Rd) : Bool :=
  match x.kind with
  | 1 => x.len != 64 * r 6 1
  | 3 => x.len % 2 != 0 || decide (512 < x.len)
  | 4 => x.len != 2048
  | 6 => x.len % 8 != 0
  | 7 => x.len % 192 != 0
  | _ => false

/-- The section table checked: kinds, repeats, places, lengths, STAGES, and TASKS where the header counts tasks. -/
def tableChk (r : Rd) : Chk :=
  let xs := sectsOf r
  let one (e : Sect × Nat) : Chk :=
    chkIf (!([1, 3, 4, 5, 6, 7].contains e.1.kind) || (xs.take e.2).any (fun y => y.kind == e.1.kind) || e.1.off % 64 != 0 ||
      e.1.lenBad r) 1
  (chkAll (xs.zipIdx.map one)).and
    (chkIf (!(xs.any fun x => x.kind == 1) || (r 8 4 != 0 && !(xs.any fun x => x.kind == 5))) 1)

/-- The section of a kind. -/
def sectOf (r : Rd) (kind : Nat) : Option Sect := (sectsOf r).find? fun x => x.kind == kind

/-- A stage record read (R321); N is rounded up to a multiple of 4 (11 R285). -/
def stageOf (r : Rd) : Stage :=
  { aentry := BitVec.ofNat 64 (r 0 8), xentry := BitVec.ofNat 64 (r 8 8), cancel := BitVec.ofNat 64 (r 16 8), cap := r 24 2,
    minc := r 26 2, maxc := r 28 2, n := (r 30 1 % 128 + 3) / 4 * 4, sprows := r 32 2, actiles := r 34 1,
    mregs := r 30 1 }

/-- A stage record checked in ascending byte offset (R319, R321). -/
def stageChk (r : Rd) : Chk :=
  chkAll [chkIf (decide (r 24 2 < 9) || decide (4096 < r 24 2)) 4, chkIf (decide (768 < r 28 2) || decide (r 28 2 < r 26 2)) 4,
    chkIf (decide (64 < r 30 1 % 128)) 2, chkIf (decide (128 ≤ r 30 1)) 1, chkIf (r 31 1 != 0) 1,
    chkIf (r 32 2 % 16 != 0 || decide (6144 < r 32 2)) 3, chkIf (decide (64 < r 34 1)) 3, chkIf (r 35 29 != 0) 1]

/-- The stage records. -/
def stagesOf (r : Rd) : List Stage :=
  match sectOf r 1 with
  | none => []
  | some x => (List.range (r 6 1)).map fun k => stageOf (r.at_ (x.off + 64 * k))

/-- The stage records checked, then the sum of MINC against the non-reserved cores of the mask, whose bits of islands 16-63 are ignored before
full service (25 R485). -/
def State.stagesChk (s : State) (r : Rd) (mask : Word) : Chk :=
  match sectOf r 1 with
  | none => .bad 1
  | some x =>
    (chkAll ((List.range (r 6 1)).map fun k => stageChk (r.at_ (x.off + 64 * k)))).and
      (let low := if s.boot.phase < 3 then (maskClusters mask).filter (decide <| · < 16) else []
       let cls := if low.isEmpty then maskClusters mask else low
       let open_ := cls.flatMap fun c => ((List.range 12).map fun k => c * 12 + k).filter fun n => !s.isReserved n
       chkIf (decide (open_.length < (stagesOf r).foldl (fun a st => a + st.minc) 0)) 4)

/-- The offsets of the task states of a TASKS section, one after another by their LENGTH; the fuel is their number. -/
def taskOffs (r : Rd) : Nat → Nat → List Nat
  | 0, _ => []
  | n + 1, o => o :: taskOffs r n (o + r o 4)

/-- The task states' offsets. -/
def taskStates (r : Rd) : List Nat :=
  match sectOf r 5 with
  | none => []
  | some x => taskOffs r (r 8 4) x.off

/-- The PIN bytes of the task states. -/
def pinsOf (r : Rd) : List Nat := (taskStates r).map fun o => r (o + 5) 1

/-- One task state checked in ascending byte offset, given the pins of those before it (R319, R321, R323; 19 R419): LENGTH,
STAGE, PIN, N, the windows, RRB, RNDM, QSKIP, the shadow headers. -/
def taskChk (r : Rd) (stages : List Stage) (x : Sect) (o : Nat) (before : List Nat) : Chk :=
  let t := r.at_ o
  let len := t 0 4
  let pin := t 5 1
  let q := (stages.getD (t 4 1) { aentry := 0, xentry := 0, cancel := 0, cap := 9, minc := 0, maxc := 0, n := 0, sprows := 0,
                                  actiles := 0, mregs := 0 }).n - 32
  let e : BitVec 8 := BitVec.ofNat 8 (t 0x6A0 8)
  chkAll [chkIf (decide (len < 0x3080) || decide (x.off + x.len < o + len)) 1,
    chkIf (decide (stages.length ≤ t 4 1)) 1,
    chkIf ((pin != 255 && decide (11 < pin)) || (pin != 255 && before.contains pin) ||
      before.any fun p => (p == 255) != (pin == 255)) 5,
    chkIf (decide (64 < t 7 1 % 128)) 2, chkIf (decide (128 ≤ t 7 1)) 1,
    chkIf (t 14 2 % 16 != 0 || decide (6144 < t 14 2)) 3, chkIf (decide (64 < t 16 1)) 3,
    chkIf (if q = 0 then t 17 1 != 0 else decide (q ≤ t 17 1)) 1,
    chkIf (t 18 1 = 0 || decide (max q 1 < t 18 1)) 1,
    chkIf (decide (5 < t 0x698 8)) 1,
    chkIf (t 0x6A0 8 / 256 % 2 = 1 && (decide (e.toInt < -126) || decide (0 < e.toInt))) 1,
    chkIf (shadowBad t) 1]

/-- The task states checked one after another. -/
def tasksChk (r : Rd) (stages : List Stage) (x : Sect) : List Nat → List Nat → Chk
  | [], _ => .fine
  | o :: os, before => (taskChk r stages x o before).and (tasksChk r stages x os (before ++ [r (o + 5) 1]))

/-- A SLOTS entry checked (R320). Whether a slot of another device stands with another context is free. -/
def State.slotChk (s : State) (ctx : Nat) (gang : Bool) (w : Word) : Chk :=
  let e := slotEntry w
  (chkIf (w.extractLsb' 23 9 != 0 || (e.rel && !gang) || (e.rel && decide (11 < e.core)) || decide (768 ≤ e.core) ||
    !s.inPod e.chip) 1).and
    (if e.rel then .fine
     else if e.chip ≠ s.pod.chip.toNat then chkIf (Config.freeBool s.fresh) 7
     else let o := (s.sem e.core e.slot).owner; chkIf (o != 0 && o != ctx) 7)

/-- A continuation record of an image checked (11 R286). -/
def recordChk (r : Rd) (nstage : Nat) : Chk :=
  chkIf (maskBad (BitVec.ofNat 64 (r 8 8)) || decide (nstage ≤ r 148 1) || decide (7 < r 150 1) ||
    (r 151 1 % 2 = 1 && decide (2 ^ 22 ≤ r 152 4)) || r 172 20 != 0) 1

/-- One section checked, its bytes first. -/
def State.sectChk (s : State) (ctx va : Nat) (r : Rd) (stages : List Stage) (gang : Bool) (x : Sect) : Chk :=
  (s.readable ctx (va + x.off) x.len).and
    (match x.kind with
      | 5 => tasksChk r stages x (taskStates r) []
      | 6 => chkAll ((List.range (x.len / 8)).map fun k => s.slotChk ctx gang (BitVec.ofNat 64 (r (x.off + 8 * k) 8)))
      | 7 => chkAll ((List.range (x.len / 192)).map fun k => recordChk (r.at_ (x.off + 192 * k)) stages.length)
      | _ => .fine)

/-- An image checked as R319 orders it. -/
def State.imageChk (s : State) (ctx va : Nat) (mask : Word) : Chk :=
  let r := s.peek ctx va
  (s.readable ctx va 64).and <| (headerChk r).and <|
    (s.readable ctx (va + 64) (16 * r 12 4)).and <| (tableChk r).and <|
      (match sectOf r 1 with
        | some x => (s.readable ctx (va + x.off) x.len).and (s.stagesChk r mask)
        | none => .bad 1).and <|
          chkAll ((sectsOf r).map (s.sectChk ctx va r (stagesOf r) ((pinsOf r).any fun p => p != 255)))

/-! ### LAUNCH (R320-R325) -/

/-- A record of an image. -/
def recordOf (r : Rd) (mem : Member) (ceil : Nat) : Record :=
  let mask : Word := BitVec.ofNat 64 (r 8 8)
  let js := (List.range 64).filter fun j => mask.getLsbD j
  { pc := BitVec.ofNat 64 (r 0 8), vals := js.zipIdx.map fun e => (e.1, BitVec.ofNat 64 (r (16 + 8 * e.2) 8)),
    parent := BitVec.ofNat 32 (r 144 4), stage := r 148 1, set := max (r 149 1 % 4) ceil, depth := r 150 1,
    join := if r 151 1 % 2 = 1 then some (BitVec.ofNat 22 (r 152 4)) else none,
    decls := (List.range 4).filterMap fun k =>
      let v := r (156 + 4 * k) 4
      if v = 2 ^ 32 - 1 then none else some (BitVec.ofNat 22 v),
    mem := mem, cond := none, entry := none }

/-- A task state of an image as it waits in its stage queue (R320, R322, R325): a fresh one has the image's constant block (06 R144), and
one saved in a split whose tokens are done goes on. -/
def imageTask (n : Nat) (l : Launch) (args : Option (Word × Word)) (r : Rd) : Saved :=
  let stage := r 4 1
  let set := r 13 1 % 4
  let t0 := l.baseTask n stage (r 12 1) set
  let t1 := readTask r t0
  let fresh := r 6 1 / 2 % 2 = 0
  let regs := match args with
    | none => t1.a.regs
    | some (a, b) => tset 0 (tset 0 t1.a.regs 60 a) 61 b
  let t2 : Task :=
    { t1 with
      who := { t1.who with pin := if r 5 1 = 255 then none else some (r 5 1) }
      point := !fresh || t1.susp.isSome
      a := { t1.a with regs := regs }
      cancelpc := if fresh then t0.cancelpc else t1.cancelpc
      consts := if fresh then t0.consts else t1.consts }
  let t3 := if t2.as.wait.isNone then t2.splitDone else t2
  let base : Job :=
    { kind := .walk, st := .running, core := 0, bank := 0, id := 0, ctx := l.ctx, launch := n,
      sib := l.mem.group.map fun g => (g, l.mem.index), pc := 0, cluster := 0, w := 0, lat := false, k := none, rec0 := 0, rec1 := 0,
      ext0 := 0, ext1 := 0, rec3 := 0, rec4 := 0, rec5 := 0, t := 0, rows := 0, got := 0, buf := [], part := [], put := 0,
      err := none, idx := none, recvs := [], walk := none, snap := [], chips := 0 }
  let jobs := if fresh then []
    else readJobs r base
  { task := t3, launch := n, stage := stage, from_ := none, ready := t3.susp.isNone, copies := jobs,
    halt := none, bad := false, low := 0, olds := [], cleared := [] }

/-- The membership that a queue gives its launches: the frame for which Chard issued the REPLAY that they belong to (17 R367), and the
sibling that ARG1 names in the group attached to the queue (18 R398); none where the LAUNCH names no sibling of it. -/
def State.memberOf (s : State) (q : Nat) (x : CQueue) (c : Cmd) : Option Member :=
  let m : Member := match x.outer.bind (·.frame) with
    | some (k, n) => { Member.none with stream := some k, frame := n }
    | none => Member.none
  match s.groups.find? fun g => g.2.aq == some q && g.2.closed.isNone with
  | none => some m
  | some g =>
    let i := (c.w6.extractLsb' 32 5).toNat
    if c.flags.getLsbD 0 && decide (i < g.2.n) then some { m with group := some g.1, index := i, size := g.2.n } else none

/-- Whether the sibling of a membership has posted or is cancelled (18 R398). -/
def State.siblingOver (s : State) (m : Member) : Bool :=
  match m.group.bind (tfind s.groups ·) with
  | none => false
  | some g => match g.sibs[m.index]? with | some b => b.st != .running | none => false

/-- The slots of an image given to the context with their values (R320; 11 R276). -/
def State.setSlots (s : State) (ctx : Nat) (es : List SlotEntry) : State :=
  es.foldl (fun s e => if e.chip = s.pod.chip.toNat then s.putSem e.core e.slot { v := e.v, owner := ctx } else s) s

/-- A checked image becomes a launch of the current queue: its SLOTS are given to the context, but those of a gang with REL entries wait for
its placement, and its records take entries of their stage queues or wait for admission (R320, 11 R291). The free cores are offered to
the launches before it, and then it takes what is left (R324). -/
def State.startLaunch (s00 : State) (q : Nat) (x : CQueue) (mem : Member) (c : Cmd) : State :=
  let s := s00.grantAll
  let r := s.peek x.ctx c.a.toNat
  let n := s.fe.nextLaunch
  let ceil := max (c.ceil.toNat % 4) (if x.bulk then 2 else 0)
  let gang := (pinsOf r).any fun p => p != 255
  let slots : List SlotEntry := match sectOf r 6 with
    | none => []
    | some y => (List.range (y.len / 8)).map fun k => slotEntry (BitVec.ofNat 64 (r (y.off + 8 * k) 8))
  let late := slots.any (·.rel)
  let l : Launch :=
    { ctx := x.ctx, queue := q, mask := c.b, ceil := ceil, lat := !x.bulk, phase := x.phase, stages := stagesOf r
      consts := (match sectOf r 4 with | none => [] | some y => tabOf 0 1024 fun k => BitVec.ofNat 16 (r (y.off + 2 * k) 2))
      walk := (match sectOf r 3 with
        | none => []
        | some y => (List.range (y.len / 2)).map fun k => BitVec.ofNat 16 (r (y.off + 2 * k) 2))
      gang := gang, cluster := none, granted := false, cores := [], ran := []
      recs := [], wait := []
      rels := if late then (slots.filter fun e => e.chip == s.pod.chip.toNat).map fun e => (e.rel, e.core, e.slot, e.v) else []
      cond := [], mem := mem, tree := [] }
  let recs := match sectOf r 7 with
    | none => []
    | some y => (List.range (y.len / 192)).map fun k => recordOf (r.at_ (y.off + 192 * k)) mem ceil
  let args := if c.flags.getLsbD 0 then some (c.w5, c.w6) else none
  let vs := (taskStates r).map fun o => imageTask n l args (r.at_ o)
  let k := s.fe.nextSaved
  let saved := vs.zipIdx.foldl (fun m e => tins m (k + e.2) e.1) s.fe.saved
  let s1 : State :=
    { s with fe := { s.fe with launches := tins s.fe.launches n (recs.foldl Launch.addSplit l), nextLaunch := n + 1, saved := saved,
                               nextSaved := k + vs.length } }
  let s2 := if late then s1 else (s1.setSlots x.ctx slots).rearm n
  let s3 := { s2 with fresh := s2.fresh + 1 }
  let tie (x : CQueue) : CQueue := { x with run := x.run.map fun r => { r with launch := some n } }
  (s3.onQueue q tie).grant n

/-- LAUNCH (R319, R320); one for a sibling that has posted or is cancelled restores nothing (18 R398). -/
def execLaunch (c : Cmd) (s : State) : Out :=
  command s (cmdHeadBad c || c.w7 != 0)
    (let q := s.fe.curq
     match s.queue q with
     | none => s
     | some x =>
       match s.memberOf q x c with
       | none => s.ended 6
       | some mem =>
         if s.siblingOver mem then s.ended 0
         else
           match s.imageChk x.ctx c.a.toNat c.b with
           | .hold sub va => s.blockHeld x.ctx sub va
           | .bad st => ({ s with fresh := s.fresh + 1 } : State).ended st
           | .fine => s.startLaunch q x mem c)

/-! ### REPLAY (R331-R333) -/

/-- A patch entry outside its limits (R332). -/
def patchBad (count : Nat) (w : Word) : Bool :=
  decide (count ≤ (w.extractLsb' 0 12).toNat) || w.extractLsb' 12 3 == 0 || w.getLsbD 15 || w.getLsbD 23 || w.extractLsb' 24 40 != 0

/-- REPLAY (R331-R333): the patch list is checked and the first graph command can be read (R490), gp0-gp63 are copied, the iteration boundary passes; the graph's commands
then run one after another. -/
def execReplay (c : Cmd) (s : State) : Out :=
  let count := (c.b.extractLsb' 0 32).toNat
  let np := (c.b.extractLsb' 32 32).toNat
  command s (cmdHeadBad c || c.w6 != 0 || c.w7 != 0 || count = 0 || decide (4096 < count) || decide (4096 < np))
    (withBuffer s c.w5.toNat (8 * np) 6 fun l =>
      let ps := bytesWords np l
      if ps.any (patchBad count) then s.ended 6
      else withBuffer s c.a.toNat 64 6 fun _ =>
        let n := s.curCtx
        let s0 := s.putCtx n { (s.ctx n) with specCur := (s.ctx n).specPend }
        let s1 : State := { s0 with groups := tmap s0.groups fun _ g => if g.aq == some s.fe.curq then g.testAll else g }
        s1.onQueue s.fe.curq fun x =>
          { x with
            outer := some (x.run.getD { op := 2, cmd := c, status := none, launch := none, old := x.phase, frame := none }), run := none
            replay := some { graph := c.a, count := count, next := 0, patches := ps, snap := x.gp, status := 0 } })

/-- A word of a command, by number 1-7. -/
def Cmd.word (op : BitVec 8) (c : Cmd) (k : Nat) : Word := (cmdWord op c).extractLsb' (64 * k) 64

/-- A command's 512 bits with a word replaced. -/
def setCmdWord (w : BitVec 512) (k : Nat) (v : Word) : BitVec 512 :=
  (w &&& ~~~((BitVec.allOnes 64).setWidth 512 <<< (64 * k))) ||| (v.setWidth 512 <<< (64 * k))

/-- A graph command patched from the snapshot, in list order (R331). -/
def patched (p : Replay) (w : BitVec 512) : BitVec 512 :=
  p.patches.foldl (fun w e =>
    if (e.extractLsb' 0 12).toNat = p.next then
      let k := (e.extractLsb' 12 3).toNat
      let v := tget 0 p.snap (e.extractLsb' 16 6).toNat
      setCmdWord w k (if e.getLsbD 22 then w.extractLsb' (64 * k) 64 + v else v)
    else w) w

/-! ### Reading commands (R314-R316) -/

/-- What the front end does next for a queue: nothing, a change of state, or the meaning of a command. -/
inductive Serve where
  | idle
  | moved (s : State)
  | run (s : State) (i : Instr)
  deriving DecidableEq, Repr

/-- An image holds a section of slots, which it gives to its context (R320). -/
def State.assignsSlots (s : State) (ctx va : Nat) : Bool := (sectOf (s.peek ctx va) 6).isSome

/-- A LAUNCH of pinned tasks, and of nothing else to be placed, whose mask names one cluster (R323; 23 R465). -/
def State.pinnedOne (s : State) (ctx : Nat) (c : Cmd) : Bool :=
  let r := s.peek ctx c.a.toNat
  let pins := pinsOf r
  ((List.range 64).filter fun k => c.b.getLsbD k).length == 1 && !pins.isEmpty && pins.all (fun p => p != 255) && (sectOf r 7).isNone

/-- In host-driven mode, a command that needs a hung core (23 R465): with F1 hung a LAUNCH that asks for placement, with F2 hung
one that changes a table, slot or reservation, with F3 hung CTXRESET, with F5 hung ATTEST, with F6 hung MIGRATE (16 R356), with F7 hung DEBUG. -/
def State.noFw (s : State) (ctx op : Nat) (c : Cmd) : Bool :=
  let hung (k : Nat) : Bool := !s.fen.alive.getLsbD k
  s.fen.hostmode &&
    ((hung 1 && op == 1 && !s.pinnedOne ctx c) ||
      (hung 2 && ([8, 0x10, 0x11, 0x12, 0x13, 0x14, 0x30].contains op || (op == 1 && s.assignsSlots ctx c.a.toNat))) ||
      (hung 3 && op == 0x30) || (hung 5 && op == 0x38) || (hung 6 && op == 0x14) || (hung 7 && op == 0x28))

/-- A command that has been read starts: its CADDR is checked, NEWPHASE sets the queue's PHASE, an OP that is not assigned
completes with BADCMD (R316), and one that needs a hung core with NOFW (23 R465). `adv` is the queue with HEAD, or the REPLAY's place, moved past the command. A command with a bad CADDR stays where it was read, a graph
command of a REPLAY too, which is tried again after a QRESET (DESIGN CHOICE, log 145). -/
def State.begin_ (s : State) (q : Nat) (x adv : CQueue) (w : BitVec 512) (ok : Nat → Bool) : Serve :=
  let c := cmdOf w
  let op := (w.extractLsb' 0 8).toNat
  let area : Option (Nat × Nat × Nat) :=
    if c.caddr = 0 then none
    else firstCond (s.secConds x.ctx .wr (sectorsOf c.caddr.toNat 16))
  if c.caddr != 0 && c.caddr.toNat % 16 ≠ 0 then .moved (s.failQueue q 1 x)
  else
    match area with
    | some (4, k, va) => .moved (s.blockHeld x.ctx k va)
    | some _ => .moved (s.failQueue q 1 x)
    | none =>
      let bad := !(ok op) || (commandOf op c).isNone
      let none_ := !bad && s.noFw x.ctx op c
      let run : Running :=
        { op := op, cmd := c, status := if bad then some 6 else if none_ then some 0x50 else none, launch := none, old := x.phase,
          frame := none }
      let phase := if c.flags.getLsbD 1 && run.status.isNone then c.phase else x.phase
      .moved (s.putQueue q { adv with run := some run, phase := phase })

/-- The next command of a REPLAY, or its end (R331, R332). -/
def State.serveGraph (s : State) (q : Nat) (x : CQueue) (p : Replay) (o : Running) : Serve :=
  if p.count ≤ p.next then
    .moved (s.putQueue q { x with run := some { o with status := some p.status }, outer := none, replay := none })
  else
    let stops : Serve :=
      .moved (s.putQueue q { x with replay := some { p with status := 6, next := p.count }, phase := if p.next = 0 then o.old else x.phase })
    match s.readRange none x.ctx (p.graph.toNat + 64 * p.next) 64 with
    | .bad code sub va => if code = 4 then .moved (s.blockHeld x.ctx sub va) else stops
    | .poison _ _ => stops
    | .bytes l => s.begin_ q x x (patched p (BitVec.ofNat 512 (bytesNat l))) fun op => op == 1 || op == 6 || op == 7

/-- The next command of a ring (R315). -/
def State.serveRing (s : State) (q : Nat) (x : CQueue) : Serve :=
  if x.head = x.tail then .idle
  else
    match s.readRange none x.ctx (x.ring.toNat + 64 * (x.head.toNat % x.size)) 64 with
    | .bad code sub va => if code = 4 then .moved (s.blockHeld x.ctx sub va) else .moved (s.failQueue q 4 x)
    | .poison _ _ => .moved (s.failQueue q 4 x)
    | .bytes l => s.begin_ q x { x with head := x.head + 1 } (BitVec.ofNat 512 (bytesNat l)) fun _ => true

/-- What the front end does for a queue in a tick: a queue whose next command is a frame's REPLAY waits for it (17 R367); `read` says whether it reads rings and starts commands (23
R463, R464). -/
def State.serve (s : State) (q : Nat) (read : Bool) : Serve :=
  match s.queue q with
  | none => .idle
  | some x =>
    match x.run with
    | some r =>
      if r.status.isSome || r.launch.isSome then .idle
      else
        match commandOf r.op r.cmd with
        | none => .idle
        | some i => .run { s with fe := { s.fe with curq := q } } i
    | none =>
      let armed := match x.stream.bind (tfind s.streams ·) with | some st => st.tick.isSome | none => false
      if x.error || armed || (s.ctx x.ctx).term.isSome then .idle
      else
        match x.replay, x.outer with
        | some p, some o => if read || x.host then s.serveGraph q x p o else .idle
        | _, _ => if read then s.serveRing q x else .idle

end Sys2Proof.Machine
end

