-- ==== Sys2Proof/Machine/Stream.lean ====
section
/-! DEFINITION. Streams (17): the stream commands, frame starts with the ladder and the KV window, the encoder, the
instructions `eqpush`, `sslack` and `srung`, and DECODE. -/

namespace Sys2Proof.Machine

/-! ### Descriptors (R365, R366) -/

/-- A rung read. -/
def rungOf (r : Rd) : Rung :=
  { graph := BitVec.ofNat 64 (r 0 8), patches := BitVec.ofNat 64 (r 8 8), ncmd := r 16 2, npatch := r 18 2, steps := r 20 1,
    interp := r 21 1 % 2 = 1, w := 8 * r 22 2, h := 8 * r 24 2, igraph := BitVec.ofNat 64 (r 32 8),
    ipatches := BitVec.ofNat 64 (r 40 8), incmd := r 48 2, inpatch := r 50 2, es := r 52 4, et := r 56 4, ei := r 60 4 }

/-- A stream descriptor read. -/
def sdescOf (r : Rd) : SDesc :=
  { pnum := r 0 8, pden := r 8 4, queue := r 12 1, nrung := r 13 1, rstart := r 14 1, codec := r 15 1, base := r 16 8,
    dline := r 24 8, rise := r 32 8, ring := r 40 8, rslots := r 48 1, scope := r 49 1, slotbytes := r 52 4, kvb := r 56 8,
    cs := r 64 4, wcap := r 68 1, wtab := r 72 8, eqbase := r 80 8, eqslots := r 88 2, credit := BitVec.ofNat 22 (r 92 4),
    refb := r 96 8, kbps := r 104 4, qp := r 108 1, keyint := r 110 2,
    rungs := (List.range (r 13 1)).map fun k => rungOf (r.at_ (128 + 64 * k)) }

/-- A value outside a range. -/
def outside (v lo hi : Nat) : Bool := decide (v < lo) || decide (hi < v)

/-- A rung outside its limits. -/
def Rung.bad (g : Rung) : Bool :=
  outside g.ncmd 1 4096 || decide (4096 < g.npatch) || outside g.steps 1 255 || outside g.w 128 3840 || outside g.h 128 2160 ||
    (if g.interp then outside g.incmd 1 4096 || decide (4096 < g.inpatch)
     else g.igraph != 0 || g.ipatches != 0 || g.incmd != 0 || g.inpatch != 0)

/-- The extent that a range of a context lies in as one. -/
def Ctx.within (c : Ctx) (va n : Nat) (k : EKind) : Bool :=
  match c.lookup va with
  | none => false
  | some (_, e) => e.kind == k && decide (va + n ≤ e.vbase + 2 ^ e.log2)

/-- The largest frame of a ladder, in samples. -/
def SDesc.area (d : SDesc) : Nat := d.rungs.foldl (fun a g => max a (g.w * g.h)) 0

/-- A range of a context lies in extents of a kind, one or several; `n` is a number of bytes from a multiple of 64 KiB. -/
def Ctx.covers (c : Ctx) (va n : Nat) (k : EKind) : Bool :=
  (List.range ((n + 65535) / 65536)).all fun p =>
    match c.lookup (va + 65536 * p) with
    | none => false
    | some (_, e) => e.kind == k

/-- A descriptor outside the limits of R365; the queue is checked beside it. -/
def SDesc.bad (d : SDesc) (s : State) (ctx : Nat) (flags : Bool) : Bool :=
  let c := s.ctx ctx
  flags || outside d.pnum 1 (2 ^ 40) || outside d.pden 1 65536 || outside d.nrung 1 8 || decide (d.nrung ≤ d.rstart) ||
    decide (1 < d.codec) || d.dline = 0 || decide (64 * d.pnum < d.dline * d.pden) || d.ring % 4096 != 0 ||
    outside d.rslots 1 64 || outside d.scope 2 4 || d.slotbytes % 4096 != 0 || d.slotbytes = 0 || d.kvb % 65536 != 0 ||
    d.cs % 65536 != 0 || outside d.wcap 2 32 || d.wtab % 8 != 0 || outside d.eqslots 1 4096 ||
    !c.within d.eqbase (12288 * d.eqslots) .unbacked || decide (768 ≤ idCore d.credit) || !s.inPod (idChip d.credit) ||
    (idChip d.credit == s.pod.chip.toNat && (s.sem (idCore d.credit) (idSlot d.credit)).owner != ctx) ||
    d.refb % 65536 != 0 || !c.covers d.refb (6 * d.area) .backed || (d.codec == 1 && decide (51 < d.qp)) ||
    d.keyint = 0 || d.rungs.any Rung.bad

/-- A stream queue that STREAM_OPEN refuses (R364, R365). -/
def State.streamQueueBad (s : State) (ctx q : Nat) : Bool :=
  match s.queue q with
  | none => true
  | some x => x.bulk || x.head != x.tail || x.run.isSome || x.outer.isSome || x.ctx != ctx || x.stream.isSome

/-- Whether an encoder can take one more stream (R366): at most 32, and a sum of L of at most 497,664,000, as an exact
fraction. -/
def State.encoderFits (s : State) (enc : Nat) (d : SDesc) : Bool :=
  let ds := d :: (s.streams.filter fun e => e.2.enc == enc).map fun e => e.2.desc
  let rate (d : SDesc) : Nat × Nat :=
    let a := match d.rungs with | g :: _ => g.w * g.h | [] => 0
    (a * d.pden * 1300000000, d.pnum)
  let sum := ds.foldl (fun (a : Nat × Nat) d => let r := rate d; (a.1 * r.2 + r.1 * a.2, a.2 * r.2)) (0, 1)
  decide (ds.length ≤ 32) && decide (sum.1 ≤ 497664000 * sum.2)

/-- The lowest encoder that fits. -/
def State.encoderFor (s : State) (d : SDesc) : Option Nat := (List.range 16).find? fun k => s.encoderFits k d

/-! ### Commands (R364) -/

/-- The fields of a stream command outside their limits; the stream's own queue is not accepted (R364). -/
def streamCmdBad (s : State) (c : Cmd) (desc : Bool) : Bool :=
  cmdHeadBad c || cmdTailBad c || c.a.extractLsb' 16 48 != 0 || decide (511 < (c.a.extractLsb' 0 16).toNat) ||
    (if desc then c.b.toNat % 128 != 0 else c.b != 0) ||
    match s.queue s.fe.curq with | some x => x.stream == some (c.a.extractLsb' 0 16).toNat | none => false

/-- The stream id of a command. -/
def streamId (c : Cmd) : Nat := (c.a.extractLsb' 0 16).toNat

/-- A byte of a descriptor that R365 does not list is not zero, CREDIT is no slot id, or an unlisted flag of a rung is set; rungs from
NRUNG on are not read. -/
def flagsBad (r : Rd) : Bool :=
  r 50 2 != 0 || decide (2 ^ 22 ≤ r 92 4) || r 69 3 != 0 || r 90 2 != 0 || r 109 1 != 0 || r 112 16 != 0 ||
    (List.range (min (r 13 1) 8)).any fun k => decide (1 < r (128 + 64 * k + 21) 1) || r (128 + 64 * k + 26) 6 != 0

/-- A number of a list of bytes. -/
def listRd (l : List Byte) : Rd := fun o n => bytesNat ((l.drop o).take n)

/-- STREAM_OPEN. -/
def execStreamOpen (c : Cmd) (s : State) : Out :=
  let k := streamId c
  command s (streamCmdBad s c true)
    (if (tfind s.streams k).isSome then s.ended 0x30
     else
       withBuffer s c.b.toNat 640 0x32 fun l =>
         let r := listRd l
         let d := sdescOf r
         let n := s.curCtx
         if d.bad s n (flagsBad r) || s.streamQueueBad n d.queue then s.ended 0x32
         else
           match s.encoderFor d with
           | none => s.ended 0x31
           | some e =>
             let st : Stream :=
               { ctx := n, desc := d, next := 0, rung := d.rstart, count := 0, enc := e, frames := [], kv := [], pins := [],
                 descs := [], update := none, closing := false, overrun := 0, trunc := false, steps := 0, interp := false, early := [],
                 tick := none, begun := none, held := false }
             let s1 := { s with streams := tins s.streams k st }
             (s1.onQueue d.queue fun x => { x with stream := some k }).ended 0)

/-- An open stream of the command's context. -/
def State.ownStream (s : State) (k : Nat) : Option Stream :=
  match tfind s.streams k with
  | none => none
  | some st => if st.ctx = s.curCtx then some st else none

/-- STREAM_CLOSE: it is taken again until every started frame has completed. -/
def execStreamClose (c : Cmd) (s : State) : Out :=
  let k := streamId c
  command s (streamCmdBad s c false)
    (match s.ownStream k with
     | none => s.ended 0x30
     | some st =>
       if st.frames.isEmpty && st.tick.isNone then
         let s1 := { s with streams := tdel s.streams k }
         (s1.onQueue st.desc.queue fun x => { x with stream := none }).ended 0
       else { s with streams := tins s.streams k { st with closing := true } })

/-- A descriptor without what STREAM_UPDATE may replace. -/
def SDesc.fixed (d : SDesc) : SDesc := { d with rise := 0, dline := 0, nrung := 0, rungs := [] }

/-- STREAM_UPDATE. -/
def execStreamUpdate (c : Cmd) (s : State) : Out :=
  let k := streamId c
  command s (streamCmdBad s c true)
    (match s.ownStream k with
     | none => s.ended 0x30
     | some st =>
       withBuffer s c.b.toNat 640 0x32 fun l =>
         let r := listRd l
         let d := sdescOf r
         if d.bad s st.ctx (flagsBad r) || d.fixed != st.desc.fixed then s.ended 0x32
         else ({ s with streams := tins s.streams k { st with update := some d } } : State).ended 0)

/-! ### Slack and the ladder (R363, R370-R372) -/

/-- S_n. -/
def SDesc.start (d : SDesc) (n : Nat) : Nat := d.base + n * d.pnum / d.pden

/-- D_n. -/
def SDesc.due (d : SDesc) (n : Nat) : Nat := d.start n + d.dline

/-- A rung of a ladder. -/
def SDesc.rung (d : SDesc) (k : Nat) : Rung :=
  d.rungs.getD k { graph := 0, patches := 0, ncmd := 1, npatch := 0, steps := 1, interp := false, w := 128, h := 128,
                   igraph := 0, ipatches := 0, incmd := 0, inpatch := 0, es := 0, et := 0, ei := 0 }

/-- Whether frame `n` on a rung is interpolated (R367). -/
def Rung.interpolates (g : Rung) (n : Nat) : Bool := g.interp && n % 2 == 1

/-- The full cost of frame `n` on a rung. -/
def Rung.full (g : Rung) (n : Nat) : Int := if g.interpolates n then g.ei else g.steps * g.es + g.et

/-- The remaining cost of a started frame (R370). -/
def Stream.remaining (st : Stream) (f : Frame) : Int :=
  let g := st.desc.rung f.rung
  if f.interp then g.ei else ((f.steps : Int) - f.last) * g.es + g.et

/-- Slack at tick `u` (R370): of the frame last started, or between frames of the next one. -/
def Stream.slack (st : Stream) (u : Nat) : Int :=
  match st.live.getLast? with
  | some f => (st.desc.due f.n : Int) - u - st.remaining f
  | none => (st.desc.due st.next : Int) - u - (st.desc.rung st.rung).full st.next

/-- The ladder at the start of frame `n` at tick `u` (R371): a drop, else a rise. -/
def Stream.atStart (st : Stream) (u : Nat) : Stream :=
  let sl := (st.desc.due st.next : Int) - u - (st.desc.rung st.rung).full st.next
  if sl < 0 && decide (st.rung + 1 < st.desc.nrung) then { st with rung := st.rung + 1, count := 0 }
  else if 8 ≤ st.count && decide (0 < st.rung) then { st with rung := st.rung - 1, count := 0 }
  else st

/-- Arithmetic refinement of an estimate (R372). -/
def upd (e m : Int) : Int := e + (m - e) / 8

/-- A rung of a stream's ladder changed. -/
def Stream.onRung (st : Stream) (k : Nat) (f : Rung → Rung) : Stream :=
  { st with desc := { st.desc with rungs := st.desc.rungs.set k (f (st.desc.rung k)) } }

/-- The estimates refined at the completion of a frame at tick `tc` (R372). -/
def Stream.refine (st : Stream) (f : Frame) (tc : Nat) : Stream :=
  let t0 : Int := f.start
  let tk : Int := f.tk
  let c : Int := tc
  if f.interp then st.onRung f.rung fun g => { g with ei := upd g.ei (c - t0) }
  else if f.last < f.steps then st
  else if f.dropped then st.onRung f.rung fun g => { g with et := upd g.et (c - tk) }
  else st.onRung f.rung fun g => { g with es := upd g.es ((tk - t0) / (f.steps : Int)), et := upd g.et (c - tk) }

/-! ### Frame starts (R367, R369, R374) -/

/-- The scope of a descriptor's SCOPE code. -/
def scopeCode (v : Nat) : Scope := if v = 2 then .device else if v = 3 then .pod else .system

/-- A signed 64-bit number as eight bytes. -/
def intBytes (v : Int) : List Byte := natBytes 8 (BitVec.ofInt 64 v).toNat

/-- The metadata record of a slot from byte 8 on (R369). -/
def frameRecord (n bytes status rung steps flags start done : Nat) (slack : Int) : List Byte :=
  natBytes 8 n ++ natBytes 4 bytes ++ natBytes 1 status ++ natBytes 1 rung ++ natBytes 1 steps ++ natBytes 1 flags ++
    natBytes 8 start ++ natBytes 8 done ++ intBytes slack ++ natBytes 16 0

/-- The bytes of a frame's slot, its record, then SEQ (R369). -/
def SDesc.slotWrites (d : SDesc) (n : Nat) (stream rec_ : List Byte) : List (Nat × List Byte) :=
  let slot := n % d.rslots
  let meta_ := d.ring + 64 + 64 * slot
  [(d.ring + 8192 + d.slotbytes * slot, stream), (meta_ + 8, rec_), (meta_, natBytes 8 (n + 1))]

/-- SEQ is release-stored at SCOPE (R369). -/
def State.released (s : State) (d : SDesc) : State := if d.scope = 2 then s else s.flushPeers

/-- The window after frame `n` has received its area (R374). -/
def Stream.slide (st : Stream) (n : Nat) : Stream :=
  if st.kv.length < st.desc.wcap then
    let a := ((List.range st.desc.wcap).find? fun k => !(st.kv.any fun e => e.area == k)).getD 0
    { st with kv := st.kv ++ [{ frame := n, area := a, anchor := false }] }
  else
    match st.kv.find? fun e => !e.anchor with
    | none => st
    | some e => { st with kv := (st.kv.erase e) ++ [{ frame := n, area := e.area, anchor := false }] }

/-- WTAB (R374): the count and frame n's area, then anchors in pin order, then the others oldest first. -/
def Stream.wtab (st : Stream) : List Word :=
  let word (e : KvEntry) : Word :=
    BitVec.ofNat 64 (e.frame % 65536 + ((st.desc.kvb + e.area * st.desc.cs) / 65536 % 2 ^ 41) * 65536 + (if e.anchor then 2 ^ 63 else 0))
  let pinned := st.pins.filterMap fun f => st.kv.find? fun e => e.anchor && e.frame == f
  let rest := st.kv.filter fun e => !e.anchor
  let area := match st.kv.getLast? with | some e => e.area | none => 0
  BitVec.ofNat 64 (st.kv.length + 256 * area) :: (pinned ++ rest).map word

/-- A pending update applied (R364): the rung in force stays on the new ladder. -/
def Stream.updated (st : Stream) : Stream :=
  match st.update with
  | none => st
  | some d =>
    { st with desc := { st.desc with rise := d.rise, dline := d.dline, nrung := d.nrung, rungs := d.rungs }
              rung := min st.rung (d.nrung - 1), update := none }

/-- The command that Chard issues for a frame (R367 step 5). -/
def frameCmd (g : Rung) (interp : Bool) (phase : BitVec 16) : Cmd :=
  let gr := if interp then g.igraph else g.graph
  let ps := if interp then g.ipatches else g.patches
  let n := if interp then g.incmd else g.ncmd
  let m := if interp then g.inpatch else g.npatch
  { flags := 2, phase := phase, ceil := 0, scope := 2, z := 0, a := gr, b := BitVec.ofNat 64 (n + 2 ^ 32 * m), caddr := 0,
    seq := 0, w5 := ps, w6 := 0, w7 := 0 }

/-- gp56-gp63 at a frame start (R367 step 4). -/
def frameGp (gp : Tab Word) (st : Stream) (n rung steps : Nat) (interp : Bool) : Tab Word :=
  let d := st.desc
  let vs : List Nat :=
    [n, rung + 256 * steps + (if interp then 65536 else 0), d.wtab, d.ring + 8192 + d.slotbytes * (n % d.rslots), d.start n, d.due n, 0, 0]
  vs.zipIdx.foldl (fun g e => tset 0 g (56 + e.2) (BitVec.ofNat 64 e.1)) gp

/-- The state with a stream replaced. -/
def State.putStream (s : State) (k : Nat) (st : Stream) : State := { s with streams := tins s.streams k st }

/-- Steps 1 to 3 of starting frame `next` at tick `u` (R367): the update, the ladder, the window; the frame, with the tiles already pushed
for it. -/
def Stream.begin_ (st0 : Stream) (u : Nat) : Stream × Frame :=
  let st1 := st0.updated.atStart u
  let n := st1.next
  let g := st1.desc.rung st1.rung
  let interp := g.interpolates n
  ((st1.slide n),
   { n := n, rung := st1.rung, steps := if interp then 0 else g.steps, interp := interp, start := u, last := 0, tk := u, dropped := false,
     w := g.w, h := g.h, tiles := st1.early, read := 0, out := none, after := false })

/-- The last steps of starting a frame (R367): WTAB, gp56-gp63, PHASE, the REPLAY. A held write keeps the frame as it stands (16 R342). -/
def State.startFrame (s : State) (k : Nat) (st : Stream) (f : Frame) (x : CQueue) : State :=
  match s.blockPut st.ctx 0 st.desc.wtab (st.wtab.flatMap fun w => natBytes 8 w.toNat) with
  | .held s1 => s1.putStream k { st with tick := some f.start, begun := some f, held := true }
  | .made s1 =>
    let phase := x.phase + 1
    let cmd := frameCmd (st.desc.rung f.rung) f.interp phase
    let x1 : CQueue :=
      { x with gp := frameGp x.gp st f.n f.rung f.steps f.interp, phase := phase,
               run := some { op := 2, cmd := cmd, status := none, launch := none, old := phase,
                             frame := some (k, BitVec.ofNat 64 f.n) } }
    (s1.putStream k
      { st with next := f.n + 1, frames := st.frames ++ [f], steps := f.steps, interp := f.interp, early := [], tick := none,
                begun := none, held := false }).putQueue st.desc.queue x1

/-- The next frame does not start at tick `u` (R367): descriptors pushed for it go with it, and the frame after it is looked at for that same
tick. -/
def Stream.pass (st : Stream) (u : Nat) : Stream :=
  { st with next := st.next + 1, count := 0, early := [], descs := st.descs.filter (fun d => d.frame != st.next), held := false,
            tick := if st.desc.start (st.next + 1) ≤ u && !st.closing then some u else none }

/-- Chard's work for a context waits behind a write of it that is held: of a frame start or of a frame's record (16 R342). `k` is the
stream that asks, which goes on with its own. -/
def State.chardHeld (s : State) (k : Nat) (st : Stream) : Bool :=
  s.streams.any fun e => e.2.ctx == st.ctx &&
    ((e.1 != k && e.2.held) || e.2.frames.any fun f => f.done && match f.out with | some o => o.held | none => false)

/-- What a frame start needs of its stream and queue (R367): the queue's previous command is complete, no write of the context is held, and
the stream is not closing. -/
def State.mayStart (s : State) (k : Nat) (st : Stream) (x : CQueue) : Bool :=
  !st.closing && !s.fen.frozen && !s.chardHeld k st && (s.ctx st.ctx).term.isNone && x.run.isNone && x.outer.isNone && !x.error

/-- Chard finds at the end of a tick, with the completions of the tick counted (R371), that the next frame of a stream starts in it, is
skipped or is an overrun; what it writes for it follows in its turn of the next tick (16 R350; DEDUCED, log 133). -/
def State.armFrame (s : State) (k : Nat) : State :=
  match tfind s.streams k with
  | none => s
  | some st =>
    match s.queue st.desc.queue with
    | none => s
    | some x =>
      if st.tick.isNone && s.mayStart k st x && decide (st.desc.start st.next ≤ s.dt.toNat) then
        s.putStream k { st with tick := some s.dt.toNat }
      else s

/-- A frame start that is not made (R367), with the next one for the same tick. -/
def State.passFrame (s : State) (k : Nat) (st : Stream) (u : Nat) : State :=
  let st1 := st.pass u
  let s1 := s.putStream k st1
  if st1.tick.isSome then
    { s1 with turn := .event { cur := s.cur, job := s.job, i := .frameStart k } :: s1.turn }
  else s1

/-- FRAME_START (R367): Chard starts, skips or passes over the next frame at the tick at which it was found, or at S_n or later in this one,
with the queue's previous command complete. A ring that the host has not freed is tested before the deadline (log 31). -/
def execFrameStart (k : Nat) (s : State) : Out :=
  match tfind s.streams k with
  | none => .next s
  | some st =>
    match s.queue st.desc.queue with
    | none => .next s
    | some x =>
      let n := st.next
      let u := st.tick.getD s.dt.toNat
      let hold (s : State) : State := s.putStream k { st with tick := some u, held := true }
      if (st.tick.isNone && !s.mayStart k st x) || (s.ctx st.ctx).term.isSome || x.run.isSome || x.outer.isSome || x.error ||
          (!st.held && s.chardHeld k st) || decide (u < st.desc.start n) then
        .next s
      else
        match st.begun with
        | some f => .next (s.startFrame k st f x)
        | none =>
          match s.readRange none st.ctx st.desc.ring 8 with
          | .bad code sub va =>
            if code = 4 then .next (hold (s.blockHeld st.ctx sub va))
            else
              .next (s.terminate st.ctx { FaultRec.blank s.dt 1 (BitVec.ofNat 8 code) (BitVec.ofNat 8 sub) with ctx := some st.ctx })
          | .poison _ sub => .next (s.terminate st.ctx { FaultRec.blank s.dt 1 5 (BitVec.ofNat 8 sub) with ctx := some st.ctx })
          | .bytes l =>
            if bytesNat l + st.desc.rslots ≤ n then .next (s.passFrame k { st with overrun := st.overrun + 1 } u)
            else if st.desc.due n ≤ u then
              let rec_ := frameRecord n 0 1 st.rung 0 0 0 u ((st.desc.due n : Int) - u)
              let (_, s1, done) := s.blockPuts st.ctx 0 0 ((st.desc.slotWrites n [] rec_).drop 1)
              .next (if done then (s1.released st.desc).passFrame k st u else hold s1)
            else
              let (st1, f) := st.begin_ u
              .next (s.startFrame k st1 f x)

/-! ### The encoder (R368, R369, R375, R376, R380) -/

/-- Tiles across and down of a frame of `w` by `h` samples (R375). -/
def gridOf (w h : Nat) : Nat × Nat := ((w + 63) / 64, (h + 63) / 64)

/-- A tile lies within a frame's grid. -/
def Frame.inGrid (f : Frame) (t : Nat × Nat) : Bool := decide (t.1 < (gridOf f.w f.h).1) && decide (t.2 < (gridOf f.w f.h).2)

/-- The lines of a tile slot dropped from the L2 without a write, as `disc` does (R376). -/
def State.dropTile (s : State) (st : Stream) (slot : Nat) : State :=
  let va := st.desc.eqbase + 12288 * slot
  match (s.ctx st.ctx).lookup va with
  | none => s
  | some (_, e) => s.dropLines st.ctx e 3 (s.paOf e va) 12288

/-- Whether an encoder's work for a context waits behind a write of it that is held (16 R342). -/
def State.encHeld (s : State) (st : Stream) : Bool :=
  s.streams.any fun e => e.2.enc == st.enc && e.2.ctx == st.ctx &&
    e.2.live.any fun f => match f.out with | some o => o.held | none => false

/-- A frame of a stream replaced. -/
def Stream.putFrame (st : Stream) (f : Frame) : Stream :=
  { st with frames := st.frames.map fun g => if g.n == f.n then f else g }

/-- ENCODER_TILE_READ (R376): the next tile of the lowest started frame that is not complete is read, its lines are dropped, CREDIT gains 1; a tile behind a
condition of BACK holds the encoder's work for the stream (16 R342). -/
def execEncoderTileRead (k : Nat) (s : State) : Out :=
  match tfind s.streams k with
  | none => .next s
  | some st =>
    match st.live with
    | [] => .next s
    | f :: _ =>
      match st.descs.find? fun d => d.frame == f.n with
      | none => .next s
      | some d =>
        let vas := sectorsOf (st.desc.eqbase + 12288 * d.slot) 12288
        if (s.ctx st.ctx).term.isSome || s.encHeld st || s.linesHeld st.ctx vas then .next s
        else
          match firstCond (s.secConds st.ctx .rd vas) with
          | some (code, sub, va) =>
            .next (if code = 4 then s.blockHeld st.ctx sub va
                   else s.terminate st.ctx { FaultRec.blank s.dt 1 (BitVec.ofNat 8 code) (BitVec.ofNat 8 sub) with ctx := some st.ctx })
          | none =>
            let s1 := s.dropTile st d.slot
            let st1 := { st.putFrame { f with read := f.read + 1 } with descs := st.descs.erase d }
            .next ((s1.putStream k st1).sendSem
              { src := .block (19 + st.enc), core := 0xFFFF, bank := 0, id := 0, pc := 0, ctx := st.ctx, slot := 0, op := .add 1,
                own := false, due := 0 } st.desc.credit)

/-- A frame of a stream has had all its tiles read. -/
def Stream.whole (st : Stream) (f : Frame) : Bool :=
  (f.tiles.filter f.inGrid).length == (gridOf f.w f.h).1 * (gridOf f.w f.h).2 && !st.descs.any fun d => d.frame == f.n

/-- Whether another stream of the encoder has a frame to encode first: an earlier deadline, or the lower id (R368). The streams of a context
that ends, or of another context of which a write is held, make way (16 R342). -/
def State.encodesFirst (s : State) (k : Nat) (st : Stream) (f : Frame) : Bool :=
  s.streams.any fun e =>
    e.1 != k && e.2.enc == st.enc &&
      match e.2.live with
      | [] => false
      | g :: _ =>
        let held := match g.out with | some o => o.held | none => false
        let first := decide (e.2.desc.due g.n < st.desc.due f.n) || (e.2.desc.due g.n == st.desc.due f.n && decide (e.1 < k))
        if e.2.ctx == st.ctx then held || (e.2.whole g && first)
        else e.2.whole g && first && !s.encHeld e.2 && (s.ctx e.2.ctx).term.isNone

/-- What the encoder writes of a frame (R365, R369): bytes of its own in its reference store, then the bitstream, whose bytes the spec
leaves open, up to SLOTBYTES. -/
def Stream.coded (st : Stream) (k : Nat) (f : Frame) (o : BlockJob) : List (Nat × List Byte) × Bool × Nat :=
  let d := st.desc
  let out := Config.bitstream [k, f.n, o.key]
  let bytes := out.take d.slotbytes
  ([(d.refb, (Config.references [k, f.n, o.key]).take (6 * d.area)), (d.ring + 8192 + d.slotbytes * (f.n % d.rslots), bytes)],
   decide (d.slotbytes < out.length), bytes.length)

/-- The frame's last bitstream byte is written: COUNT and the estimates follow (R368, R371, R372). -/
def Stream.counted (st : Stream) (f : Frame) (u : Nat) : Stream :=
  let slack := (st.desc.due f.n : Int) - u
  ({ st with count := if decide ((st.desc.rise : Int) < slack) && !f.dropped then st.count + 1 else 0 } : Stream).refine f u

/-- The record of a complete frame with what its encoder has written of it (R369): its bitstream's length, and whether it was truncated. -/
def Stream.recordOf (st : Stream) (f : Frame) (len : Nat) (trunc : Bool) (u : Nat) : List Byte :=
  frameRecord f.n len (if trunc then 2 else 0) f.rung f.steps
    ((if f.interp then 1 else 0) + (if f.n % st.desc.keyint == 0 || f.after then 2 else 0)) f.start u ((st.desc.due f.n : Int) - u)

/-- The encoder writes the reference store and the bitstream of the lowest frame that is not complete, once its tiles are read (R368): the
frame is then complete, and COUNT and the estimates follow. A held write stops the work there, and it goes on from it (16 R342). -/
def State.encode (s : State) (k : Nat) (st : Stream) : State :=
  match st.live with
  | [] => s
  | f :: _ =>
    if !st.whole f || s.encodesFirst k st f || (s.ctx st.ctx).term.isSome then s
    else
      let o := f.out.getD { key := s.fresh, stage := 0, tick := 0, held := false, src := [] }
      let s0 : State := if f.out.isSome then s else { s with fresh := s.fresh + 1 }
      let (ws, trunc, _) := st.coded k f o
      let (n, s1, done) := s0.blockPuts st.ctx 0 o.stage (ws.drop o.stage)
      if !done then s1.putStream k (st.putFrame { f with out := some { o with stage := n, held := true } })
      else
        let u := s.dt.toNat
        let f1 := { f with out := some { o with stage := 2, tick := u, held := false }, after := st.trunc }
        s1.putStream k { ((st.counted f u).putFrame f1) with trunc := trunc }

/-- Chard writes the record and SEQ of the lowest started frame once it is complete (R369); a held write is tried again (16 R342). -/
def State.chardRecord (s : State) (k : Nat) (st : Stream) : State :=
  match st.frames with
  | [] => s
  | f :: fs =>
    match f.out with
    | none => s
    | some o =>
      if o.stage < 2 || (s.ctx st.ctx).term.isSome || (!o.held && (st.held || s.chardHeld k st)) then s
      else
        let (_, trunc, len) := st.coded k f o
        let rest := (st.desc.slotWrites f.n [] (st.recordOf f len trunc o.tick)).drop (o.stage - 1)
        let (m, s1, wrote) := s.blockPuts st.ctx 0 o.stage rest
        if wrote then (s1.released st.desc).putStream k { st with frames := fs }
        else s1.putStream k { st with frames := { f with out := some { o with stage := m, held := true } } :: fs }

/-- FRAME_COMPLETE (R368): the encoder's writes for the lowest frame that is not complete; Chard's record follows. -/
def execFrameComplete (k : Nat) (s : State) : Out :=
  match tfind s.streams k with
  | none => .next s
  | some st => .next (s.encode k st)

/-! ### Instructions (R377-R379) -/

/-- The stream of a task, while it is open and of its context. -/
def State.streamOf (s : State) (t : Task) : Option (Nat × Stream) :=
  match t.mem.stream with
  | none => none
  | some k =>
    match tfind s.streams k with
    | none => none
    | some st => if st.ctx = t.who.ctx then some (k, st) else none

/-- The frame that a push names, of F and F + 1 (R376): F is the lowest started frame, and F + 1 may be the frame that starts next, which
has the grid of the rung in force (log 54). -/
def Stream.pushed (st : Stream) (fr : Nat) : Option Frame :=
  match st.live with
  | [] => none
  | f :: _ =>
    match st.live.find? fun g => g.n % 65536 == fr && decide (g.n ≤ f.n + 1) with
    | some g => some g
    | none =>
      if st.next = f.n + 1 && st.next % 65536 = fr then
        let g := st.desc.rung st.rung
        some { n := st.next, rung := st.rung, steps := 0, interp := false, start := 0, last := 0, tk := 0, dropped := false, w := g.w,
               h := g.h, tiles := st.early, read := 0, out := none, after := false }
      else none

/-- The status of a push, with the frame that it names (R378). -/
def Stream.pushStatus (st : Stream) (j v : Word) : Nat × Nat :=
  let tile := ((v.extractLsb' 16 6).toNat, (v.extractLsb' 24 6).toNat)
  match st.pushed (v.extractLsb' 0 16).toNat with
  | none => (2, 0)
  | some f =>
    (if f.tiles.contains tile then 3
     else if st.desc.eqslots ≤ j.toNat || !f.inGrid tile || v.extractLsb' 22 2 != 0 || v.extractLsb' 30 34 != 0 then 4
     else 0, f.n)

/-- A tile pushed for a frame. -/
def Stream.push (st : Stream) (n slot : Nat) (tile : Nat × Nat) : Stream :=
  { st with
    frames := st.frames.map fun g => if g.n == n then { g with tiles := tile :: g.tiles } else g
    early := if n == st.next then tile :: st.early else st.early
    descs := st.descs ++ [{ frame := n, slot := slot, tx := tile.1, ty := tile.2 }] }

/-- EQPUSH (R378): accepted, it writes down the slot's lines to DEVICE scope and appends the descriptor; it waits for what
the strand has issued before, and while the stream holds 64 descriptors. -/
def execEqpush (d a b : Reg) (s : State) : Out :=
  strongSem s fun t =>
    let done (s : State) (v : Nat) : State := finishA s (t.result .a d 5 (BitVec.ofNat 64 v))
    match s.streamOf t with
    | none => done s 1
    | some (k, st) =>
      let j := t.rd .a a
      let v := t.rd .a b
      let (status, n) := st.pushStatus j v
      if status ≠ 0 then done s status
      else if 64 ≤ st.descs.length || t.as.fill.isSome then s.wait 1
      else
        let va := st.desc.eqbase + 12288 * j.toNat
        let ps := (s.pieces t.who.ctx va 12288).getD []
        let s1 := s.cleanL1 s.cur.core .device (inLines s ps)
        done (s1.putStream k (st.push n j.toNat ((v.extractLsb' 16 6).toNat, (v.extractLsb' 24 6).toNat))) 0

/-- SSLACK (R379). -/
def execSslack (d a : Reg) (x : Bool) (s : State) : Out :=
  semSlot s fun t =>
    let v : Int :=
      let k := if x then some ((t.rd .a a).extractLsb' 0 9).toNat else t.mem.stream
      match k.bind (tfind s.streams ·) with
      | none => -(2 ^ 63)
      | some st => if st.ctx = t.who.ctx then st.slack s.dt.toNat else -(2 ^ 63)
    finishA s (t.result .a d 5 (BitVec.ofInt 64 v))

/-- The step boundary `k` accepted for a frame at tick `u` (R371, R379): a drop changes STEPS_eff alone. -/
def Stream.boundary (st : Stream) (f : Frame) (k u : Nat) : Stream :=
  let f1 := { f with last := k, tk := u }
  let sl := (st.desc.due f.n : Int) - u - st.remaining f1
  let put (st : Stream) (g : Frame) : Stream := { st with frames := st.frames.map fun e => if e.n == f.n then g else e }
  if sl < 0 && decide (f.rung + 1 < st.desc.nrung) then
    let a := (st.desc.rung f.rung).steps
    let b := (st.desc.rung (f.rung + 1)).steps
    let left := ((f.steps - k) * b + a - 1) / max a 1
    put { st with rung := f.rung + 1, count := 0, steps := k + left } { f1 with rung := f.rung + 1, steps := k + left, dropped := true }
  else put st f1

/-- SRUNG (R379). -/
def execSrung (d a : Reg) (s : State) : Out :=
  semSlot s fun t =>
    let v := t.rd .a a
    let k := (v.extractLsb' 0 8).toNat
    let answer (s : State) (status : Nat) : State :=
      let (r, e) := match s.streamOf t with | some (_, st) => (let x := s.rungNow t st; (x.1, x.2.1)) | none => (0, 0)
      finishA s (t.result .a d 5 (BitVec.ofNat 64 (status + 256 * r + 65536 * e)))
    if v.extractLsb' 8 56 != 0 then answer s 3
    else
      match s.streamOf t, s.frameOf t with
      | some (id, st), some f =>
        if f.interp then answer s 1
        else if k = f.last + 1 && k ≤ f.steps then
          answer { s with streams := tins s.streams id (st.boundary f k s.dt.toNat) } 0
        else if 1 ≤ k && k ≤ f.last then answer s 0
        else answer s 2
      | _, _ => answer s 1

/-- ANCHOR of the window entry that holds a frame index set or cleared (R379). -/
def pinForm (s : State) (d a : Reg) (on : Bool) : Out :=
  semSlot s fun t =>
    let done (s : State) (n : Nat) : State := finishA s (t.result .a d 5 (BitVec.ofNat 64 n))
    let fr := ((t.rd .a a).extractLsb' 0 16).toNat
    match s.streamOf t with
    | none => done s 1
    | some (k, st) =>
      match st.kv.find? fun e => e.frame % 65536 == fr with
      | none => done s 2
      | some e =>
        let n := (st.kv.filter fun e => e.anchor).length
        if on && !e.anchor && (8 ≤ n || st.desc.wcap - 1 ≤ n) then done s 4
        else
          let pins := st.pins.filter (· != e.frame)
          let st1 := { st with
            kv := st.kv.map fun g => if g == e then { g with anchor := on } else g
            pins := if on then (if e.anchor then st.pins else pins ++ [e.frame]) else pins }
          done { s with streams := tins s.streams k st1 } 0

/-- SRUNG_PIN (R379). -/
def execSrungPin (d a : Reg) (s : State) : Out := pinForm s d a true

/-- SRUNG_UNPIN (R379). -/
def execSrungUnpin (d a : Reg) (s : State) : Out := pinForm s d a false

/-! ### DECODE (R381) -/

/-- The tiles of a decoded picture in the layout of R375, in raster order: 6144 samples of 16 bits each, 10-bit samples in bits [15:6], 8-bit
ones in bits [15:8]. -/
def pictureTiles (p : Config.Picture) (deep : Bool) : List Byte :=
  (List.range ((gridOf p.w p.h).1 * (gridOf p.w p.h).2 * 6144)).flatMap fun k =>
    natBytes 2 (if deep then p.sample k % 1024 * 64 else p.sample k % 256 * 256)

/-- What a decoder writes: bytes of its own in the working store, the size of a reference store for the picture (R365), then the tiles; none
where the bitstream fails, or its picture is beyond what R381 supports. -/
def decoded (key codec : Nat) (c : Cmd) (src : List Byte) : Option (List (Nat × List Byte)) :=
  match Config.decoded key codec src with
  | none => none
  | some p =>
    if p.w = 0 || p.h = 0 || 3840 < p.w || 2160 < p.h || (p.deep && codec == 2) then none
    else some [(c.w6.toNat, p.work.take (6 * p.w * p.h)), (c.w5.toNat, pictureTiles p p.deep)]

/-- A free decoder of the four (R381); one whose write is held makes way for other contexts (16 R342). -/
def State.decoderFree (s : State) : Bool := decide ((s.decoders.filter fun e => !e.2.held).length < 4)

/-- DECODE (R381): it waits for one of the four decoders, which reads the bitstream; in a later turn the decoder has written the picture, or
the bitstream has failed, and the command completes. -/
def execDecode (c : Cmd) (s : State) : Out :=
  let codec := (c.b.extractLsb' 32 8).toNat
  let q := s.fe.curq
  command s (cmdHeadBad c || c.w7 != 0 || c.b.extractLsb' 40 24 != 0 || decide (2 < codec))
    (match tfind s.decoders q with
     | none =>
       if !s.decoderFree then s
       else
         withBuffer s c.a.toNat (c.b.extractLsb' 0 32).toNat 0x33 fun l =>
           { s with decoders := tins s.decoders q { key := s.fresh, stage := 0, tick := s.dt.toNat, held := false, src := l },
                    fresh := s.fresh + 1 }
     | some o =>
       match decoded o.key codec c o.src with
       | none => s.ended 0x33
       | some ws =>
         let (n, s1, done) := s.blockPuts s.curCtx 0 o.stage (ws.drop o.stage)
         if done then s1.ended 0 else { s1 with decoders := tins s1.decoders q { o with stage := n, held := true } })

/-! ### The order of dispatch (R373) -/

/-- The place among those that the front end may dispatch of what a launch has next for a stage: latency-class launches first; among these by
CLASS.SET, then those of stream launches, by slack, then by stream id; then the order in which the launches started, and that of R291.
A bulk-class launch takes its turn whole. -/
def State.itemRank (s : State) (n k : Nat) (l : Launch) : List Int :=
  match s.nextItem n l k with
  | none => [2]
  | some (key, _) =>
    let last : List Int := [n, key.1, key.2.1, key.2.2]
    if !l.lat then ([1, 0, 0, 0, 0] : List Int) ++ last
    else
      match l.mem.stream with
      | none => ([0, (key.1 : Int), 1, 0, 0] : List Int) ++ last
      | some c =>
        let slack : Int := match tfind s.streams c with | some st => st.slack s.dt.toNat | none => 0
        ([0, (key.1 : Int), 0, slack, (c : Int)] : List Int) ++ last

/-- One rank before another. -/
def rankBefore : List Int → List Int → Bool
  | a :: r, b :: q => decide (a < b) || (a == b && rankBefore r q)
  | _, _ => false

/-- The stage of some, each with its launch, for which the front end dispatches first (R373), evaluated at the choice. -/
def State.dispatchFirst (s : State) (ns : List (Nat × Nat)) : Option (Nat × Nat) :=
  (ns.foldl (fun (b : Option ((Nat × Nat) × List Int)) e =>
    match tfind s.fe.launches e.1 with
    | none => b
    | some l =>
      let r := s.itemRank e.1 e.2 l
      match b with
      | none => some (e, r)
      | some x => if rankBefore r x.2 then some (e, r) else b) none).map (·.1)

end Sys2Proof.Machine
end

