-- ==== Sys2Proof/Machine/Sampler.lean ====
section
/-! DEFINITION. Sorrel (18 R382-R396): sampler requests, stage control blocks, the pipeline from logits to tokens, the result
record and the token. FP32 values are codes. -/

namespace Sys2Proof.Machine

/-! ### Requests (R382, R383) -/

/-- The requests of an engine. -/
def State.engine (s : State) (e : Nat) : List SampReq := tget [] s.sorrel e

/-- The state with an engine's requests replaced. -/
def State.putEngine (s : State) (e : Nat) (l : List SampReq) : State := { s with sorrel := tset [] s.sorrel e l }

/-- Requests that an engine has queued; the one it runs is none of them. -/
def State.queued (s : State) (e : Nat) : Nat := ((s.engine e).filter fun r => !r.started).length

/-- The engine with the fewest queued requests, the lower number on ties (R382). -/
def State.leastEngine (s : State) : Nat := (List.range 8).foldl (fun b k => if s.queued k < s.queued b then k else b) 0

/-- A request handed to its engine, or waiting in the SEM slot while that engine's queue is full (R383 step 5). -/
def handSamp (s : State) (t : Task) (k : BitVec 3) (a : Reg) (h : Hand) : State :=
  if 32 ≤ s.queued h.engine then (s.putHere (t.onA fun x => { x with samp := some h })).keep
  else
    let r : SampReq :=
      { core := s.cur.core, bank := s.cur.bank, id := t.who.id, ctx := t.who.ctx, k := k, job := h.job, addr := t.rd .a a, spec := h.spec,
        lat := h.lat, sib := t.mem.group.map fun g => (g, t.mem.index), launch := t.who.launch, started := false, held := false, got := [],
        stage := 0 }
    finishA (s.putEngine h.engine (s.engine h.engine ++ [r])) (t.onA fun x => { x with samp := none })

/-- SAMP (R383): the address is checked, kN bound, the release completed and SPECDEPTH.CUR read, each once; then the request is handed to
its engine. -/
def execSamp (k : BitVec 3) (a : Reg) (s : State) : Out :=
  strongSem s fun t =>
    match t.as.samp with
    | some h => handSamp s t k a h
    | none =>
      let v := (t.rd .a a).toNat
      if v % 64 ≠ 0 then trapHere s 3 3
      else if decide (2 ^ 57 ≤ v) || ((s.ctx t.who.ctx).lookup v).isNone then trapHere s 3 4
      else if (t.tok k.toNat).st == .pending then s.wait 1
      else
        let s1 := s.cleanL1 s.cur.core .device fun _ => true
        let h : Hand :=
          { engine := s.leastEngine, job := s.nextJob, spec := (s.ctx t.who.ctx).specCur.toNat, lat := decide (t.cls.cur < 2) }
        handSamp { s1 with nextJob := s1.nextJob + 1 } ((t.released .device).bindTok k s.nextJob) k a h

/-! ### Reading inputs (R385, R395) -/

/-- Why a request does not complete with status 0: held at an address, BADREQ, an uncorrectable error, NOTOKEN. -/
inductive SampStop where
  | hold (sub va : Nat)
  | bad
  | data (sec sub : Nat)
  | noToken
  deriving DecidableEq, Repr

/-- What a pipeline has given so far: the tokens, accepted drafts, the flags OOV, NANS and REJ, the position of a
rejection. -/
structure SampOut where
  toks : List Nat
  a : Nat
  oov : Bool
  nans : Bool
  rej : Bool
  pos : Nat
  deriving DecidableEq, Repr

/-- A pipeline that has given nothing. -/
def SampOut.zero : SampOut := { toks := [], a := 0, oov := false, nans := false, rej := false, pos := 0 }

/-- A request's work in progress: what earlier reads gave that are still to be used, all reads so far, and what the pipeline has given. -/
structure SampMem where
  old : List SampRead
  got : List SampRead
  out : SampOut
  deriving DecidableEq, Repr

/-- A part of a request's work. -/
abbrev Samp (α : Type) := ExceptT SampStop (StateM SampMem) α

/-- What Sorrel reads at its home (09 R233); a condition of BACK holds the request. -/
def State.sampRead (s : State) (ctx va n : Nat) : SampRead ⊕ SampStop :=
  match s.readRange none ctx va n with
  | .bad code sub a => if code = 4 then .inr (.hold sub a) else .inl .bad
  | .poison sec k => .inl (.data sec k)
  | .bytes l => .inl (.bytes l)

/-- What the next read of a request gives: what it gave before the request was held, or what stands there now. -/
def State.sampNow (s : State) (ctx va n : Nat) (m : SampMem) : (SampRead ⊕ SampStop) × List SampRead :=
  match m.old with
  | r :: rest => (.inl r, rest)
  | [] => (s.sampRead ctx va n, [])

/-- Bytes that Sorrel reads; a request that goes on after it was held meets what it has read before as it read it. -/
def State.sread (s : State) (ctx va n : Nat) : Samp (List Byte) := do
  let m ← get
  match s.sampNow ctx va n m with
  | (.inr e, _) => throw e
  | (.inl r, rest) => do
    set ({ m with old := rest, got := m.got ++ [r] } : SampMem)
    match r with
    | .bytes l => pure l
    | .bad => throw .bad
    | .data sec k => throw (.data sec k)

/-- A limit that must hold. -/
def need (b : Bool) : Samp Unit := if b then pure () else throw .bad

/-- What the pipeline gives changed. -/
def give (f : SampOut → SampOut) : Samp Unit := modify fun m => { m with out := f m.out }

/-- 32-bit values of a list of bytes. -/
def words32 (n : Nat) (l : List Byte) : List Nat := (List.range n).map fun i => bytesNat ((l.drop (4 * i)).take 4)

/-! ### The descriptor and the chain (R384, R386) -/

/-- A request descriptor. -/
structure SampDesc where
  logits : Nat
  vb : Nat
  stride : Nat
  ty : Nat
  d : Nat
  scope : Nat
  scb : Nat
  result : Nat
  seed : Word
  step : Word
  drafts : Nat
  qprob : Nat
  deriving DecidableEq, Repr

/-- The fields of a descriptor. -/
def sampDesc (r : Rd) : SampDesc :=
  { logits := r 0 8, vb := r 8 4, stride := r 16 8, ty := r 24 1, d := r 25 1, scope := r 26 1, scb := r 32 8,
    result := r 40 8, seed := BitVec.ofNat 64 (r 48 8), step := BitVec.ofNat 64 (r 56 8), drafts := r 64 8, qprob := r 72 8 }

/-- Bytes of an element of a logits row. -/
def eltSize (ty : Nat) : Nat := if ty = 0 then 4 else 2

/-- The limits of R384; fields not listed are zero. -/
def sampDescBad (r : Rd) : Bool :=
  let x := sampDesc r
  let v := r 12 4
  decide (x.logits % 32 ≠ 0) || outside v 1 (2 ^ 20) || outside x.vb 1 v || decide (x.stride % 32 ≠ 0) ||
    decide (x.stride < v * eltSize x.ty) || decide (2 < x.ty) || decide (15 < x.d) || outside x.scope 2 4 ||
    decide (x.scb % 64 ≠ 0) || decide (x.result % 64 ≠ 0) || decide (x.drafts % 4 ≠ 0) || decide (x.qprob % 4 ≠ 0) ||
    decide (r 27 5 ≠ 0) || decide (r 80 48 ≠ 0)

/-- An FP32 code is finite and above 0. -/
def posFinite (n : Nat) : Bool := match fp32.val n with | .fin s m _ => !s && decide (m ≠ 0) | _ => false

/-- An FP32 code is finite. -/
def finite32 (n : Nat) : Bool := match fp32.val n with | .fin _ _ _ => true | _ => false

/-- The limits of a stage control block of a KIND (R386). -/
def blockBad (r : Rd) : Bool :=
  let zero (o : Nat) : Bool := decide (r o (64 - o) ≠ 0)
  match r 0 1 with
  | 1 => !posFinite (r 16 4) || zero 20
  | 2 => decide (r 16 8 % 8 ≠ 0) || outside (r 24 4) 1 4096 || zero 28
  | 3 => decide (r 16 8 % 32 ≠ 0) || zero 24
  | 4 =>
    decide (r 16 8 % 4 ≠ 0) || decide (65536 < r 24 4) || outside (r 28 4) 1 65536 || !posFinite (r 32 4) ||
      !finite32 (r 36 4) || !finite32 (r 40 4) || zero 44
  | 5 => zero 28
  | 6 => zero 16
  | 7 => decide (1 < r 16 1) || zero 17
  | _ => true

/-- The chain of blocks from an address, after a KIND; a chain holds at most 7. -/
def State.chain (s : State) (ctx : Nat) : Nat → Nat → Nat → Samp (List Rd)
  | 0, _, _ => throw .bad
  | n + 1, va, last => do
    need (decide (va ≠ 0) && decide (va % 64 = 0))
    let l ← s.sread ctx va 64
    let r := listRd l
    need (decide (last < r 0 1) && decide (r 1 7 = 0) && !blockBad r)
    if r 0 1 = 7 then do
      need (decide (r 8 8 = 0))
      pure [r]
    else do
      let rest ← s.chain ctx n (r 8 8) (r 0 1)
      pure (r :: rest)

/-- The block of a KIND. -/
def blockOf (bs : List Rd) (k : Nat) : Option Rd := bs.find? fun r => r 0 1 == k

/-! ### Arithmetic of the pipeline (R388) -/

/-- Rounding under RNE with SAT = 1. -/
def rneSat (v : Val) : Nat := fp32.round .rne true 0 v

/-- A sum rounded. -/
def add32 (a b : Nat) : Nat := rneSat ((fp32.val a).add .rne (fp32.val b))

/-- A difference rounded. -/
def sub32 (a b : Nat) : Nat := rneSat ((fp32.val a).add .rne (fp32.val b).neg)

/-- A product rounded. -/
def prod32 (a b : Nat) : Nat := rneSat ((fp32.val a).mul (fp32.val b))

/-- A quotient of finite values rounded, the denominator not zero. -/
def quot32 (a b : Nat) : Nat :=
  match fp32.val a, fp32.val b with
  | .fin s m e, .fin r n f =>
    let k := Nat.log2 n + 40
    let st := if m * 2 ^ k % n = 0 then 0 else 1
    if m = 0 then fp32.signed (s != r) 0 else rneSat (.fin (s != r) (2 * (m * 2 ^ k / n) + st) (e - f - k - 1))
  | _, _ => fp32.nanCode

/-- One code is below another in the order of 02 R32, whose maximum of a NaN and another value is that value. -/
def under (a b : Nat) : Bool := (fp32.val a).below (fp32.val b) || ((fp32.val a).isNan && !(fp32.val b).isNan)

/-- A code is less than another. -/
def less (a b : Nat) : Bool := (fp32.val a).lt (fp32.val b)

/-- A token that is not excluded, its x and its weight e. -/
structure Kept where
  t : Nat
  x : Nat
  e : Nat
  deriving DecidableEq, Repr

/-- The kept token of largest x, the lowest t on ties (R389). -/
def argmax : List Kept → Option Kept
  | [] => none
  | k :: r => some (r.foldl (fun b c => if under b.x c.x then c else b) k)

/-- The sum of the weights in ascending t. -/
def sumE (l : List Kept) : Nat := l.foldl (fun c k => add32 c k.e) 0

/-- A token put into a list in descending order after those not below it. -/
def insertDesc (key : Kept → Nat) (k : Kept) : List Kept → List Kept
  | [] => [k]
  | c :: r => if under (key c) (key k) then k :: c :: r else c :: insertDesc key k r

/-- Tokens in descending order of a key, ties to lower t. -/
def sortDesc (key : Kept → Nat) (l : List Kept) : List Kept := l.foldl (fun a k => insertDesc key k a) []

/-! ### The stages (R389, R390) -/

/-- An element of a logits row as FP32: none for a NaN; infinities become the largest finite values (R388). -/
def logit (ty n : Nat) : Option Nat :=
  let f := if ty = 0 then fp32 else if ty = 1 then fp16 else bf16
  match f.val n with
  | .nan => none
  | v => some (rneSat v)

/-- Row `j` of the logits, elements below VB: the kept tokens; a NaN among them sets NANS (R388). -/
def State.logitRow (s : State) (ctx : Nat) (x : SampDesc) (j : Nat) : Samp (List Kept) := do
  let n := eltSize x.ty
  let l ← s.sread ctx (x.logits + j * x.stride) (x.vb * n)
  let vs := (List.range x.vb).map fun t => (t, logit x.ty (bytesNat ((l.drop (n * t)).take n)))
  give fun o => { o with nans := o.nans || vs.any fun e => e.2.isNone }
  pure (vs.filterMap fun e => e.2.map fun v => { t := e.1, x := v, e := 0 })

/-- SCALE. -/
def stScale (r : Option Rd) (l : List Kept) : List Kept :=
  match r with
  | none => l
  | some r => l.map fun k => { k with x := prod32 k.x (r 16 4) }

/-- BIAS: a NaN bias makes x a NaN (02 R31), and the token stays. -/
def State.stBias (s : State) (ctx : Nat) (r : Option Rd) (l : List Kept) : Samp (List Kept) :=
  match r with
  | none => pure l
  | some r => do
    let n := r 24 4
    let ws := words32 (2 * n) (← s.sread ctx (r 16 8) (8 * n))
    pure ((List.range n).foldl (fun l i =>
      let id := ws.getD (2 * i) 0
      let b := ws.getD (2 * i + 1) 0
      l.map fun k => if k.t = id then { k with x := add32 k.x b } else k) l)

/-- MASK. -/
def State.stMask (s : State) (ctx vb : Nat) (r : Option Rd) (l : List Kept) : Samp (List Kept) :=
  match r with
  | none => pure l
  | some r => do
    let m := bytesNat (← s.sread ctx (r 16 8) ((vb + 7) / 8))
    pure (l.filter fun k => m.testBit k.t)

/-- PENALTY. -/
def State.stPenalty (s : State) (ctx : Nat) (r : Option Rd) (l : List Kept) : Samp (List Kept) :=
  match r with
  | none => pure l
  | some r => do
    let n := min (r 28 4) (r 24 4)
    let ids := words32 n (← s.sread ctx (r 16 8 + 4 * (r 24 4 - n)) (4 * n))
    pure (l.map fun k =>
      let c := ids.count k.t
      if c = 0 then k
      else
        let x := if less 0 k.x then quot32 k.x (r 32 4) else prod32 k.x (r 32 4)
        let f := rneSat ((fp32.val (r 36 4)).mul (.fin false c 0))
        { k with x := sub32 (sub32 x f) (r 40 4) })

/-- The weights of a row (R389). -/
def weights (l : List Kept) : List Kept :=
  match argmax l with
  | none => []
  | some m => l.map fun k => { k with e := rneSat (exp2Val (fp32.val (prod32 (sub32 k.x m.x) 0x3FB8AA3B))) }

/-- The tokens of a sorted list up to the first at which their sum reaches a limit (R390). -/
def upTo (lim : Nat) : Nat → List Kept → List Kept
  | _, [] => []
  | c, k :: r =>
    let c1 := add32 c k.e
    if less c1 lim then k :: upTo lim c1 r else [k]

/-- The tokens of a list that stand in another. -/
def keepOnly (l : List Kept) (in_ : List Kept) : List Kept := l.filter fun k => in_.any fun c => c.t == k.t

/-- FILTER (R390). -/
def stFilter (r : Option Rd) (l : List Kept) : List Kept :=
  match r with
  | none => l
  | some r =>
    let one := 0x3F800000
    let k := r 16 4
    let p := r 20 4
    let mp := r 24 4
    let l1 := if 1 ≤ k && decide (k < l.length) then keepOnly l ((sortDesc (·.x) l).take k) else l
    let l2 := if less 0 p && less p one then keepOnly l1 (upTo (prod32 p (sumE l1)) 0 (sortDesc (·.e) l1)) else l1
    if less 0 mp && !less one mp then l2.filter fun c => !less c.e mp else l2

/-- Row `j` through SCALE to FILTER: its kept tokens. -/
def State.sampRow (s : State) (ctx : Nat) (x : SampDesc) (bs : List Rd) (j : Nat) : Samp (List Kept) := do
  let l0 ← s.logitRow ctx x j
  let l1 ← s.stBias ctx (blockOf bs 2) (stScale (blockOf bs 1) l0)
  let l2 ← s.stMask ctx x.vb (blockOf bs 3) l1
  let l3 ← s.stPenalty ctx (blockOf bs 4) l2
  if l3.isEmpty then throw .noToken else pure (stFilter (blockOf bs 5) (weights l3))

/-! ### Drawing and accepting (R391-R393) -/

/-- The generator G (R391): u × 2^24. -/
def sampGen (seed ctr : Word) : Nat :=
  let z := seed + (ctr + 1) * 0x9E3779B97F4A7C15
  let z := (z ^^^ (z >>> 30)) * 0xBF58476D1CE4E5B9
  let z := (z ^^^ (z >>> 27)) * 0x94D049BB133111EB
  ((z ^^^ (z >>> 31)) >>> 40).toNat

/-- u as a value. -/
def sampU (x : SampDesc) (j : Nat) : Val := .fin false (sampGen x.seed (64 * x.step + BitVec.ofNat 64 j)) (-24)

/-- The first kept token at which the running sum passes a limit, else the last. -/
def drawAt (lim : Nat) : Nat → List Kept → Nat
  | _, [] => 0
  | _, [k] => k.t
  | c, k :: r => let c1 := add32 c k.e; if less lim c1 then k.t else drawAt lim c1 r

/-- DRAW on a row's kept tokens (R392). -/
def drawTok (x : SampDesc) (greedy : Bool) (l : List Kept) : Nat :=
  if greedy then (match argmax l with | some k => k.t | none => 0)
  else drawAt (rneSat ((sampU x 63).mul (fp32.val (sumE l)))) 0 l

/-- The last token drawn: a rejection at position `j` adds its flags. -/
def giveLast (t : Nat) (rej oov : Bool) (j : Nat) : Samp Unit :=
  give fun o => { o with toks := o.toks ++ [t], rej := rej, oov := oov, pos := if rej then j else 0 }

/-- Drafts `j` on verified in order, then the row after the last (R393). -/
def State.verify (s : State) (ctx : Nat) (x : SampDesc) (bs : List Rd) (greedy : Bool) : List (Nat × Val) → Nat → Samp Unit
  | [], j => do
    let l ← s.sampRow ctx x bs j
    giveLast (drawTok x greedy l) false false j
  | (t, q) :: r, j => do
    let l ← s.sampRow ctx x bs j
    if x.vb ≤ t then giveLast (drawTok x greedy l) true true j
    else
      let p := match l.find? fun k => k.t == t with | none => 0 | some k => quot32 k.e (sumE l)
      let ok :=
        if greedy then (match argmax l with | some k => k.t == t | none => false)
        else ((sampU x j).mul q).lt (fp32.val p)
      if ok then do
        give fun o => { o with toks := o.toks ++ [t], a := o.a + 1 }
        State.verify s ctx x bs greedy r (j + 1)
      else giveLast (drawTok x greedy (l.filter fun k => k.t ≠ t)) true false j

/-- The drafts that are considered, with their probabilities (R384, R393). -/
def State.sampDrafts (s : State) (ctx : Nat) (x : SampDesc) (n : Nat) : Samp (List (Nat × Val)) := do
  let ts := words32 n (← s.sread ctx x.drafts (4 * n))
  if x.qprob = 0 then pure (ts.map fun t => (t, .fin false 1 0))
  else do
    let qs := words32 n (← s.sread ctx x.qprob (4 * n))
    need (qs.all fun q => posFinite q && !less 0x3F800000 q)
    pure (ts.zip (qs.map fp32.val))

/-- The pipeline of a request whose descriptor is within its limits. -/
def State.sampRun (s : State) (ctx : Nat) (x : SampDesc) (deff : Nat) : Samp Unit := do
  let bs ← s.chain ctx 7 x.scb 0
  need (deff = 0 || (blockOf bs 6).isSome)
  let ds ← s.sampDrafts ctx x deff
  s.verify ctx x bs (match blockOf bs 7 with | some r => r 16 1 == 1 | none => false) ds 0

/-! ### Results and completion (R394, R395) -/

/-- Bytes 8 on of a result record. -/
def sampBytes (x : SampDesc) (deff st : Nat) (o : SampOut) : List Byte :=
  let fl := (if o.oov then 1 else 0) + (if deff < x.d then 2 else 0) + (if o.nans then 4 else 0) + (if o.rej then 8 else 0)
  natBytes 1 st ++ natBytes 1 o.a ++ natBytes 1 deff ++ natBytes 1 fl ++ natBytes 4 0 ++
    natBytes 4 o.toks.length ++ natBytes 4 o.pos ++ natBytes 40 0 ++ o.toks.flatMap (natBytes 4 ·)

/-- A sampler request's token takes its outcome. -/
def Task.endSamp (t : Task) (r : SampReq) (errc : Option (BitVec 4)) (n : Nat) : Task :=
  (t.onA fun a =>
    { a with toks := tmap a.toks fun _ x =>
        if x.job = r.job && x.st == .pending then
          { x with st := (if errc.isNone then .ok else .err), errc := errc.getD 0, done := BitVec.ofNat 32 n }
        else x }).splitDone

/-- A request leaves its engine, and its token takes its outcome. -/
def State.sampEnd (s : State) (e : Nat) (r : SampReq) (errc : Option (BitVec 4)) (n : Nat) : State :=
  (s.putEngine e ((s.engine e).filter fun x => x.job ≠ r.job)).onTaskId r.id fun t => t.endSamp r errc n

/-- Tokens drawn by a sibling (R407). -/
def State.sibTokens (s : State) (r : SampReq) (n : Nat) : State :=
  match r.sib with
  | none => s
  | some (g, i) =>
    { s with groups := tmod s.groups g fun x => { x with sibs := x.sibs.modify i fun b => { b with tokens := b.tokens + n } } }

/-- The OOV rejection counted (R393). -/
def State.countOov (s : State) (ctx : Nat) (b : Bool) : State :=
  if b then s.putCtx ctx { (s.ctx ctx) with oov := (s.ctx ctx).oov + 1 } else s

/-- A request in its engine replaced. -/
def State.putSamp (s : State) (e : Nat) (r : SampReq) : State :=
  s.putEngine e ((s.engine e).map fun x => if x.job = r.job then r else x)

/-- A request that is held keeps its place, what it has read and the writes that it has made (16 R342). -/
def State.holdSamp (s : State) (e : Nat) (r : SampReq) (got : List SampRead) (n : Nat) : State :=
  s.putSamp e { r with started := r.started || !got.isEmpty, held := true, got := got, stage := n }

/-- The outcome of a request (R395): STATUS, ERRC, and the POISON sector of an uncorrectable error. -/
def outcome : Option SampStop → Nat × Option (BitVec 4) × Option (Nat × Nat)
  | none => (0, none, none)
  | some .noToken => (1, none, none)
  | some (.data sec sub) => (3, some 1, some (sec, sub))
  | some _ => (2, some 5, none)

/-- The record written at RESULT, its SEQ stored last at RSCOPE, then the token (R394, R395). -/
def State.sampRecord (s : State) (e : Nat) (r : SampReq) (x : SampDesc) (deff : Nat) (m : SampMem) (stop : Option SampStop) : State :=
  let (st, errc, bad) := outcome stop
  let o := if st = 0 then m.out else { m.out with toks := [] }
  let ws := [(x.result + 8, sampBytes x deff st o), (x.result, natBytes 8 (x.step + 1).toNat)]
  let (n, s1, done) := s.blockPuts r.ctx r.id r.stage (ws.drop r.stage)
  if !done then s1.holdSamp e r m.got n
  else
    let s2 := if x.scope = 3 || x.scope = 4 then s1.flushPeers else s1
    let s3 := match bad with | some (sec, sub) => s2.sourceError r.ctx sec sub | none => s2
    ((s3.countOov r.ctx o.oov).sibTokens r o.toks.length).sampEnd e r errc o.toks.length

/-- The area of the result record cannot be written: in no extent, or without write permission. -/
def State.areaBad (s : State) (ctx va n : Nat) : Bool :=
  (s.secConds ctx .wr (sectorsOf va n)).any fun c => c.1 != 4

/-- A sector of a descriptor as far as it can be read: zeros where it cannot. -/
def State.sampSector (s : State) (r : SampReq) (k : Nat) : List Byte × Bool :=
  match s.sampRead r.ctx (r.addr.toNat + 32 * k) 32 with
  | .inl (.bytes l) => (l, true)
  | _ => (List.replicate 32 0, false)

/-- A request whose descriptor cannot be read whole (R395): its record says so where the sector that holds RESULT can be read; a field of
another sector that cannot be read counts as 0 (DESIGN CHOICE, log 132). -/
def State.sampUnread (s : State) (e : Nat) (r : SampReq) (m : SampMem) (stop : SampStop) : State :=
  let rd := listRd (((List.range 4).map (s.sampSector r)).flatMap (·.1))
  let x := sampDesc rd
  let deff := min x.d r.spec
  let (_, errc, bad) := outcome (some stop)
  if (s.sampSector r 1).2 && !s.areaBad r.ctx x.result 68 then s.sampRecord e r x deff m (some stop)
  else
    let s1 := match bad with | some (sec, sub) => s.sourceError r.ctx sec sub | none => s
    s1.sampEnd e r errc 0

/-- A request whose descriptor has been read. -/
def State.sampServe (s : State) (e : Nat) (r : SampReq) (m : SampMem) (d : List Byte) : State :=
  let rd := listRd d
  let x := sampDesc rd
  let deff := min x.d r.spec
  if r.got.isEmpty && s.areaBad r.ctx x.result (68 + 4 * deff) then s.sampEnd e r (some 5) 0
  else if sampDescBad rd then s.sampRecord e r x deff m (some .bad)
  else
    match (s.sampRun r.ctx x deff).run.run m with
    | (.error (.hold sub va), m1) => (s.blockHeld r.ctx sub va).holdSamp e r m1.got r.stage
    | (.error stop, m1) => s.sampRecord e r x deff m1 (some stop)
    | (.ok (), m1) => s.sampRecord e r x deff m1 none

/-- A request served, from its descriptor or from where it was held. -/
def State.sampTry (s : State) (e : Nat) (r : SampReq) : State :=
  match (s.sread r.ctx r.addr.toNat 128).run.run { old := r.got, got := [], out := SampOut.zero } with
  | (.error (.hold sub va), m) => (s.blockHeld r.ctx sub va).holdSamp e r m.got 0
  | (.error stop, m) => s.sampUnread e { r with started := true } m stop
  | (.ok d, m) => s.sampServe e { r with started := true } m d

/-- A request of an engine is held. -/
def State.sampHeld (s : State) (e : Nat) (job : Nat) : Bool := (s.engine e).any fun r => r.job == job && r.held

/-- Requests tried until one is not held: it has run, or its context ends. -/
def State.sampAll (e : Nat) : List SampReq → State → State
  | [], s => s
  | r :: rs, s =>
    let s1 := if (s.ctx r.ctx).term.isSome then s else s.sampTry e r
    if s1.sampHeld e r.job then s1.sampAll e rs else s1

/-- The requests that an engine may run next (R382): those that are held, then a latency-class one, else the first, of the contexts of which
none is held (16 R342). -/
def State.sampNext (s : State) (e : Nat) : List SampReq :=
  let l := s.engine e
  let held := l.filter (·.held)
  let free := l.filter fun r => !r.held && !held.any fun h => h.ctx == r.ctx
  held ++ (match free.find? (·.lat) with | some r => [r] | none => free.take 1)

/-- SAMPLER_REQUEST (R382-R395): an engine starts its next request and runs it to its record; one that is held stays in the engine, and the
engine serves the requests of other contexts. -/
def execSamplerRequest (engine : Nat) (s : State) : Out := .next (s.sampAll engine (s.sampNext engine))

end Sys2Proof.Machine
end

