-- ==== Sys2Proof/Machine/Tables.lean ====
section
/-! DEFINITION. Translation tables and residency (16 R335-R361): the commands of F2, `xlq`, migration, backing faults, and what
other devices and the fabric manager ask (16 R340, R341, R356, R357). -/

namespace Sys2Proof.Machine

/-! ### Table entries (R335, R336, R343) -/

/-- Bits of a word as a number. -/
def bits (w : Word) (lo n : Nat) : Nat := (w.extractLsb' lo n).toNat

/-- A KIND code. -/
def ekindOf (n : Nat) : EKind :=
  match n with
  | 0 => .backed
  | 1 => .unbacked
  | 2 => .peer
  | 3 => .stripe
  | _ => .migrating

/-- The KIND code of an extent. -/
def EKind.code : EKind → Nat
  | .backed => 0
  | .unbacked => 1
  | .peer => 2
  | .stripe => 3
  | .migrating => 4

/-- The entry that four words hold, without its frame map. -/
def entryOf (w0 w1 w3 : Word) : Entry :=
  { log2 := bits w0 0 6, kind := ekindOf (bits w0 6 3), r := w0.getLsbD 9, w := w0.getLsbD 10, x := w0.getLsbD 11,
    present := w0.getLsbD 12, late := w0.getLsbD 13, vbase := bits w0 16 41 * 65536, target := bits w1 16 41 * 65536,
    set := bits w1 0 4, gsh := bits w1 4 4, rcap := bits w3 0 24, fmap := 0 }

/-- Whether `n` bytes at an offset lie wholly within one range of R339 that admits a kind. -/
def inOneRange (k : EKind) (off n : Nat) : Bool :=
  let plain := decide (off + n ≤ 2 ^ 38) || (decide (2 ^ 40 ≤ off) && decide (off + n ≤ 2 ^ 42)) ||
    (decide (2 ^ 42 ≤ off) && decide (off + n ≤ 2 ^ 43)) || (decide (2 ^ 43 ≤ off) && decide (off + n ≤ 2 ^ 43 + 2 ^ 42))
  let unb := decide (2 ^ 48 ≤ off) && decide (off + n ≤ 2 ^ 49)
  match k with
  | .backed => plain || (decide (2 ^ 50 ≤ off) && decide (off + n ≤ 2 ^ 51))
  | .unbacked => unb
  | .peer => plain || unb
  | .stripe => plain
  | .migrating => false

/-- Bytes of a STRIPE extent on the chip at place `i` of a list of `n` (R343); none reaches further than place 0. -/
def Entry.span (e : Entry) (n i : Nat) : Nat :=
  let g := 2 ^ (e.gsh + 12)
  let size := 2 ^ e.log2
  if size ≤ g then (if i = 0 then size else 0) else (size / g + n - 1 - i) / n * g

/-- A target on this device that holds a retired page or a frame of the quarantine reserve. -/
def State.struck (s : State) (pa n : Nat) : Bool :=
  let hit (p : Nat) : Bool := decide (0 < n) && decide (pa < p + 65536) && decide (p < pa + n)
  s.nv.retired.any hit || s.boot.reserve.any hit

/-- A valid entry that makes its table malformed by itself (R336); a PEER entry that names this chip is taken as malformed (DESIGN CHOICE, log
149). -/
def State.entryBad (s : State) (w0 w1 w2 w3 : Word) : Bool :=
  let e := entryOf w0 w1 w3
  let size := 2 ^ e.log2
  let own := s.pod.chip.toNat
  let chip := chipOf e.target
  decide (e.log2 < 16) || decide (40 < e.log2) || decide (3 < bits w0 6 3) || e.vbase % size ≠ 0 ||
    (e.kind != .stripe && e.target % size ≠ 0) || (e.present && e.kind != .backed) || (e.late && e.kind != .unbacked) ||
    (e.kind != .stripe && (e.set != 0 || e.gsh != 0)) || decide (9 < e.gsh) || (e.rcap != 0 && e.kind != .unbacked) ||
    bits w2 3 54 ≠ 0 ||
    match e.kind with
    | .backed => chip != own || !inOneRange .backed (offOf e.target) size || s.struck e.target size
    | .unbacked => chip != own || !inOneRange .unbacked (offOf e.target) size
    | .peer => chip == own || !s.routed chip || !inOneRange .peer (offOf e.target) size
    | .stripe =>
      let l := tget [] s.pod.stripes e.set
      let here (i : Nat) : Bool := l[i]? == some own && s.struck (own * 2 ^ 51 + e.target) (e.span l.length i)
      l.isEmpty || decide (2 ^ 35 ≤ e.target) || e.target % size ≠ 0 || l.any (fun c => !s.routed c) ||
        !inOneRange .stripe e.target (e.span l.length 0) || (List.range l.length).any here
    | .migrating => true

/-- Bytes of this device's LPDDR-6 or CXL ranges, which reduced service does not map (25 R485). -/
def State.unready (s : State) (pa n : Nat) : Bool :=
  decide (s.boot.phase < 3) && chipOf pa == s.pod.chip.toNat && decide (2 ^ 40 < offOf pa + n) &&
    decide (offOf pa < 2 ^ 43 + 2 ^ 42)

/-- Some entry of a list of words names such a target. -/
def State.anyUnready (s : State) : List Word → Bool
  | w0 :: w1 :: _ :: w3 :: r =>
    let e := entryOf w0 w1 w3
    (w0.getLsbD 14 && (e.kind == .backed || e.kind == .stripe) &&
      s.unready (if e.kind == .stripe then s.pod.chip.toNat * 2 ^ 51 + e.target else e.target) (2 ^ e.log2)) || s.anyUnready r
  | _ => false

/-- Two extents that overlap. -/
def Entry.overlaps (a b : Entry) : Bool := decide (a.vbase < b.vbase + 2 ^ b.log2) && decide (b.vbase < a.vbase + 2 ^ a.log2)

/-- Some two extents of a list overlap. -/
def anyOverlap : List Entry → Bool
  | [] => false
  | e :: r => r.any e.overlaps || anyOverlap r

/-- The entries of a table of words from entry number `k` on; none where one is malformed. Of an entry with VALID 0 nothing is checked (DESIGN
CHOICE, log 150). -/
def State.entriesOf (s : State) : Nat → List Word → Option (Tab Entry)
  | k, w0 :: w1 :: w2 :: w3 :: r =>
    if w0.getLsbD 14 && s.entryBad w0 w1 w2 w3 then none
    else
      match s.entriesOf (k + 1) r with
      | none => none
      | some t => some (if w0.getLsbD 14 then (k, entryOf w0 w1 w3) :: t else t)
  | _, _ => some []

/-! ### Commands of F2 (R352, R358, R359) -/

/-- Whether the current queue was created through the physical function. -/
def State.curPf (s : State) : Bool := match s.queue s.fe.curq with | some x => x.pf | none => false

/-- The target context of a command of R358. -/
def cmdCtx (c : Cmd) : Nat := bits c.a 0 8

/-- The common checks of R358: the queue, the header, bytes 40-63, the target context. -/
def f2Bad (s : State) (c : Cmd) : Bool :=
  !s.curPf || cmdHeadBad c || cmdTailBad c || cmdCtx c = 0 || decide (15 < cmdCtx c)

/-- The target context holds a task, a record or a running command other than the one at hand (R358); a REPLAY runs until its last
command has completed. -/
def State.ctxBusy (s : State) (ctx : Nat) : Bool :=
  s.tasks.any (fun e => e.2.who.ctx == ctx) || s.fe.saved.any (fun e => e.2.task.who.ctx == ctx) ||
    s.fe.launches.any (fun e => e.2.ctx == ctx && !(e.2.recs.isEmpty && e.2.wait.isEmpty && e.2.cond.isEmpty)) ||
    s.fe.queues.any fun e => e.2.ctx == ctx && (e.2.outer.isSome || (e.1 != s.fe.curq && e.2.run.isSome))

/-- The UNBACKED extent of a table that another one has the pages of (R358). -/
def keptIn (t : Tab Entry) (e : Entry) : Option Entry :=
  (t.find? fun x => x.2.kind == .unbacked && x.2.vbase == e.vbase && x.2.log2 == e.log2 && x.2.target == e.target &&
    x.2.late == e.late).map (·.2)

/-- Frame maps for the UNBACKED entries of a new table (R335, R347, R358): a kept extent's carries over; a new one takes at most 128 MiB of
GDDR-7 of this device, at an 8-byte aligned address that is free. -/
def State.withMaps (s : State) (old : Tab Entry) : Tab Entry → State × Tab Entry
  | [] => (s, [])
  | (k, e) :: r =>
    if e.kind != .unbacked then
      let (s1, t) := s.withMaps old r
      (s1, (k, e) :: t)
    else
      match keptIn old e with
      | some o =>
        let (s1, t) := s.withMaps old r
        (s1, (k, { e with fmap := o.fmap }) :: t)
      | none =>
        let (v, s1) := s.draw
        let (s2, t) := s1.withMaps old r
        (s2, (k, { e with fmap := s.pod.chip.toNat * 2 ^ 51 + v % (2 ^ 35 - 2 ^ 24) * 8 }) :: t)

/-- A new table put into force: the pages of every UNBACKED extent that it does not keep are discarded first. -/
def State.newTable (s : State) (ctx : Nat) (t : Tab Entry) : State :=
  let old := (s.ctx ctx).table
  let gone := old.filter fun e => e.2.kind == .unbacked && (keptIn t e.2).isNone
  let s1 := gone.foldl (fun s e => s.discardPages ctx { e := e.2, va := e.2.vbase, len := 2 ^ e.2.log2 }) s
  let (s2, t1) := s1.withMaps old t
  s2.putCtx ctx { (s2.ctx ctx) with table := t1 }

/-- The word of a page's state in a frame map (R347). -/
def Page.word (chip : Nat) (p : Page) : Word :=
  match p with
  | .untouched => 0
  | .resident f => BitVec.ofNat 64 (residencyPa chip f + 1)
  | .late pa => BitVec.ofNat 64 (pa + 2)

/-- An entry has a frame map that holds the word at a physical address. -/
def Entry.maps (e : Entry) (pa : Nat) : Bool :=
  (e.kind == .unbacked || (e.kind == .migrating && isUnbackedOff (offOf e.target))) && decide (e.fmap ≤ pa) &&
    decide (pa < e.fmap + 8 * 2 ^ (e.log2 - 16))

/-- The word of a frame map that device memory holds at a physical address (R347). -/
def State.frameMapWord (s : State) (pa : Nat) : Option Word :=
  s.ctxs.findSome? fun c =>
    (c.2.table.find? fun e => e.2.maps pa).map fun e =>
      (s.page c.1 (e.2.target / 65536 + (pa - e.2.fmap) / 8)).word s.pod.chip.toNat

/-- MAPLOAD (R358). -/
def execMapload (c : Cmd) (s : State) : Out :=
  let n := bits c.a 16 16
  let ctx := cmdCtx c
  command s (f2Bad s c || bits c.a 8 8 ≠ 0 || bits c.a 32 32 ≠ 0 || n = 0 || decide (4096 < n) || c.b.toNat % 32 ≠ 0)
    (withBuffer s c.b.toNat (32 * n) 0x20 fun l =>
      if s.anyUnready (bytesWords (4 * n) l) then s.ended 0x51
      else
      match s.entriesOf 0 (bytesWords (4 * n) l) with
      | none => s.ended 0x20
      | some t =>
        if anyOverlap (t.map (·.2)) then s.ended 0x20
        else if s.ctxBusy ctx then s.ended 0x21
        else (s.newTable ctx t).ended 0)

/-- A change of an entry that is allowed while the context runs (R358). -/
def liveChange (old new : Option Entry) : Bool :=
  match old, new with
  | none, _ => true
  | some _, none => false
  | some a, some b =>
    let b1 := { b with r := a.r, w := a.w, x := a.x, present := a.present, fmap := a.fmap }
    a.kind != .migrating && (b1 == a || (a.kind == .backed && !a.present && { b1 with target := a.target } == a))

/-- MAPSET (R338, R358). -/
def execMapset (c : Cmd) (s : State) : Out :=
  let k := bits c.a 16 16
  let ctx := cmdCtx c
  command s (f2Bad s c || bits c.a 8 8 ≠ 0 || bits c.a 32 32 ≠ 0 || decide (4095 < k) || c.b.toNat % 32 ≠ 0)
    (withBuffer s c.b.toNat 32 0x20 fun l =>
      if s.anyUnready (bytesWords 4 l) then s.ended 0x51
      else
      match s.entriesOf k (bytesWords 4 l) with
      | none => s.ended 0x20
      | some t =>
        let old := (s.ctx ctx).table
        let new := match t with | (_, e) :: _ => tins old k e | [] => tdel old k
        if anyOverlap (new.map (·.2)) then s.ended 0x20
        else if s.ctxBusy ctx && !liveChange (tfind old k) (tfind new k) then s.ended 0x21
        else (s.newTable ctx new).ended 0)

/-- RESERVE (R349, R358); a terminated context takes no new P before a context reset (23 R470). -/
def execReserve (c : Cmd) (s : State) : Out :=
  let p := bits c.a 16 16
  let ctx := cmdCtx c
  let t := bits c.a 32 8
  command s (f2Bad s c || bits c.a 8 8 ≠ 0 || bits c.a 40 24 ≠ 0 || decide (8192 < p) || c.b != 0)
    (let x := s.ctx ctx
     if s.pageLimit < s.otherResv ctx + p || p < x.resident then s.ended 0x22
     else
       (s.putCtx ctx { x with resv := if x.ended then 0 else p, timeout := if t = 0 then 100 else t, pool := if p = 0 then [] else x.pool }).ended 0)

/-- A frame that LATEPOOL admits (R352). -/
def State.poolFrame (s : State) (pa : Nat) : Bool :=
  pa % 65536 == 0 && chipOf pa == s.pod.chip.toNat && decide (pa < 2 ^ 57) &&
    (isGddrOff (offOf pa) || isLpddrOff (offOf pa) || isCxl0Off (offOf pa) || isCxl1Off (offOf pa)) &&
    !s.noFrame pa && !s.noFrame (pa + 65535) && !s.struck pa 65536

/-- LATEPOOL (R352, R358). -/
def execLatepool (c : Cmd) (s : State) : Out :=
  let n := bits c.a 16 16
  let ctx := cmdCtx c
  command s (f2Bad s c || bits c.a 8 8 ≠ 0 || bits c.a 32 32 ≠ 0 || n = 0 || decide (4096 < n))
    (withBuffer s c.b.toNat (8 * n) 0x20 fun l =>
      let fs := (bytesWords n l).map BitVec.toNat
      let x := s.ctx ctx
      if fs.any (fun f => s.unready f 65536) then s.ended 0x51
      else if fs.any (fun f => !s.poolFrame f) || 4096 < x.pool.length + n then s.ended 0x20
      else (s.putCtx ctx { x with pool := x.pool ++ fs }).ended 0)

/-! ### Migration (R356, R357) -/

/-- The kind of an entry changed. -/
def State.setKind (s : State) (ctx k : Nat) (kind : EKind) : State :=
  let x := s.ctx ctx
  s.putCtx ctx { x with table := tmod x.table k fun e => { e with kind := kind } }

/-- Step 2 of R356: every core of a cluster that holds the context writes down its dirty bytes of a range. -/
def State.downRange (s : State) (ctx : Nat) (e : Entry) : State :=
  s.cores.foldl (fun s x =>
    if (s.cluster (clusterOf x.1)).ctxs.contains ctx then
      s.cleanL1 x.1 .device fun k => decide (e.target ≤ k * 32) && decide (k * 32 < e.target + 2 ^ e.log2)
    else s) s

/-- The 256 lines of a page, from its residency or late frame, sent to the peer's address `dst`: those that hold no byte send zeros. -/
def State.sendPage (s : State) (pa dst : Nat) : State :=
  let secs := (s.l2.filter fun e => decide (pa / 32 ≤ e.1) && decide (e.1 < pa / 32 + 2048)).map (·.1)
  let cells := (s.mem.filter fun e => decide (pa ≤ e.1) && decide (e.1 < pa + 65536)).map fun e => e.1 / 32
  let bad := s.poison.filter fun k => decide (pa / 32 ≤ k) && decide (k < pa / 32 + 2048)
  let s1 : State :=
    { s with mem := wipeFrame s.mem dst
             poison := s.poison.filter fun k => !(decide (dst / 32 ≤ k) && decide (k < dst / 32 + 2048)) }
  (secs ++ cells ++ bad).foldl (fun s k =>
    let r := s.readL2 k
    s.frameWrite { sec := k - pa / 32 + dst / 32, mask := BitVec.allOnes 32, data := r.data, owner := 0,
                   poison := r.bad.isSome, port := 0 }) s1

/-- Steps 3 and 4 of R356: every page is sent, its frame returns, and the extent becomes PEER. -/
def State.moveExtent (s : State) (ctx k : Nat) (e : Entry) (base : Nat) : State :=
  let mine := (s.ctx ctx).pages.filter fun p => decide (e.target ≤ p.1 * 65536) && decide (p.1 * 65536 < e.target + 2 ^ e.log2)
  let s1 := mine.foldl (fun s p =>
    let dst := base + (p.1 * 65536 - e.target)
    let s1 := match p.2 with
      | .untouched => s
      | .resident f => s.sendPage (residencyPa s.pod.chip.toNat f) dst
      | .late pa => s.sendPage pa dst
    s1.discardPage ctx p.1) s
  let x := s1.ctx ctx
  s1.putCtx ctx { x with table := tmod x.table k fun e => { e with kind := .peer, target := base, late := false, rcap := 0, fmap := 0 } }

/-- MIGRATE (R356): the extent is MIGRATING from the first turn of the command; a later turn ends it. Whether the destination
takes the pages, and at which of its addresses, is free. An index without a valid UNBACKED entry and this chip as the destination end with
BADCMD (DESIGN CHOICE, log 151). F6's notices to the pod are 0 for a range that migrates and 1 for one to
re-point. -/
def execMigrate (c : Cmd) (s : State) : Out :=
  let ctx := cmdCtx c
  let chip := bits c.a 8 8
  let k := bits c.a 16 16
  let dctx := bits c.a 32 8
  command s (f2Bad s c || decide (63 < chip) || chip = s.pod.chip.toNat || decide (4095 < k) || dctx = 0 || decide (15 < dctx) ||
      bits c.a 40 24 ≠ 0)
    (match tfind (s.ctx ctx).table k with
     | none => ({ s with pod := { s.pod with moving := s.pod.moving.filter (· ≠ (ctx, k)) } } : State).ended 6
     | some e =>
       if s.pod.moving.contains (ctx, k) then
         let s0 := { s with pod := { s.pod with moving := s.pod.moving.filter (· ≠ (ctx, k)),
                                                notices := s.pod.notices ++ [(1, e.target, e.log2)] }, fresh := s.fresh + 2 }
         if e.kind != .migrating then s0.ended 0x23
         else if Config.freeBool s.fresh then
           let base := chip * 2 ^ 51 + 2 ^ 48 + Config.freeNat (s.fresh + 1) % 2 ^ (48 - e.log2) * 2 ^ e.log2
           ((s0.moveExtent ctx k e base).flushPeers).ended 0
         else (s0.setKind ctx k .unbacked).ended 0x23
       else if e.kind != .unbacked then s.ended 6
       else if !s.routed chip then s
       else
         let s1 := (s.downRange ctx e).setKind ctx k .migrating
         { s1 with pod := { s1.pod with moving := s1.pod.moving ++ [(ctx, k)], notices := s1.pod.notices ++ [(0, e.target, e.log2)] } })

/-! ### `xlq` (R360, R361) -/

/-- The answer of the address form. -/
def State.xlqAddr (s : State) (ctx : Nat) (v : Word) : Word :=
  if v.extractLsb' 57 7 != 0 then 0
  else
    match (s.ctx ctx).lookup v.toNat with
    | none => 0
    | some (k, e) =>
      let ps :=
        if e.kind == .unbacked then
          match s.page ctx ((e.target + (v.toNat - e.vbase)) / 65536) with
          | .untouched => 0
          | .resident _ => 1
          | .late _ => 2
        else 0
      let b (x : Bool) (n : Nat) : Nat := if x then 2 ^ n else 0
      BitVec.ofNat 64 (1 + e.kind.code * 2 + b e.r 4 + b e.w 5 + b e.x 6 + b e.present 7 + e.log2 * 2 ^ 8 + ps * 2 ^ 14 +
        k * 2 ^ 16 + (if e.kind == .stripe then 0 else chipOf e.target * 2 ^ 28) + b e.late 34)

/-- The answer of the reservation form. -/
def Ctx.xlqRes (c : Ctx) : Word :=
  BitVec.ofNat 64 (c.resv + c.resident * 2 ^ 16 + c.pool.length * 2 ^ 32 + c.late % 2 ^ 16 * 2 ^ 48)

/-- XLQ (R360, R361): no trap; its result is available after 4 cc. -/
def execXlq (d a : Reg) (res : Bool) (s : State) : Out :=
  semSlot s fun t =>
    finishA s (t.result .a d 4 (if res then (s.ctx t.who.ctx).xlqRes else s.xlqAddr t.who.ctx (t.rd .a a)))

/-! ### Residency and backing faults (R344, R345, R350) -/

/-- RESIDENCY_ALLOCATE (R350): the allocating access of an UNTOUCHED page of an UNBACKED extent. -/
def execResidencyAllocate (ctx va : Nat) (s : State) : Out :=
  match (s.ctx ctx).lookup va with
  | none => .next s
  | some (_, e) =>
    match s.bindFor ctx (s.paOf e va) e with
    | .done s1 => .next s1
    | _ => .next s

/-- A pending fault whose condition still stands (R345). -/
def State.stillBack (s : State) (ctx : Nat) (f : BFault) : Bool :=
  let c := s.ctx ctx
  match f.chip, c.lookup f.va with
  | some chip, _ => !s.routed chip
  | none, none => false
  | none, some (_, e) =>
    let pa := s.paOf e f.va
    match f.sub.toNat with
    | 1 => e.kind == .backed && !e.present
    | 2 => e.kind == .migrating || s.refusedAt pa
    | 5 => !s.routed (chipOf pa)
    | _ =>
      let room := decide (c.resident < c.resv) && (e.rcap == 0 || decide (c.residentIn e < e.rcap)) && s.freeFrame.isSome
      e.kind == .unbacked && s.page ctx (pa / 65536) == .untouched && !room && !(e.late && !c.pool.isEmpty)

/-- A task that waited for a fault is ready, at a cancellation point (R346). -/
def Task.unback (t : Task) (sub : BitVec 8) : Task :=
  if t.susp == some (.back sub) then t.resume else t

/-- What waited for a fault goes on. -/
def State.release (s : State) (f : BFault) : State :=
  let s1 := s.onTaskId f.id fun t => if f.job.isNone then t.unback f.sub else t
  match f.job with
  | none => s1
  | some n => { s1 with jobs := tmod s1.jobs n fun j => if j.st == .held then { j with st := .running } else j }

/-- BACKFAULT_RESOLVED (R345): F2 re-tests every pending fault of a context and resolves together those that are met. -/
def execBackfaultResolved (ctx : Nat) (s : State) : Out :=
  let c := s.ctx ctx
  let go := c.faults.filter fun f => !s.stillBack ctx f
  .next (go.foldl State.release (s.putCtx ctx { c with faults := c.faults.filter fun f => s.stillBack ctx f }))

/-- BACKFAULT_TIMEOUT (R345): a fault older than the context's timeout, of 1,300,000 ticks to the millisecond, terminates
the context. -/
def execBackfaultTimeout (ctx : Nat) (s : State) : Out :=
  let c := s.ctx ctx
  match c.faults.find? fun f => decide (c.timeout * 1300000 ≤ s.dt.toNat - f.at_) with
  | none => .next s
  | some f =>
    let pc := match s.task f.core f.bank with | some t => (if t.who.id = f.id then t.a.trappc else 0) | none => 0
    .next (s.terminate ctx (trapRec s f.core f.bank .a 4 f.sub.toNat pc ctx f.id))

/-! ### What other devices and the fabric manager ask (R340, R341, R356, R357) -/

/-- The context for which a byte of this device is reached from outside: that of an extent that targets it. -/
def State.ownerOf (s : State) (pa : Nat) : Nat :=
  match s.ctxs.find? fun c => c.2.table.any fun e =>
      (e.2.kind == .unbacked || e.2.kind == .backed || e.2.kind == .migrating) && decide (e.2.target ≤ pa) &&
        decide (pa < e.2.target + 2 ^ e.2.log2) with
  | some c => c.1
  | none => 0

/-- A request for a range that migrates is refused (R357). -/
def State.movingAt (s : State) (pa : Nat) : Bool :=
  s.ctxs.any fun c => c.2.table.any fun e =>
    e.2.kind == .migrating && decide (e.2.target ≤ pa) && decide (pa < e.2.target + 2 ^ e.2.log2)

/-- Parts of sectors of this device written for an agent outside it; an unbacked page is bound first, and a write that
cannot be placed is refused. -/
def State.outsideWrite (s : State) (owner : Nat) : List (Nat × BitVec 32 × BitVec 256) → State
  | [] => s
  | (pa, m, d) :: r =>
    let w : SWrite := { sec := pa / 32, mask := m, data := d, owner := owner, poison := false, port := 0 }
    let s1 :=
      if chipOf pa != s.pod.chip.toNat || s.unframed owner pa || s.movingAt pa then s
      else if isUnbackedOff (offOf pa) && s.page owner (pa / 65536) == .untouched then
        match s.allocPage owner (pa / 65536) with
        | .done s1 => s1.writeHome w
        | _ => s
      else s.writeHome w
    State.outsideWrite s1 owner r

/-- A page of a migration from another device (R356): bound under the destination context's own limits, then filled. -/
def State.takePage (s : State) (ctx va : Nat) (bytes : List (Nat × Byte)) : State :=
  match (s.ctx ctx).lookup va with
  | none => s
  | some (_, e) =>
    if e.kind != .unbacked then s
    else
      match s.bindFor ctx (s.paOf e va) e with
      | .beyond _ => s
      | .hole => s
      | .done s1 =>
        let base := s.paOf e va / 65536 * 65536
        s1.outsideWrite ctx (bytes.flatMap fun b => cutBytes 1 (base + b.1 % 65536) [b.2])

/-- The extents of this device's tables that name a range of another. -/
def Entry.reaches (e : Entry) (pa log2 : Nat) : Bool :=
  decide (e.target < pa + 2 ^ log2) && decide (pa < e.target + 2 ^ e.log2) && chipOf e.target == chipOf pa

/-- The operation that another device asks for (11 R277-R282, R294); the register of its result is that device's. -/
def semOpOf : SlotReq → SemOp
  | .add v => .add v
  | .fadd v => .fadd 0 v
  | .faddLive v => .faddLive 0 v
  | .cas e v => .cas 0 e v
  | .set v => .set v
  | .wait tag cond t cls => .peerWait tag cond t cls
  | .unwait tag => .peerEnd tag
  | .declare => .declare

/-- Two ranges, each an address and LOG2, that share a byte. -/
def rangesMeet (a b : Nat × Nat) : Bool := decide (a.1 < b.1 + 2 ^ b.2) && decide (b.1 < a.1 + 2 ^ a.2)

/-- A range re-pointed or left as it was when a migration is over: requests for it are served again. -/
def State.served (s : State) (pa log2 : Nat) : State :=
  ({ s with pod := { s.pod with refusing := s.pod.refusing.filter fun r => !rangesMeet r (pa, log2) } } : State).flushPeers

/-- The device that asks or tells, by which requests of one uncore cycle are ordered (R350); one that names no device counts as chip
0's. -/
def peerChip : PeerReq → Nat
  | .write src _ _ => src
  | .read src _ _ => src
  | .marker src _ => src
  | .migrating pa _ => chipOf pa
  | .repoint pa _ _ => chipOf pa
  | .page src _ _ _ => src
  | .discardPage _ _ => 0
  | .slotOp src _ _ _ => src
  | .slotReply _ _ => 0
  | .slotClass slot _ => (slot.extractLsb' 16 6).toNat
  | .refuse pa _ => chipOf pa
  | .hole pa _ => chipOf pa

/-- PEER_PORT_REQUEST (R341, R356, R357; 11 R277). A migration that fails re-points its range to itself. -/
def execPeerPortRequest (r : PeerReq) (s : State) : Out :=
  match r with
  | .write _ pa bytes => .next (s.outsideWrite (s.ownerOf pa) (cutBytes bytes.length pa bytes))
  | .read _ _ _ => .next s
  | .marker src path =>
    let k := src * 4 + path % 4
    .next { s with pod := { s.pod with markers := tset 0 s.pod.markers k (tget 0 s.pod.markers k + 1) } }
  | .migrating pa log2 =>
    let stop := fun (e : Entry) => if e.kind == .peer && e.reaches pa log2 then { e with kind := .migrating } else e
    .next { s with ctxs := tmap s.ctxs fun _ c => { c with table := tmap c.table fun _ e => stop e } }
  | .repoint pa log2 target =>
    let go := fun (n k : Nat) (e : Entry) =>
      if e.kind == .migrating && e.reaches pa log2 && !s.pod.moving.contains (n, k) then
        { e with kind := .peer, target := target + e.target - pa }
      else e
    .next (({ s with ctxs := tmap s.ctxs fun n c => { c with table := tmap c.table fun k e => go n k e } } : State).served pa log2)
  | .page _ ctx va bytes => .next (s.takePage ctx va bytes)
  | .discardPage ctx va =>
    match (s.ctx ctx).lookup va with
    | none => .next s
    | some (_, e) => .next (if e.kind == .unbacked then s.discardPage ctx (s.paOf e va / 65536) else s)
  | .slotOp src ctx slot op =>
    .next (s.toFile (slot / 64 % 1024) { src := .peer src, core := 0xFFFF, bank := 0, id := 0, pc := 0, ctx := ctx, slot := slot % 64,
                                         op := semOpOf op, own := false, due := s.dt.toNat + 1 })
  | .slotReply k ans => .next (s.slotReply k ans)
  | .slotClass slot cls =>
    let rest := s.pod.classes.filter fun c => c.1 ≠ slot
    .next { s with pod := { s.pod with classes := match cls with | some c => rest ++ [(slot, c)] | none => rest } }
  | .refuse pa log2 => .next { s with pod := { s.pod with refusing := s.pod.refusing ++ [(pa, log2)] } }
  | .hole pa log2 => .next { s with pod := { s.pod with holes := s.pod.holes ++ [(pa, log2)] } }

/-- Ports for the writes on their way that have none yet, in their order (R341). -/
def State.choosePorts (s : State) : State :=
  s.pod.out.foldl (fun s w =>
    let out := s.pod.out
    { s with pod := { s.pod with out := out.drop 1 ++ [if w.port = 0 then { w with port := s.portFor w.sec } else w] } }) s

/-- ROUTING_TABLE_UPDATE (R340, R343; 03 R76). What waits for a route that becomes valid goes on. With F6 hung no new peer route is made (23
R465). -/
def execRoutingTableUpdate (r : RouteReq) (s : State) : Out :=
  match r with
  | .route chip valid paths =>
    if 63 < chip || (valid && !s.fen.alive.getLsbD 6) then .next s
    else
      let s1 : State :=
        { s with pod := { s.pod with
            routes := tset (false, 0) s.pod.routes chip (valid, paths)
            members := if valid then s.pod.members ||| (1 <<< chip : BitVec 64) else s.pod.members } }
      .next s1.choosePorts.flushPeers
  | .stripe k chips =>
    if 15 < k || chips.isEmpty || decide (64 < chips.length) || chips.any (fun c => decide (63 < c)) then .next s
    else .next { s with pod := { s.pod with stripes := tset [] s.pod.stripes k chips } }
  | .chipId id => .next { s with pod := { s.pod with chip := id } }

/-- HOST_MEMORY_WRITE (09 R233): a host write to device memory through port 0 performs at the home L2; it may be the
allocating access of a page. -/
def execHostMemoryWrite (ctx va : Nat) (bytes : List Byte) (s : State) : Out :=
  match s.writeRange ctx va bytes with
  | .ok s1 => .next s1
  | .bad _ _ _ => .next s

end Sys2Proof.Machine
end

