-- ==== Sys2Proof/Machine/Ballot.lean ====
section
/-! DEFINITION. Shallot (18 R397-R409): sibling groups, ballots, cancellation, releases and the group record. -/

namespace Sys2Proof.Machine

/-! ### Groups -/

/-- The open group of a GID, with its key. -/
def State.groupOf (s : State) (gid : Nat) : Option (Nat × Group) := s.groups.find? fun g => g.1 % 1024 == gid

/-- The state with a group replaced. -/
def State.putGroup (s : State) (key : Nat) (g : Group) : State := { s with groups := tins s.groups key g }

/-- A member belongs to sibling `i` of a group. -/
def Member.isSib (m : Member) (key i : Nat) : Bool := m.group == some key && m.index == i

/-- The quorum (R401). -/
def Group.quorum (g : Group) : Nat := g.n / 2 + 1

/-- The votes of a hash: the siblings that have posted it. -/
def Group.votes (g : Group) (h : Word) : Nat := (g.sibs.filter fun b => b.st == .posted && b.hash == h).length

/-- GSTATE (R400). -/
def Group.state (g : Group) : Nat := if g.closed.isSome then 2 else if g.winner.isSome then 1 else 0

/-- A posted sibling leads another under the order of R405. -/
def Group.leads (g : Group) (a b : Sib) : Bool :=
  let x := g.votes a.hash
  let y := g.votes b.hash
  decide (y < x) || (x == y && decide (a.tick < b.tick))

/-- The sibling whose hash leads (R405); the first in sibling order on a tie. -/
def Group.leader (g : Group) : Option Sib :=
  match g.sibs.filter fun b => b.st == .posted with
  | [] => none
  | b :: r => some (r.foldl (fun x c => if g.leads c x then c else x) b)

/-- The list of prefix slots that GROUP_OPEN reads (R397). -/
def pfxIds (n : Nat) (l : List Byte) : List Nat := words32 n l

/-- A prefix slot of the context: one of another device may be its, and whether it is stays free. -/
def State.pfxBad (s : State) (ctx v : Nat) : Bool :=
  let id := BitVec.ofNat 22 v
  if 2 ^ 22 ≤ v || 768 ≤ idCore id || !s.inPod (idChip id) then true
  else if idChip id = s.pod.chip.toNat then (s.sem (idCore id) (idSlot id)).owner != ctx
  else Config.freeBool s.fresh

/-- An operation of Shallot for the GROUP_OPEN of a queue sent to a prefix slot. -/
def State.attachOp (s : State) (q : Nat) (op : SemOp) (id : BitVec 22) : State :=
  s.sendSem { src := .attach q, core := 0xFFFF, bank := 0, id := 0, pc := 0, ctx := s.curCtx, slot := 0, op := op, own := false, due := 0 } id

/-- The next operations of an attach (R399): `sfadd.live` with v = N on the next slot in list order, or after a refusal the adds of
2^32 - N to the slots attached before it. -/
def State.attachNext (s : State) (q : Nat) (a : Attach) : State :=
  let v := BitVec.ofNat 32 a.n
  if a.undo then
    (a.ids.take a.made).foldl (fun s id => s.attachOp q (.add (0 - v)) id) { s with opens := tins s.opens q { a with out := a.made, made := 0 } }
  else
    match a.ids[a.made]? with
    | none => s
    | some id => ({ s with opens := tins s.opens q { a with out := 1 } } : State).attachOp q (.faddLive 0 v) id

/-- A private range of siblings that does not lie in UNBACKED extents (R397). -/
def State.rangeOut (s : State) (ctx va n : Nat) : Bool :=
  match s.pieces ctx va n with
  | none => true
  | some ps => ps.any fun p => p.e.kind != .unbacked

/-- A queue that cannot be attached (R397). -/
def State.aqBad (s : State) (ctx aq : Nat) : Bool :=
  if aq = 0xFF then false
  else
    match s.queue aq with
    | none => true
    | some x => x.bulk || x.ctx != ctx || s.groups.any fun g => g.2.aq == some aq && g.2.closed.isNone

/-- Another GROUP_OPEN under way names the GID or the attached queue. -/
def State.opening (s : State) (q gid aq : Nat) : Bool :=
  s.opens.any fun e => e.1 != q && (e.2.gid == gid || (aq != 0xFF && e.2.aq == aq))

/-- A sibling at the open. -/
def Sib.zero : Sib :=
  { st := .running, hash := 0, tick := 0, sub := 0, test := false, release := none, tokens := 0, cycles := 0, pages := 0, lates := 0 }

/-- The group that a GROUP_OPEN opens. -/
def openGroup (c : Cmd) (ctx : Nat) (ids : List (BitVec 22)) : Group :=
  { ctx := ctx, n := bits c.a 16 8, aq := if bits c.a 24 8 = 0xFF then none else some (bits c.a 24 8), gscope := bits c.a 48 8, record := c.b,
    pbase := c.w5, slots := ids, pstride := bits c.w7 0 32, seq := c.seq, sibs := List.replicate (bits c.a 16 8) Sib.zero, winner := none,
    closing := [], closed := none, stage := 0, held := false }

/-- A group whose prefix is attached opens under its GID. -/
def State.addGroup (s : State) (gid : Nat) (g : Group) : State :=
  { s with groups := tins s.groups (gid + 1024 * s.fe.nextGroup) g, fe := { s.fe with nextGroup := s.fe.nextGroup + 1 } }

/-- A field of a GROUP_OPEN outside its limit (R397). -/
def State.openBad (s : State) (c : Cmd) : Bool :=
  let n := bits c.a 16 8
  let pst := bits c.w7 0 32
  decide (1023 < bits c.a 0 16) || outside n 1 32 || decide (256 < bits c.a 32 16) || outside (bits c.a 48 8) 2 4 ||
    decide (c.b.toNat % 64 ≠ 0) || decide (c.w5.toNat % 65536 ≠ 0) || decide (c.w6.toNat % 4 ≠ 0) || outside pst 1 65536 ||
    s.aqBad s.curCtx (bits c.a 24 8) || s.rangeOut s.curCtx c.w5.toNat (65536 * pst * n) || s.areaBad s.curCtx c.b.toNat 320

/-- GROUP_OPEN (R397, R399): it is checked, then Shallot attaches the prefix slots one after another, each in an operation of its file; once
all are attached the group is open, and after a refusal the undoing adds have performed. -/
def execGroupOpen (c : Cmd) (s : State) : Out :=
  let gid := bits c.a 0 16
  let q := s.fe.curq
  command s (cmdHeadBad c || bits c.a 56 8 != 0 || bits c.w7 32 32 != 0)
    (match tfind s.opens q with
     | some a =>
       if a.out ≠ 0 then s
       else if a.undo && a.made = 0 then s.ended 0x42
       else if a.undo || decide (a.made < a.ids.length) then s.attachNext q a
       else (s.addGroup gid (openGroup c s.curCtx a.ids)).ended 0
     | none =>
       if gid < 1024 && (s.groupOf gid).isSome then s.ended 0x40
       else if s.openBad c then s.ended 0x41
       else if s.opening q gid (bits c.a 24 8) then s
       else
         withBuffer s c.w6.toNat (4 * bits c.a 32 16) 0x41 fun l =>
           let ids := pfxIds (bits c.a 32 16) l
           let s0 : State := { s with fresh := s.fresh + 1 }
           if ids.any (s.pfxBad s.curCtx) then s0.ended 0x41
           else
             { s0 with opens := tins s0.opens q { gid := gid, aq := bits c.a 24 8, n := bits c.a 16 8, ids := ids.map (BitVec.ofNat 22),
                                                  made := 0, out := 0, undo := false } })

/-! ### Cancellation (R402) -/

/-- A task of a cancelled sibling: XSTAT.CANCEL reads 1, and a suspended task is made ready (11 R283). -/
def Task.cancelled (t : Task) (sub : BitVec 8) : Task :=
  let t1 := { t with cancel := some sub }
  match t.susp with
  | some .swaitv => (t1.onA fun a => { a with wait := none }).resume
  | some (.split _) => (t1.onA fun a => { a with wait := none }).resume
  | _ => t1

/-- A suspension that a cancellation ends. -/
def Susp.waits : Option Susp → Bool
  | some .swaitv => true
  | some (.split _) => true
  | _ => false

/-- CANCEL for the tasks of a sibling in banks. -/
def State.cancelTasks (s : State) (key i : Nat) (sub : BitVec 8) : State :=
  s.tasks.foldl (fun s e =>
    if e.2.mem.isSib key i then
      let s1 := if Susp.waits e.2.susp then s.unwait e.2.who.id else s
      s1.putTask (e.1 / 2) (e.1 % 2) (e.2.cancelled sub)
    else s) s

/-- CANCEL for its saved tasks. -/
def State.cancelSaved (s : State) (key i : Nat) (sub : BitVec 8) : State :=
  let f (v : Saved) : Saved :=
    if v.task.mem.isSib key i then { v with task := v.task.cancelled sub, ready := v.ready || Susp.waits v.task.susp } else v
  let s1 := (s.fe.saved.filter fun e => e.2.task.mem.isSib key i && Susp.waits e.2.task.susp).foldl (fun s e => s.unwait e.2.task.who.id) s
  { s1 with fe := { s1.fe with saved := tmap s1.fe.saved fun _ v => f v } }

/-- Its records queued or waiting, retired without running, each with its join add. -/
def State.cancelRecords (s : State) (key i : Nat) : State :=
  let hit (r : Record) : Bool := r.mem.isSib key i
  let gone := s.fe.launches.flatMap fun e => ((e.2.recs ++ e.2.wait ++ e.2.cond).filter hit).map fun r => (e.2.ctx, r)
  let f (l : Launch) : Launch :=
    { l with recs := l.recs.filter fun r => !hit r, wait := l.wait.filter fun r => !hit r, cond := l.cond.filter fun r => !hit r }
  gone.foldl (fun s e => match e.2.join with | none => s | some j => s.joinAdd 0xFFFF 0 0 e.1 j)
    { s with fe := { s.fe with launches := tmap s.fe.launches fun _ l => f l } }

/-- Its sampler requests that have not started, dropped (R395). -/
def State.cancelSamp (s : State) (key i : Nat) : State :=
  (List.range 8).foldl (fun s e =>
    ((s.engine e).filter fun r => !r.started && r.sib == some (key, i)).foldl (fun s r => s.sampEnd e r (some 4) 0) s) s

/-- CANCEL raised for a sibling (R402); every task sees it at once. -/
def State.raiseCancel (s : State) (key : Nat) (sub : BitVec 8) (i : Nat) : State :=
  let s1 : State :=
    { s with groups := tmod s.groups key fun g => { g with sibs := g.sibs.modify i fun b => { b with st := .cancelled, sub := sub } } }
  (((s1.cancelTasks key i sub).cancelSaved key i sub).cancelRecords key i).cancelSamp key i

/-- CANCEL raised for every RUNNING sibling of a group. -/
def State.cancelRunning (s : State) (key : Nat) (g : Group) (sub : BitVec 8) : State :=
  (g.sibs.zipIdx.filter fun b => b.1.st == .running).foldl (fun s b => s.raiseCancel key sub b.2) s

/-- GROUP_CLOSE (R397, R405): CANCEL for every RUNNING sibling; the command ends when the group's record is published. -/
def execGroupClose (c : Cmd) (s : State) : Out :=
  let gid := bits c.a 0 16
  command s (cmdHeadBad c || cmdTailBad c || bits c.a 16 48 != 0 || c.b != 0)
    (match s.groupOf gid with
     | none => s.ended (if 1023 < gid then 0x41 else 0x40)
     | some (key, g) =>
       if g.closing.contains s.fe.curq then s
       else if 1023 < gid then s.ended 0x41
       else if g.ctx ≠ s.curCtx || g.closed.isSome then s.ended 0x40
       else
        (s.putGroup key { g with closing := g.closing ++ [s.fe.curq] }).cancelRunning key g 2)

/-! ### Ballots (R400, R401) -/

/-- BPOST (R400): the post goes to Shallot; its result comes with the reply. -/
def execBpost (d a : Reg) (s : State) : Out :=
  strongSem s fun t =>
    let p : Post :=
      { core := s.cur.core, bank := s.cur.bank, id := t.who.id, tick := s.dt.toNat, d := d.toNat, hash := t.rd .a a }
    finishA { s with posts := s.posts ++ [p] }
      (t.onA fun x => { x with outst := x.outst + 1, awaited := if d = 0 then x.awaited else d.toNat :: x.awaited })

/-- A post comes before another (R401). -/
def Post.before (a b : Post) : Bool := decide (a.tick < b.tick) || (a.tick == b.tick && decide (a.core < b.core))

/-- The post that is applied next. -/
def firstPost : List Post → Option Post
  | [] => none
  | p :: r => some (r.foldl (fun x q => if q.before x then q else x) p)

/-- The result of a post reaches the scoreboard (04 R102). -/
def Task.postReply (t : Task) (p : Post) (v : Nat) : Task :=
  { t with
    a := t.a.setReg p.d (BitVec.ofNat 64 v)
    as := { t.as with outst := t.as.outst - 1, awaited := t.as.awaited.filter (· ≠ p.d) } }

/-- A post applied to a sibling of a group: its status, the group's votes and state after it, the state (R400, R401). -/
def State.applyPost (s : State) (p : Post) (key i : Nat) : Nat × State :=
  match tfind s.groups key with
  | none => (3 + 65536 * 2, s)
  | some g =>
    let code (st : Nat) (g : Group) : Nat := st + 256 * g.votes p.hash + 65536 * g.state
    match g.sibs[i]? with
    | none => (code 1 g, s)
    | some b =>
      if g.closed.isSome || b.st == .cancelled then (code 3 g, s)
      else if b.st == .posted then (code 2 g, s)
      else
        let g1 := { g with sibs := g.sibs.set i { b with st := .posted, hash := p.hash, tick := p.tick } }
        if g1.winner.isNone && decide (g1.quorum ≤ g1.votes p.hash) then
          let g2 := { g1 with winner := some (p.hash, p.tick) }
          (code 0 g2, (s.putGroup key g2).cancelRunning key g2 1)
        else (code 0 g1, s.putGroup key g1)

/-- Shallot's work for a context waits behind a write of a group record that is held (16 R342). -/
def State.shallotHeld (s : State) (ctx : Nat) : Bool := s.groups.any fun g => g.2.held && g.2.ctx == ctx

/-- The posts that Shallot may apply. -/
def State.openPosts (s : State) : List Post :=
  s.posts.filter fun p => match s.task p.core p.bank with | some t => !s.shallotHeld t.who.ctx | none => true

/-- BALLOT_APPLY (R401): Shallot applies one post, in order of arrival. -/
def execBallotApply (s : State) : Out :=
  match firstPost s.openPosts with
  | none => .next s
  | some p =>
    let s1 := { s with posts := s.posts.erase p }
    match s1.task p.core p.bank with
    | none => .next s1
    | some t =>
      if t.who.id ≠ p.id then .next s1
      else
        let (v, s2) := match t.mem.group with | none => (1, s1) | some key => s1.applyPost p key t.mem.index
        .next (s2.onTaskId p.id fun t => t.postReply p v)

/-! ### Checking and reading a group (R403, R408) -/

/-- BCHK (R408): a cancellation point on either strand; on the A-strand it takes the SEM slot. -/
def execBchk (s : State) : Out :=
  onTask s fun t => if s.cur.side == .a && t.fenced then s.wait 1 else atPoint s t (finish s t)

/-- The word of `bstat` (R408); `own` is the sibling of the issuing task. -/
def Group.word (g : Group) (own : Option Nat) : Word :=
  let n := g.sibs.length
  let posts := (g.sibs.filter fun b => b.st == .posted).length
  let canc := (g.sibs.filter fun b => b.st == .cancelled).length
  let top := match g.leader with | none => 0 | some b => g.votes b.hash
  let lead := match g.leader with | none => 0 | some b => b.hash.toNat % 2 ^ 32
  let o := match own.bind (g.sibs[·]?) with
    | none => 3
    | some b => (match b.st with | .running => 0 | .posted => 1 | .cancelled => 2)
  BitVec.ofNat 64 (g.state + 4 * n + 2 ^ 8 * posts + 2 ^ 14 * top + 2 ^ 20 * canc + 2 ^ 26 * o + 2 ^ 32 * lead)

/-- BSTAT (R408): the group of the issuing task, or a group of the same context named in sA. -/
def execBstat (d a : Reg) (x : Bool) (s : State) : Out :=
  strongSem s fun t =>
    if !x && a != 0 then ill s 3
    else
      let key := if x then (s.groupOf (bits (t.rd .a a) 0 10)).map (·.1) else t.mem.group
      let v : Word :=
        match key.bind fun k => (tfind s.groups k).map fun g => (k, g) with
        | none => 3
        | some (k, g) => if g.ctx ≠ t.who.ctx then 3 else g.word (if t.mem.group == some k then some t.mem.index else none)
      finishA s (t.result .a d 5 v)

/-! ### Releases, closing and the group record (R404-R407) -/

/-- Whether anything of a sibling is left (R404). -/
def State.sibBusy (s : State) (key i : Nat) : Bool :=
  let sib := some (key, i)
  s.tasks.any (fun e => e.2.mem.isSib key i) || s.fe.saved.any (fun e => e.2.task.mem.isSib key i) ||
    s.fe.launches.any (fun e => (e.2.recs ++ e.2.wait ++ e.2.cond).any fun r => r.mem.isSib key i) ||
    s.jobs.any (fun e => e.2.sib == sib) || s.sorrel.any fun e => e.2.any fun r => r.sib == sib

/-- An add of Shallot to a prefix slot. -/
def State.prefixAdd (s : State) (ctx : Nat) (v : BitVec 32) (id : BitVec 22) : State :=
  s.sendSem { src := .block 10, core := 0xFFFF, bank := 0, id := 0, pc := 0, ctx := ctx, slot := 0, op := .add v, own := false,
              due := 0 } id

/-- The pages of a piece that are RESIDENT or LATE, and those that are LATE. -/
def State.countPages (s : State) (ctx : Nat) (p : Piece) : Nat × Nat :=
  let lo := s.paOf p.e p.va / 65536
  let l := (s.ctx ctx).pages.filter fun e => decide (lo ≤ e.1) && decide (e.1 < lo + p.len / 65536)
  ((l.filter fun e => e.2 != .untouched).length,
   (l.filter fun e => match e.2 with | .late _ => true | _ => false).length)

/-- SIBLING_RELEASE (R404): Shallot tests the sibling; when the release starts, its pages are counted and discarded, and its
reference on each prefix slot is dropped. -/
def execSiblingRelease (gid i : Nat) (s : State) : Out :=
  match s.groupOf gid with
  | none => .next s
  | some (key, g) =>
    match g.sibs[i]? with
    | none => .next s
    | some b =>
      if s.shallotHeld g.ctx then .next s
      else if b.st != .cancelled || b.release.isSome || s.sibBusy key i then
        .next (s.putGroup key { g with sibs := g.sibs.set i { b with test := false } })
      else
        let ps := (s.pieces g.ctx (g.pbase.toNat + 65536 * g.pstride * i) (65536 * g.pstride)).getD []
        let counts := ps.map (s.countPages g.ctx)
        let b1 := { b with test := false, release := some s.dt.toNat, pages := (counts.map (·.1)).sum, lates := (counts.map (·.2)).sum }
        let s1 := s.putGroup key { g with sibs := g.sibs.set i b1 }
        let s2 := ps.foldl (fun s p => s.dropLines g.ctx p.e (p.len / 65536 + 2) (s.paOf p.e p.va) p.len) s1
        let s3 := ps.foldl (fun s p => s.discardPages g.ctx p) s2
        .next (g.slots.foldl (fun s v => s.prefixAdd g.ctx 0xFFFFFFFF v) s3)

/-- Ticks that a release takes before the group may close; with the three closing adds the record of the run of 21 R433 is released at its
tick. DESIGN CHOICE, log 63: no rule gives a duration. -/
def releaseTicks : Nat := 3897

/-- Operations of Shallot on slots for a context that have not performed: adds of releases and of closing groups (R404, R405). -/
def State.addsOut (s : State) (ctx : Nat) : Bool :=
  let mine (m : SemMsg) : Bool := m.src == .block 10 && m.ctx == ctx
  s.cores.any (fun c => c.2.inbox.any mine) || s.pod.sems.any mine

/-- A sibling whose release has completed (R404). -/
def Sib.released (b : Sib) (now : Nat) : Bool :=
  match b.release with
  | none => false
  | some u => decide (u + releaseTicks ≤ now)

/-- Whether a group closes at a tick (R405). -/
def Group.finished (g : Group) (now : Nat) : Bool :=
  g.sibs.all fun b => match b.st with | .running => false | .posted => true | .cancelled => b.released now

/-- RESULT, HASH and DTICK (R405). -/
def Group.result (g : Group) : Nat × Word × Nat :=
  match g.winner with
  | some (h, u) => (0, h, u)
  | none =>
    match g.leader with
    | some b => (1, b.hash, g.closed.getD 0)
    | none => (2, 0, g.closed.getD 0)

/-- A mask of siblings in a state. -/
def Group.maskOf (g : Group) (st : SibState) : Nat :=
  (g.sibs.zipIdx.foldl (fun m b => if b.1.st == st then m + 2 ^ b.2 else m) 0)

/-- Bytes 8-319 of the group record (R406, R407). -/
def Group.bytes (g : Group) : List Byte :=
  let (res, h, u) := g.result
  let dead := g.sibs.filter fun b => b.st == .cancelled
  let sum (f : Sib → Nat) : Nat := (dead.map f).sum
  natBytes 1 res ++ natBytes 1 g.n ++ natBytes 1 g.quorum ++ natBytes 1 (if res = 2 then 0 else g.votes h) ++ natBytes 4 0 ++
    natBytes 8 h.toNat ++ natBytes 8 u ++ natBytes 4 (g.maskOf .posted) ++ natBytes 4 (g.maskOf .cancelled) ++
    natBytes 8 (sum (·.tokens)) ++ natBytes 8 (sum (·.cycles)) ++ natBytes 4 (sum (·.pages)) ++ natBytes 4 (sum (·.lates)) ++
    (List.range 32).flatMap fun i => natBytes 8 (match g.sibs[i]? with | some b => b.hash.toNat | none => 0)

/-- The record published: bytes 8 on, then SEQ at GSCOPE; the GID becomes free and the waiting GROUP_CLOSE commands end. A held write
stops there (16 R342). -/
def State.publishGroup (s : State) (key : Nat) (g : Group) : State :=
  let ws := [(g.record.toNat + 8, g.bytes), (g.record.toNat, natBytes 8 g.seq.toNat)]
  let (n, s2, wrote) := s.blockPuts g.ctx 0 g.stage (ws.drop g.stage)
  if !wrote then s2.putGroup key { g with stage := n, held := true }
  else
    let s3 := if g.gscope = 3 || g.gscope = 4 then s2.flushPeers else s2
    let done (x : CQueue) : CQueue := { x with run := x.run.map fun r => { r with status := some 0 } }
    g.closing.foldl (fun s q => s.onQueue q done) { s3 with groups := tdel s3.groups key }

/-- GROUP_RECORD (R405, R406): the group closes, with one add to each prefix slot for each POSTED sibling; once these have performed its
record is written. -/
def execGroupRecord (gid : Nat) (s : State) : Out :=
  match s.groupOf gid with
  | none => .next s
  | some (key, g) =>
    if (s.ctx g.ctx).term.isSome || (!g.held && s.shallotHeld g.ctx) || s.addsOut g.ctx then .next s
    else if g.closed.isSome then .next (s.publishGroup key g)
    else if !g.finished s.dt.toNat then .next s
    else
      let posted := (g.sibs.filter fun b => b.st == .posted).length
      let g1 := { g with closed := some s.dt.toNat }
      let drop (s : State) : State := g.slots.foldl (fun s v => s.prefixAdd g.ctx 0xFFFFFFFF v) s
      let s1 := (List.range posted).foldl (fun s _ => drop s) (s.putGroup key g1)
      .next (if s1.addsOut g.ctx then s1 else s1.publishGroup key g1)

end Sys2Proof.Machine
end

