-- ==== Sys2Proof/Machine/Control.lean ====
section
/-! DEFINITION. Control transfer, the branch queue, the queues between the strands, Device Time waits, ending, trapping
and breaking (05 R122-R131, R133-R137). -/

namespace Sys2Proof.Machine

/-! ### Branches (R122-R126) -/

/-- A taken branch: the pc becomes the target, whose fetch is charged to the branch word (R122), and one issue cycle of the
X-strand, or one cc of the A-strand, stays empty (04 R103). -/
def Task.jump (t : Task) (sd : Side) (target : Word) : Task :=
  let t1 := t.onSt sd fun st => { st with via := some st.pc, pc := target }
  match sd with
  | .a => t1.onA fun a => { a with gap := 1 }
  | .x => t1.onX fun x => { x with gap := 1 }

/-- The target of a direct branch (R122). -/
def Task.relative (t : Task) (sd : Side) (disp : BitVec 32) : Word := (t.st sd).pc + disp.signExtend 64

/-- The link that `call` writes: the byte address of the next word (R123). -/
def Task.link (t : Task) (sd : Side) : Task := t.result sd 63 1 (((t.st sd).pc + 1) <<< 3)

/-- A guarded direct branch. -/
def directBranch (s : State) (g : Guard) (disp : BitVec 32) (link : Bool) : Out :=
  onTask s fun t =>
    let sd := s.cur.side
    if t.guard sd g then
      let t1 := if link then t.link sd else t
      s.putHere (t1.jump sd (t.relative sd disp))
    else finish s t

/-- A byte address that is no word address of the virtual space (R122). -/
def targetBad (v : Word) : Bool := v.extractLsb' 0 3 != 0 || v.extractLsb' 57 7 != 0

/-- A guarded indirect branch: ILL 0x40 for a bad target when taken (R122). -/
def indirectBranch (s : State) (g : Guard) (a : Reg) (link : Bool) : Out :=
  onTask s fun t =>
    let sd := s.cur.side
    if t.guard sd g then
      let v := t.rd sd a
      if targetBad v then ill s 0x40
      else
        let t1 := if link then t.link sd else t
        s.putHere (t1.jump sd (v >>> 3))
    else finish s t

/-- BR (R123). -/
def execBr (g : Guard) (disp : BitVec 32) (s : State) : Out := directBranch s g disp false

/-- JMP_DIRECT (R123). -/
def execJmpDirect (g : Guard) (disp : BitVec 32) (s : State) : Out := directBranch s g disp false

/-- JMP_INDIRECT (R123). -/
def execJmpIndirect (g : Guard) (a : Reg) (s : State) : Out := indirectBranch s g a false

/-- CALL_DIRECT (R123). -/
def execCallDirect (g : Guard) (disp : BitVec 32) (s : State) : Out := directBranch s g disp true

/-- CALL_INDIRECT (R123). -/
def execCallIndirect (g : Guard) (a : Reg) (s : State) : Out := indirectBranch s g a true

/-- RET (R123). -/
def execRet (g : Guard) (a : Reg) (s : State) : Out := indirectBranch s g a false

/-- The end of a counted loop (R124). -/
def Task.countLoop (t : Task) (sd : Side) (disp : BitVec 32) : Task :=
  let n := (t.st sd).loopc
  if n = 0 then t.advance sd
  else (t.onSt sd fun st => { st with loopc := n - 1 }).jump sd (t.relative sd disp)

/-- LOOP (R124). -/
def execLoop (disp : BitVec 32) (s : State) : Out := onTask s fun t => s.putHere (t.countLoop s.cur.side disp)

/-- The ring turned back by STEP (03 R64). -/
def Task.rotate (t : Task) : Task :=
  if t.ring = 0 then t
  else t.onX fun x => { x with base := BitVec.ofNat 6 ((x.base.toNat + t.ring - x.step.toNat % t.ring) % t.ring) }

/-- LOOPR (R125). -/
def execLoopr (disp : BitVec 32) (s : State) : Out := onlyX s fun t => s.putHere (t.rotate.countLoop .x disp)

/-! ### Queues (R127-R131) -/

/-- QUEUE (R131), at the executing word. -/
def queueTrap (s : State) : State := trapHere s 0x0B 0

/-- A push by the acting strand: it waits while the queue is full; a full queue that only an ended partner could drain is
QUEUE (R130, R131). -/
def pushTo (s : State) (q : Queue) (depth : Nat) (partnerEnded : Bool) (v : Word) (k : Queue → State) : State :=
  let cc := (s.core s.cur.core).cc
  if q.full depth cc then
    if partnerEnded && decide (depth ≤ q.items.length) then queueTrap s else s.wait 1
  else k (q.push v cc)

/-- A pop by the acting strand: it waits until an entry may be taken; an empty queue that only an ended partner could fill
is QUEUE (R130, R131). -/
def popFrom (s : State) (q : Queue) (partnerEnded : Bool) (k : Word → Queue → State) : State :=
  let cc := (s.core s.cur.core).cc
  match q.head cc with
  | some v => k v (q.drop cc)
  | none => if q.items.isEmpty && partnerEnded then queueTrap s else s.wait 1

/-- BQPUSH (R127). -/
def execBqpush (g : Guard) (s : State) : Out :=
  onlyA s fun t =>
    pushTo s t.bq 64 t.x.ended (if t.guard .a g then 1 else 0) fun q => finish s { t with bq := q }

/-- BQBR (R128). -/
def execBqbr (disp : BitVec 32) (s : State) : Out :=
  onlyX s fun t =>
    popFrom s t.bq t.a.ended fun v q =>
      let t1 := { t with bq := q }
      if v = 0 then finish s t1 else s.putHere (t1.jump .x (t.relative .x disp))

/-- QPUSH (R129); on the A-strand it takes the MEM slot (04 R96). -/
def execQpush (a : Reg) (s : State) : Out :=
  onTask s fun t =>
    match s.cur.side with
    | .a => if t.memHeld then s.wait 1 else pushTo s t.aq 32 t.x.ended (t.rd .a a) fun q => finish s { t with aq := q }
    | .x => pushTo s t.xq 16 t.a.ended (t.rd .x a) fun q => finish s { t with xq := q }

/-- QPOP (R129); on the A-strand it takes the MEM slot (04 R96). -/
def execQpop (d : Reg) (s : State) : Out :=
  onTask s fun t =>
    match s.cur.side with
    | .a => if t.memHeld then s.wait 1 else popFrom s t.xq t.x.ended fun v q => finish s ({ t with xq := q }.result .a d 1 v)
    | .x => popFrom s t.aq t.a.ended fun v q => finish s ({ t with aq := q }.result .x d 1 v)

/-! ### Device Time waits (R133) -/

/-- The strand holds until DT reaches T, unless T has been reached. -/
def holdUntil (s : State) (t : Task) (target : Word) : State :=
  let t1 := if s.dt.ult target then t.onSt s.cur.side fun st => { st with hold := some target } else t
  finish s t1

/-- WAITT (R133). -/
def execWaitt (a : Reg) (b : Src) (s : State) : Out :=
  onTask s fun t => holdUntil s t (t.rd s.cur.side a + t.src s.cur.side b)

/-- WAITT_REL (R133). -/
def execWaittRel (a : Reg) (b : Src) (s : State) : Out :=
  onTask s fun t => holdUntil s t (s.dt + (t.rd s.cur.side a + t.src s.cur.side b))

/-- WAITT_HOLD_END (R133, R134): the hold of the acting strand ends once DT has reached T. -/
def execWaittHoldEnd (s : State) : Out :=
  onTask s fun t =>
    match (t.st s.cur.side).hold with
    | none => s
    | some v => if s.dt.ult v then s else s.putHere (t.onSt s.cur.side fun st => { st with hold := none })

/-! ### Ending, trapping, breaking (R135-R137) -/

/-- END (R135): no further group issues; an X-strand's writes in flight still perform in later issue cycles. -/
def execEnd (s : State) : Out :=
  onTask s fun t => finish s (t.onSt s.cur.side fun st => { st with ended := true })

/-- TRAP (R136): ILL 0x41, whose fault record carries the code. -/
def execTrap (code : BitVec 16) (s : State) : Out :=
  onTask s fun _ =>
    let s1 := ill s 0x41
    { s1 with fen := { s1.fen with faults :=
        match s1.fen.faults with
        | [] => []
        | r :: rest => { r with tcode := code } :: rest } }

/-- BRK (R137): with debugging enabled the strand takes DBG, which is not fatal, and both strands halt at their next group
boundaries; else it acts as `nop`. -/
def execBrk (s : State) : Out :=
  onTask s fun t =>
    if (s.ctx t.who.ctx).debug then
      let sd := s.cur.side
      let t1 := t.onSt sd fun st =>
        { st with trap := { code := 0x0A, sub := 0, fatal := false }, trappc := st.pc }
      finish s { t1 with stop := some (.debug (match sd with | .a => 1 | .x => 2)) }
    else finish s t

end Sys2Proof.Machine
end

