-- ==== Sys2Proof/Machine/Debug.lean ====
section
/-! DEFINITION. Program-made checkpoints and debugging (19 R420-R424). -/

namespace Sys2Proof.Machine

/-! ### Checkpoints (R420) -/

/-- The next multiple of 64. -/
def up64 (n : Nat) : Nat := (n + 63) / 64 * 64

/-- The state that a checkpoint of a task holds: the task as stopped after this group, with sD 1. -/
def Task.ckptState (t : Task) (d : Reg) : Task :=
  let t1 := t.reachStop
  { t1 with
    a := { (if d = 0 then t1.a else t1.a.setReg d.toNat 1) with pc := t.as.nextpc.getD (t.a.pc + 1) }
    as := { t1.as with issued := 0, group := 0, nextpc := none } }

/-- Where the sections of a one-task image start, and its length (15 R320). -/
structure ImgLay where
  stages : Nat
  consts : Nat
  walk : Nat
  tasks : Nat
  length : Nat
  deriving DecidableEq, Repr

/-- The sections of a task's image. -/
def Launch.imgLay (l : Launch) (t : Task) : ImgLay :=
  let a := 128
  let b := a + 64 * l.stages.length
  let c := b + 2048
  let d := up64 (c + 2 * l.walk.length)
  { stages := a, consts := b, walk := c, tasks := d, length := d + (t.lay []).length }

/-- A stage record's bytes (15 R321). -/
def Stage.bytes (st : Stage) : List Byte :=
  natBytes 8 st.aentry.toNat ++ natBytes 8 st.xentry.toNat ++ natBytes 8 st.cancel.toNat ++ natBytes 2 st.cap ++
    natBytes 2 st.minc ++ natBytes 2 st.maxc ++ natBytes 1 st.mregs ++ natBytes 1 0 ++ natBytes 2 st.sprows ++
    natBytes 1 st.actiles ++ natBytes 29 0

/-- An entry of the section table. -/
def sectBytes (kind len off : Nat) : List Byte := natBytes 4 kind ++ natBytes 4 len ++ natBytes 8 off

/-- The image of one task. -/
def ckptImage (s : State) (l : Launch) (t : Task) : List Byte :=
  let y := l.imgLay t
  let n := (t.lay []).length
  natBytes 4 0x4951444F ++ natBytes 2 1 ++ natBytes 1 l.stages.length ++ natBytes 1 0 ++ natBytes 4 1 ++ natBytes 4 4 ++
    natBytes 48 0 ++ sectBytes 1 (64 * l.stages.length) y.stages ++ sectBytes 4 2048 y.consts ++
    sectBytes 3 (2 * l.walk.length) y.walk ++ sectBytes 5 n y.tasks ++ l.stages.flatMap Stage.bytes ++
    (List.range 1024).flatMap (fun k => natBytes 2 (tget 0 l.consts k).toNat) ++
    l.walk.flatMap (fun v => natBytes 2 v.toNat) ++ natBytes (y.tasks - (y.walk + 2 * l.walk.length)) 0 ++
    (List.range n).map fun o => BitVec.ofNat 8 (stateByte s t t.who.stage [] o)

/-- Bytes stored weakly by a strand, each under 09 R235 in ascending order. -/
def State.storeBytes (s : State) (core ctx : Nat) : List (Nat × BitVec 32 × BitVec 256) → Wr
  | [] => .ok s
  | (va, m, d) :: r =>
    match s.xlate ctx va .wr true with
    | .bad c k => .bad c k va
    | .ok pa e =>
      match s.bindFor ctx pa e with
      | .beyond k => .bad 4 k va
      | .hole => .bad 3 4 va
      | .done s1 => (s1.storeL1 core ctx (pa / 32) m d).storeBytes core ctx r

/-- The devices that a range of stores has written (09 R242). -/
def State.wroteAll (s : State) (t : Task) (va n : Nat) : Task :=
  (sectorsOf va n).foldl (fun t a =>
    match s.xlate t.who.ctx a .wr true with
    | .ok pa _ => t.wrote (chipOf pa) s.pod.chip.toNat
    | .bad _ _ => t) t

/-- The launch of a task. -/
def State.launchOf (s : State) (t : Task) : Launch :=
  (tfind s.fe.launches t.who.launch).getD
    { ctx := t.who.ctx, queue := 0, mask := 0, ceil := 0, lat := false, phase := 0, stages := [], consts := [], walk := [],
      gang := false, cluster := none, granted := true, cores := [], ran := [], recs := [], wait := [], rels := [], cond := [],
      mem := Member.none, tree := [] }

/-- A copy or walk program of a task has not completed. -/
def State.copying (s : State) (t : Task) : Bool := s.jobs.any fun e => e.2.id == t.who.id

/-- CKPT (R420): the words of its group that stand beside it issue first. -/
def execCkpt (d a b : Reg) (s : State) : Out :=
  strongSem s fun t =>
    let va := (t.rd .a a).toNat
    let t1 := t.ckptState d
    let l := s.launchOf t
    if s.copying t || !t.settled then s.wait 1
    else if va % 64 ≠ 0 then trapHere s 3 3
    else if (t.rd .a b).toNat < (l.imgLay t1).length then finishA s (t.result .a d 5 2)
    else
      let bytes := ckptImage s l t1
      match s.storeBytes s.cur.core t.who.ctx (cutBytes bytes.length va bytes) with
      | .bad code sub x => if code = 4 then takeBack s t sub x 1 else trapHere s code sub
      | .ok s1 => finishA s1 ((s1.wroteAll t va bytes.length).result .a d 5 0)

/-- CKPT_SIZE (R420). -/
def execCkptSize (d : Reg) (s : State) : Out :=
  strongSem s fun t => finishA s (t.result .a d 5 (BitVec.ofNat 64 ((s.launchOf t).imgLay (t.ckptState d)).length))

/-! ### Targets of debugging (R421-R424) -/

/-- The task that a debug operation names: in a bank, or saved. -/
inductive Target where
  | bank (key : Nat) (t : Task)
  | saved (k : Nat) (v : Saved)
  deriving DecidableEq, Repr

/-- The task with an id, in a context if one is given. -/
def State.target (s : State) (ctx : Option Nat) (id : BitVec 32) : Option Target :=
  let hit (t : Task) : Bool := t.who.id == id && id != 0 && (match ctx with | some c => t.who.ctx == c | none => true)
  match s.tasks.find? fun e => hit e.2 with
  | some e => some (.bank e.1 e.2)
  | none => (s.fe.saved.find? fun e => hit e.2.task).map fun e => .saved e.1 e.2

/-- The shadow entries of a halted state, with OLD and NEW as the stop left them (R424). -/
def Saved.entries (v : Saved) : List Shadow :=
  v.task.allShadows.zipIdx.map fun e => match v.olds[e.2]? with | some (a, b) => { e.1 with old := a, new := b } | none => e.1

/-- A byte of a halted state as a debugger reads it: OLD stays as it was at the stop, and a cleared entry has VALID 0 (R424). -/
def State.dbgByte (s : State) (v : Saved) (o : Nat) : Nat :=
  let l := v.task.lay v.copies
  if l.shadow ≤ o && decide (o < l.engine) then shadowByte v.entries (o - l.shadow)
  else if 0x1880 ≤ o && decide (o < 0x2880) && o % 32 == 0 && v.cleared.contains ((o - 0x1880) / 32) then 0
  else stateByte s v.task v.stage v.copies o

/-- Eight bytes of a halted state as a debugger reads them. -/
def State.dbgWord (s : State) (v : Saved) (o : Nat) : Word :=
  let w : Word := BitVec.ofNat 64 ((List.range 8).foldr (fun k a => s.dbgByte v (o + k) + 256 * a) 0)
  if o = 0 then w ||| (4#64 <<< 48) else if o = 0x260 then w ||| v.low.setWidth 64 else w

/-- An offset of a halted state that can be read and written (R423). -/
def Saved.inState (v : Saved) (o : Nat) : Bool := decide (o % 8 = 0) && decide (o < (v.task.lay v.copies).length)

/-- A shadow entry removed, by its number among the entries of the state (R424). -/
def Task.dropShadow (t : Task) (n : Nat) : Task :=
  match t.allShadows[n]? with
  | none => t
  | some e =>
    let sub := n - (t.allShadows.findIdx fun x => x.at_ == e.at_)
    let cut (k : FKind) : Option FKind :=
      match k with
      | .mld sl d p r m made rows => some (.mld sl d p r m made (rows.eraseIdx sub))
      | .mst p m todo made rows => some (.mst p m todo made (rows.eraseIdx sub))
      | .cells sl rows => if (t.shadows e.at_ { pc := 0, age := 0, lat := 0, kind := k, word := 0 }).length ≤ 1 then none
                          else some (.cells sl (rows.eraseIdx sub))
      | _ => none
    t.onX fun x =>
      { x with flights := x.flights.zipIdx.filterMap fun f =>
          if f.2 = e.at_ then (cut f.1.kind).map fun k => { f.1 with kind := k } else some f.1 }

/-- A number's byte `p` replaced. -/
def putByteAt (n p : Nat) (v : Byte) : Nat := n - n / 256 ^ p % 256 * 256 ^ p + v.toNat * 256 ^ p

/-- A debugger's write to a strand's own places (R419). -/
def Strand.dbgWrite (st : Strand) (o loopAt : Nat) (v : Word) : Strand :=
  if o = 0 then { st with pc := v }
  else if o < 0x208 then st.setReg ((o - 8) / 8) v
  else if o = 0x208 then { st with preds := v.setWidth 8 &&& 0xFE }
  else if o = loopAt then { st with loopc := v.setWidth 32 }
  else st

/-- A debugger's write in the fixed area. -/
def Task.dbgFixed (t : Task) (o : Nat) (v : Word) : Task :=
  if o < 0x40 then t
  else if o = 0x260 then { t with cancelpc := (v.extractLsb' 3 54).setWidth 64 }
  else if o < 0x440 then { t with a := t.a.dbgWrite (o - 0x40) 0x210 v }
  else if o = 0x698 then t.onX fun x => { x with rndm := v.setWidth 3 }
  else if o = 0x6A0 then { t with qskip := { exp := v.setWidth 8, en := v.getLsbD 8 } }
  else if 0x650 < o && decide (o < 0x690) then t.onX fun x => { x with masks := tset 0 x.masks ((o - 0x650) / 8) v }
  else if 0x6C0 ≤ o && decide (o < 0x7C0) then
    t.onX fun x =>
      let k := (o - 0x6C0) / 4
      { x with gens := tset 0 (tset 0 x.gens k (v.extractLsb' 0 32)) (k + 1) (v.extractLsb' 32 32) }
  else if o < 0x840 then { t with x := t.x.dbgWrite (o - 0x440) 0x250 v }
  else t

/-- A debugger's write of a byte in the slot cells, at an offset from the slot map. -/
def Task.dbgCell (t : Task) (o : Nat) (v : Byte) : Task :=
  if o < t.who.n then t
  else
    let p := (o - t.who.n) % 8192
    match t.savedSlots[(o - t.who.n) / 8192]? with
    | none => t
    | some k =>
      let r := BitVec.ofNat 1024 (putByteAt (t.mrow k (p / 128)).toNat (p % 128) v)
      t.onX fun x => { x with mrows := tset 0 x.mrows (k * 64 + p / 128) r }

/-- A debugger's write of a byte in the tiles. -/
def Task.dbgTile (t : Task) (o : Nat) (v : Byte) : Task :=
  let k := o / 33792
  let p := o % 33792
  let put (d : BitVec 32) (m : Tab (BitVec 32)) (i b : Nat) : Tab (BitVec 32) :=
    tset d m i (BitVec.ofNat 32 (putByteAt (tget d m i).toNat b v))
  if p < 32768 then
    let i := k * 128 + p / 256
    { t with acc := tset 0 t.acc i (BitVec.ofNat 2048 (putByteAt (tget 0 t.acc i).toNat (p % 256) v)) }
  else if p < 33280 then { t with rowmax := put 0xFF800000 t.rowmax (k * 128 + (p - 32768) / 4) (p % 4) }
  else { t with rowsum := put 0 t.rowsum (k * 128 + (p - 33280) / 4) (p % 4) }

/-- A debugger's write of a byte in the scratchpad rows. -/
def Task.dbgRow (t : Task) (o : Nat) (v : Byte) : Task :=
  let r := t.row (o / 128)
  let r1 := { r with data := BitVec.ofNat 1024 (putByteAt r.data.toNat (o % 128) v) }
  { t with rows := tset SRow.zero t.rows (o / 128) r1 }

/-- A debugger's write of a byte behind the fixed area, where R419 marks W. -/
def Task.dbgPart (t : Task) (l : Lay) (o : Nat) (v : Byte) : Task :=
  if o < l.tiles then t.dbgCell (o - l.slots) v
  else if o < l.rows then t.dbgTile (o - l.tiles) v
  else if o < l.tags then t.dbgRow (o - l.rows) v
  else t

/-- A debugger's write where R419 marks W; elsewhere nothing. A 0 in a header's VALID clears the entry (R424). -/
def Saved.dbgWrite (v : Saved) (o : Nat) (x : Word) : Saved :=
  let l := v.task.lay v.copies
  if 0x1880 ≤ o && decide (o < 0x2880) then
    let k := (o - 0x1880) / 32
    if (o - 0x1880) % 32 = 0 && !x.getLsbD 0 && decide (k < v.task.allShadows.length) then { v with cleared := k :: v.cleared } else v
  else if o < l.slots then { v with task := v.task.dbgFixed o x, low := if o = 0x260 then x.setWidth 3 else v.low }
  else
    { v with task := (List.range 8).foldl (fun t k => t.dbgPart l (o + k) (x.extractLsb' (8 * k) 8)) v.task }

/-- The cleared entries never perform (R424). -/
def Saved.swept (v : Saved) : Task :=
  ((List.range 128).reverse.filter v.cleared.contains).foldl Task.dropShadow v.task

/-- The checks of `srset` for RNDM, QSKIP and CANCELPC, and of 03 R64 for RRB (R423). -/
def Saved.goes (v : Saved) : Bool :=
  let t := v.task
  let b := t.xs.base.toNat
  let st := t.xs.step.toNat
  let e := t.qskip.exp.toInt
  decide (t.xs.rndm.toNat < 6) && (!t.qskip.en || (decide (-126 ≤ e) && decide (e ≤ 0))) && v.low == 0 &&
    (if t.ring = 0 then b == 0 else decide (b < t.ring)) && st != 0 && decide (st ≤ max t.ring 1)

/-- A halted state re-enters its queue when it passes, else BADSTATE is set. -/
def Saved.resume (v : Saved) : Saved :=
  if v.goes then { v with task := v.swept, halt := none, bad := false, olds := [], cleared := [] } else { v with bad := true }

/-- The state with a saved task replaced. -/
def State.putSaved (s : State) (k : Nat) (v : Saved) : State := { s with fe := { s.fe with saved := tins s.fe.saved k v } }

/-! ### The operations (R423) -/

/-- `dbg.st`. -/
def State.dbgStatus (s : State) (g : Option Target) : Word :=
  match g with
  | none => 0
  | some (.bank _ t) =>
    let js := (s.jobs.filter fun e => e.2.id == t.who.id).map (·.2)
    BitVec.ofNat 64 (1 + 2 ^ 32 * (t.lay js).length)
  | some (.saved _ v) =>
    BitVec.ofNat 64 (1 + 2 * bit v.halt.isSome + 4 * bit v.bad + 2 ^ 8 * v.halt.getD 0 + 2 ^ 32 * (v.task.lay v.copies).length)

/-- `dbg.rd`. -/
def State.dbgRead (s : State) (g : Option Target) (o : Nat) : Word :=
  match g with
  | some (.saved _ v) => if v.halt.isSome && v.inState o then s.dbgWord v o else 0
  | _ => 0

/-- `dbg.wr`. -/
def State.dbgStore (s : State) (g : Option Target) (o : Nat) (x : Word) : State :=
  match g with
  | some (.saved k v) => if v.halt.isSome && v.inState o then s.putSaved k (v.dbgWrite o x) else s
  | _ => s

/-- `dbg.halt`: a running task is asked to stop, one already saved is held where it is; one that is halted, or stops for a halt, is
unchanged. -/
def State.dbgStop (s : State) (g : Option Target) : State :=
  match g with
  | none => s
  | some (.bank key t) =>
    let halted : Bool := match t.stop, t.susp with | some (.debug _), _ => true | _, some (.debug _) => true | _, _ => false
    if halted then s else { s with tasks := tins s.tasks key { t with stop := some (.debug 0) } }
  | some (.saved k v) => if v.halt.isSome then s else s.putSaved k { v with halt := some 0, olds := v.task.shadowPairs, cleared := [] }

/-- `dbg.go`. -/
def State.dbgResume (s : State) (g : Option Target) : State :=
  match g with
  | some (.saved k v) => if v.halt.isSome then s.putSaved k v.resume else s
  | _ => s

/-- A `dbg` of a strand: its context must have debugging enabled. -/
def dbgOp (s : State) (a : Reg) (f : Task → Option Target → State) : Out :=
  strongSem s fun t =>
    if !(s.ctx t.who.ctx).debug then trapHere s 6 0
    else f t (s.target (some t.who.ctx) ((t.rd .a a).setWidth 32))

/-- The offset that sB names. -/
def dbgOff (t : Task) (b : Reg) : Nat := (t.rd .a b).toNat % 2 ^ 32

/-- The acting task's word ends in a changed state. -/
def finishHere (s : State) : State := match s.here with | none => s | some t => finishA s t

/-- DBG_ST (R423). -/
def execDbgSt (d a : Reg) (s : State) : Out := dbgOp s a fun t g => finishA s (t.result .a d 5 (s.dbgStatus g))

/-- DBG_RD (R423). -/
def execDbgRd (d a b : Reg) (s : State) : Out :=
  dbgOp s a fun t g => finishA s (t.result .a d 5 (s.dbgRead g (dbgOff t b)))

/-- DBG_WR (R423). -/
def execDbgWr (d a b : Reg) (s : State) : Out :=
  dbgOp s a fun t g => finishHere (s.dbgStore g (dbgOff t b) (t.rd .a d))

/-- DBG_HALT (R423). -/
def execDbgHalt (a : Reg) (s : State) : Out := dbgOp s a fun _ g => finishHere (s.dbgStop g)

/-- DBG_GO (R423). -/
def execDbgGo (a : Reg) (s : State) : Out := dbgOp s a fun _ g => finishHere (s.dbgResume g)

/-- Debugging ends in a context (R421): tasks held by a halt resume as by `dbg.go`, and halts not yet taken are dropped. -/
def State.debugOff (s : State) (ctx : Nat) : State :=
  let unask (t : Task) : Task :=
    let t1 := match t.stop with | some (.debug _) => { t with stop := none } | _ => t
    match t.susp with | some (.debug _) => { t1 with susp := some .halted } | _ => t1
  { s with
    tasks := tmap s.tasks fun _ t => if t.who.ctx = ctx then unask t else t
    fe := { s.fe with saved := tmap s.fe.saved fun _ v =>
      if v.task.who.ctx = ctx && v.halt.isSome then v.resume else v } }

/-- DEBUG (R421). -/
def execDebug (c : Cmd) (s : State) : Out :=
  command s (cmdHeadBad c || cmdTailBad c || decide (1 < c.a.toNat) || c.b != 0)
    (let n := s.curCtx
     let s1 := s.putCtx n { (s.ctx n) with debug := c.a == 1 }
     (if c.a == 1 then s1 else s1.debugOff n).ended 0)

/-- A mailbox reply (23 R461): TYPE, SRC, STATUS and payload, with the request's SEQ. -/
def State.reply (s : State) (ty src : BitVec 8) (status : BitVec 32) (p1 : Word) : State :=
  s.post s.fen.serving ty { Msg.zero with src := src, seq := s.fen.msg.seq, status := status, p1 := p1 }

/-- DBGREQ (R421; 23 R461): F7 serves a debug operation of a virtual function's context, or of any context for the physical
function, under the rules of `dbg`; in a context without debugging it does nothing and reads 0. -/
def execDbgreq (s : State) : Out :=
  let m := s.fen.msg
  let fn := s.fen.serving
  let o := (m.p2.extractLsb' 0 32).toNat
  let g := s.target (if fn = 0 then none else some (ctxOf fn)) (m.p1.extractLsb' 32 32)
  let ctx := match g with | some (.bank _ t) => t.who.ctx | some (.saved _ v) => v.task.who.ctx | none => ctxOf fn
  let (v, s1) : Word × State :=
    if !(s.ctx ctx).debug then (0, s)
    else
      match (m.p1.extractLsb' 0 8).toNat with
      | 0 => (s.dbgStatus g, s)
      | 1 => (s.dbgRead g o, s)
      | 2 => (0, s.dbgStore g o m.p3)
      | 3 => (0, s.dbgStop g)
      | 4 => (0, s.dbgResume g)
      | _ => (0, s)
  .next (s1.reply 0x21 7 0 v)

end Sys2Proof.Machine
end

