-- ==== Sys2Proof/Machine/Terminate.lean ====
section
/-! DEFINITION. Ending a context (23 R452, R453, R467): termination, resets of contexts, the wipe. -/

namespace Sys2Proof.Machine

/-! ### Step 1: queues, streams, groups, sampler (R452) -/

/-- A queue of an ended context: what it runs completes with FAULT, as soon as its area can be written, and it enters ERROR (15 R318,
R319). -/
def State.endQueue (s : State) (q : Nat) (x : CQueue) : State :=
  let fault (r : Running) : Running := { r with status := some 0x10, launch := none }
  let x1 : CQueue :=
    match x.run, x.outer with
    | some r, o => { x with run := some (fault r), outer := o }
    | none, some o => { x with run := some (fault o), outer := none, replay := none }
    | none, none => { x with replay := none }
  let s0 : State := { s with decoders := tdel s.decoders q, opens := tdel s.opens q }
  ((s0.failQueue q 3 x1).complete q).complete q

/-- The queues of a context, but one, end. -/
def State.endQueues (s : State) (ctx : Nat) (but : Option Nat) : State :=
  (s.fe.queues.filter fun e => e.2.ctx == ctx && but != some e.1).foldl (fun s e => s.endQueue e.1 e.2) s

/-- What a block writes for a context that ends: none while a condition of BACK holds the write (16 R342); where the context may not
write, nothing is written. -/
def State.lastWrite (s : State) (ctx va : Nat) (l : List Byte) : Option State :=
  match s.writeRange ctx va l with
  | .ok s1 => some s1
  | .bad code _ _ => if code = 4 then none else some s

/-- The record of a frame of a stream that closes: SKIPPED, with START 0, for a started frame; a complete one, whose own record had not
been written, has that record (17 R369). -/
def Stream.endRecord (st : Stream) (k : Nat) (f : Frame) (u : Nat) : List Byte :=
  match f.out with
  | some o =>
    if f.done then let (_, trunc, len) := st.coded k f o; st.recordOf f len trunc o.tick
    else frameRecord f.n 0 1 f.rung f.steps (if f.interp then 1 else 0) 0 u ((st.desc.due f.n : Int) - u)
  | none => frameRecord f.n 0 1 f.rung f.steps (if f.interp then 1 else 0) 0 u ((st.desc.due f.n : Int) - u)

/-- The record of a frame of a stream that closes is written (17 R369). -/
def State.skipRecord (s : State) (k : Nat) (st : Stream) (f : Frame) : Option State :=
  let meta_ := st.desc.ring + 64 + 64 * (f.n % st.desc.rslots)
  ((s.lastWrite st.ctx (meta_ + 8) (st.endRecord k f s.dt.toNat)).bind fun s1 => s1.lastWrite st.ctx meta_ (natBytes 8 (f.n + 1))).map fun s2 =>
    if st.desc.scope = 2 then s2 else s2.flushPeers

/-- An open stream closes with its started frames SKIPPED (R452); one whose record is held stays until it is written. -/
def State.endStream (s : State) (k : Nat) (st : Stream) : List Frame → State
  | [] => ({ s with streams := tdel s.streams k } : State).onQueue st.desc.queue fun x => { x with stream := none }
  | f :: r =>
    match s.skipRecord k st f with
    | none => { s with streams := tins s.streams k { st with frames := f :: r, closing := true } }
    | some s1 => s1.endStream k st r

/-- An open group closes with its running siblings cancelled (18 R405); one whose record is held stays until it is written. -/
def State.endGroup (s : State) (key : Nat) (g : Group) : State :=
  let sibs := g.sibs.map fun (b : Sib) => if b.st == .running then { b with st := .cancelled, sub := 2, test := false } else b
  let g1 : Group := { g with closed := some (g.closed.getD s.dt.toNat), sibs := sibs }
  match (s.lastWrite g.ctx (g.record.toNat + 8) g1.bytes).bind fun s1 => s1.lastWrite g.ctx g.record.toNat (natBytes 8 g.seq.toNat) with
  | none => { s with groups := tins s.groups key g1 }
  | some s1 => { s1 with groups := tdel s1.groups key }

/-- The streams, groups and sampler requests of a context end. -/
def State.endCentral (s : State) (ctx : Nat) : State :=
  let s1 := (s.streams.filter fun e => e.2.ctx == ctx).foldl (fun s e => s.endStream e.1 e.2 e.2.frames) s
  let s2 := (s1.groups.filter fun e => e.2.ctx == ctx).foldl (fun s e => s.endGroup e.1 e.2) s1
  let s3 : State :=
    { s2 with posts := s2.posts.filter fun p =>
        match s2.task p.core p.bank with | some t => t.who.ctx != ctx || t.who.id != p.id | none => false }
  (List.range 8).foldl (fun s e => s.putEngine e ((s.engine e).filter fun r => r.ctx != ctx)) s3

/-- Something of a context waits for a write that is held: a completion, a frame's record or a group's (15 R318; 16 R342). -/
def State.endHeld (s : State) (ctx : Nat) : Bool :=
  s.fe.queues.any (fun e => e.2.ctx == ctx && (e.2.run.isSome || e.2.outer.isSome)) || s.streams.any (fun e => e.2.ctx == ctx) ||
    s.groups.any fun e => e.2.ctx == ctx

/-! ### Step 2: tasks, copies and walk programs -/

/-- The tasks, saved tasks, launches, copies and walk programs of a context end. -/
def State.endTasks (s : State) (ctx : Nat) : State :=
  let s1 := (s.jobs.filter fun e => e.2.ctx == ctx).foldl (fun s e => s.dropJob e.1) s
  let cores := (s1.tasks.filter fun e => e.2.who.ctx == ctx).map fun e => e.1 / 2
  let s2 : State :=
    { s1 with
      tasks := s1.tasks.filter fun e => e.2.who.ctx != ctx
      retired := s1.retired.filter fun e => e.2.who.ctx != ctx
      fe := { s1.fe with
        saved := s1.fe.saved.filter fun e => e.2.task.who.ctx != ctx
        launches := s1.fe.launches.filter fun e => e.2.ctx != ctx } }
  cores.foldl (fun s n =>
    let s1 := s.setSpill n (s.spillWays n)
    s1.putCore n { (s1.core n) with switching := true }) s2

/-! ### Steps 3 and 4: lines -/

/-- Every L1 drops the lines of the context without a write. -/
def State.endL1 (s : State) (ctx : Nat) : State :=
  { s with cores := tmap s.cores fun _ c => { c with l1 := c.l1.filter fun e => e.2.owner != ctx } }

/-- The lines of a context's unbacked pages dropped without a write, and its frames freed (16 R355). -/
def State.endPages (s : State) (ctx : Nat) : State :=
  let c := s.ctx ctx
  let pas := c.pages.filterMap fun e =>
    match e.2 with
    | .resident f => some (residencyPa s.pod.chip.toNat f)
    | .late p => some p
    | .untouched => none
  let s1 : State := { s with slow := s.slow.filter fun w => w.owner != ctx }
  (pas.foldl State.dropFrame s1).putCtx ctx { c with pages := [], pool := [], late := 0 }

/-- Every L2 slice writes the context's dirty backed lines to their frames; POISON reaches the frame as poison (R449). -/
def State.endL2 (s : State) (ctx : Nat) : State :=
  (s.l2.filter fun e => (tfind s.lines (e.1 / 8)).map (·.owner) == some ctx && !isResidencyOff (offOf (e.1 * 32))).foldl (fun s e =>
    let s1 := s.toFrame e.1 e.2
    { s1 with l2 := tdel s1.l2 e.1 }) s

/-! ### Step 5: slots, matchers and tables -/

/-- The slots of a context freed, with the waits of other devices on them, and operations for it still on their way dropped. -/
def State.endSlots (s : State) (ctx : Nat) : State :=
  { s with
    cores := tmap s.cores fun _ c =>
      { c with
        inbox := c.inbox.filter fun m => m.ctx != ctx
        monitors := c.monitors.filter fun m => (tget Sem.zero c.sems m.slot).owner != ctx
        sems := c.sems.filter fun e => e.2.owner != ctx }
    pod := { s.pod with sems := s.pod.sems.filter fun m => m.ctx != ctx } }

/-- The matcher slots and control-store partitions of a context freed (16 R337; 10 R268). -/
def State.endMatch (s : State) (ctx : Nat) : State :=
  { s with clusters := tmap s.clusters fun _ c =>
      { c with
        ctxs := c.ctxs.map fun k => if k = ctx then 16 else k
        loaded := c.loaded.filter fun e => e.1 != ctx
        parked := tdel c.parked ctx
        hints := c.hints.filter fun h => h.1 != ctx } }

/-- Steps 1 to 3: what the hardware itself performs (R463). -/
def State.endFirst (s : State) (ctx : Nat) (but : Option Nat) : State :=
  let s1 := (List.range 64).foldl State.drainEgress s
  let s2 := (((s1.endQueues ctx but).endCentral ctx).endTasks ctx).endL1 ctx
  s2.putCtx ctx { (s2.ctx ctx) with begun := true }

/-- Steps 4 and 5: what F3 and F2 perform; the reservation counts as 0 from then on (R470). -/
def State.endRest (s : State) (ctx : Nat) : State :=
  let s1 := (((s.endPages ctx).endL2 ctx).endSlots ctx).endMatch ctx
  let s2 : State := { s1 with pod := { s1.pod with moving := s1.pod.moving.filter fun e => e.1 != ctx } }
  s2.putCtx ctx { (s2.ctx ctx) with table := [], faults := [], term := none, begun := false, resv := 0, ended := true }

/-- The record that stands for the termination: record number `n` of those written. -/
def State.recordAt (s : State) (n : Nat) : Option FaultRec := s.fen.faults[s.fen.nfaults - n]?

/-- ACTION bits of record number `n` of those written (R469). -/
def State.markRec (s : State) (n : Nat) (bits : BitVec 8) : State :=
  { s with fen := { s.fen with faults := s.fen.faults.modify (s.fen.nfaults - n) fun r => { r with action := r.action ||| bits } } }

/-- CONTEXT_TERMINATION (R452): the steps in their order, 1 to 3 once; steps 4 to 6 wait for writes of step 1 that are held (15 R318; 16
R342; DEDUCED, log 115), and with F3 hung for its restart (R463). Once the context's strands have stopped F3 sets ACTION[0] of the record
that stands for it (R469). -/
def execContextTermination (ctx : Nat) (s : State) : Out :=
  match (s.ctx ctx).term with
  | none => .next s
  | some n =>
    let s1 := if (s.ctx ctx).begun then s.endCentral ctx else s.endFirst ctx none
    let s2 := if s.fen.alive.getLsbD 3 then s1.markRec n 1 else s1
    if s2.endHeld ctx || !s.fen.alive.getLsbD 3 then .next s2
    else
      let s3 := s2.endRest ctx
      .next (match s3.recordAt n with | some r => s3.postFault r | none => s3)

/-! ### Resets of a context (R467) -/

/-- Bytes of a device's memory and L2 that `p` selects, in whole frames, set to zero, and their poison gone. -/
def State.wipe (s : State) (p : Nat → Bool) : State :=
  { s with
    mem := s.mem.filter fun e => !p e.1
    l2 := s.l2.filter fun e => !p (e.1 * 32)
    lines := s.lines.filter fun e => !p (e.1 * 256)
    poison := s.poison.filter fun k => !p (k * 32) }

/-- A byte of this device that a context's table gives it: in a BACKED extent or in this device's part of a STRIPE extent. -/
def State.mapped (s : State) (c : Ctx) (pa : Nat) : Bool :=
  let own := s.pod.chip.toNat
  c.table.any fun e =>
    match e.2.kind with
    | .backed => decide (e.2.target ≤ pa) && decide (pa < e.2.target + 2 ^ e.2.log2)
    | .stripe =>
      let l := tget [] s.pod.stripes e.2.set
      let lo := own * 2 ^ 51 + e.2.target
      (List.range l.length).any fun i => l[i]? == some own && decide (lo ≤ pa) && decide (pa < lo + e.2.span l.length i)
    | _ => false

/-- A byte of this device's memory that a context holds alone: in a frame that its table, late pages or pool give it and that no other
context's table gives another. -/
def State.holdsAlone (s : State) (ctx pa : Nat) : Bool :=
  let c := s.ctx ctx
  let frame := pa / 65536 * 65536
  let late := c.pages.any fun e => match e.2 with | .late p => p == frame | _ => false
  chipOf pa == s.pod.chip.toNat && !isHostOff (offOf pa) &&
    (late || c.pool.contains frame || (s.mapped c pa && !s.ctxs.any fun o => o.1 != ctx && s.mapped o.2 pa))

/-- A context is reset: it ends as by termination, without a record, and what it held alone is wiped. -/
def State.resetCtx (s : State) (ctx : Nat) (but : Option Nat) : State :=
  let s0 := s.endFirst ctx but
  let s1 :=
    ({ s0 with
      streams := s0.streams.filter fun e => e.2.ctx != ctx
      groups := s0.groups.filter fun e => e.2.ctx != ctx
      fe := { s0.fe with queues := tmap s0.fe.queues fun _ x => if x.ctx = ctx then { x with stream := none } else x } } : State).endRest ctx
  (s1.wipe (s.holdsAlone ctx)).putCtx ctx Ctx.zero

/-- CTXRESET (R467): its own queue goes on. -/
def execCtxreset (c : Cmd) (s : State) : Out :=
  let n := c.a.toNat
  command s (!s.curPf || cmdHeadBad c || cmdTailBad c || c.b != 0 || n = 0 || decide (15 < n))
    ((s.resetCtx n (some s.fe.curq)).ended 0)

/-- A function's mailbox and MSI-X entries take their reset values (R460, R462). -/
def State.resetFn (s : State) (fn : Nat) : State :=
  let s1 := s.putBox fn Mbox.zero
  { s1 with fen := { s1.fen with table := s1.fen.table.filter fun e => e.1 / 2 != fn } }

/-- CONTEXT_RESET (R467, R460): a function-level reset of a virtual function resets its mailbox and its context; context 0 is Fennel's, and
only its function is reset. -/
def execContextReset (ctx : Nat) (s : State) : Out :=
  if 15 < ctx then .next s else .next ((if ctx = 0 then s else s.resetCtx ctx none).resetFn (vfOf ctx))

end Sys2Proof.Machine
end

