-- ==== Sys2Proof/Machine/Errors.lean ====
section
/-! DEFINITION. Machine errors (23 R445-R451, R453), scrubbing (R447), retirement (R455, R456) and quarantine (R457, R458). -/

namespace Sys2Proof.Machine

/-! ### Records, quarantine requests and counts -/

/-- The newest record that `p` selects gets some ACTION bits (R469). -/
def markFirst (p : FaultRec → Bool) (bits : BitVec 8) : List FaultRec → List FaultRec
  | [] => []
  | r :: rest => if p r then { r with action := r.action ||| bits } :: rest else r :: markFirst p bits rest

/-- ACTION bits of the newest record of a way. -/
def State.markWay (s : State) (q : Nat × Nat) (bits : BitVec 8) : State :=
  let hit (r : FaultRec) : Bool := r.kind == 2 && r.struct_ == 2 && r.slice == q.1 && r.way == q.2
  { s with fen := { s.fen with faults := markFirst hit bits s.fen.faults } }

/-- A record of F3 that stands for no termination. -/
def State.record (s : State) (r : FaultRec) : State := (s.addFault r).postFault r

/-- The ways of a slice that are quarantined or whose quarantine is to start. -/
def State.waysGone (s : State) (slice : Nat) : List Nat :=
  let l := (s.nv.quarantined.filter fun q => q.1 == slice).map (·.2)
  let w := (s.fen.later.filter fun e => e.2.1 == slice && decide (e.2.2 < 16)).map (·.2.2)
  l ++ (w.filter fun k => !l.contains k).eraseDups

/-- A quarantine is asked for (R457): at most four ways of a slice; a further one sets ACTION[5] and reports the module. -/
def State.askQuarantine (s : State) (slice way : Nat) : BitVec 8 × State :=
  let gone := s.waysGone slice
  if gone.contains way then (0, s)
  else if 4 ≤ gone.length then (0x20, { s with nv := { s.nv with dueReturn := true } })
  else (0, { s with fen := { s.fen with later := s.fen.later ++ [(none, slice, way)] } })

/-- A corrected error of a way is counted; the 64th within 2^42 ticks asks for its quarantine and writes a record (R454,
R457). -/
def State.correctedWay (s : State) (pa slice way : Nat) : State :=
  let k := slice * 16 + way
  let u := s.dt.toNat
  let ts := ((tget [] s.fen.corrected k).filter fun t => decide (u < t + 2 ^ 42)) ++ [u]
  let keep (s : State) (l : List Nat) : State := { s with fen := { s.fen with corrected := tset [] s.fen.corrected k l } }
  if ts.length < 64 || (s.waysGone slice).contains way || 4 ≤ (s.waysGone slice).length then keep s ts
  else
    let (act, s1) := (keep s []).askQuarantine slice way
    s1.record { errRecord s 1 pa 2 with slice := slice, way := way, action := act }

/-! ### Uncorrectable errors (R448, R453) -/

/-- The owner tag of a line that the L2 holds (R446); that of any other line is Fennel's. -/
def State.tagOf (s : State) (line : Nat) : Nat := match tfind s.lines line with | some l => l.owner | none => 0

/-- An error in an L1 sector: a clean one is dropped, to be fetched again; a dirty one becomes POISON and its owner ends. Its record names
the cluster and the set of the L1 (DEDUCED, log 117). -/
def State.l1Error (s : State) (core pa : Nat) : State :=
  let sec := pa / 32
  match s.l1 core sec with
  | none => s
  | some x =>
    let home := s.homeSec x.owner sec * 32
    let s1 := s.retireAt home
    let r (code : BitVec 8) : FaultRec := { errRecord s1 code home 1 with core := core, owner := x.owner, slice := clusterOf core, set := sec / 8 % 64 }
    if x.dirty = 0 && !x.poison then
      let c := s1.core core
      (s1.putCore core { c with l1 := tdel c.l1 sec }).record (r 2)
    else
      let s2 := s1.putL1 core sec { x with poison := true }
      if x.owner = 0 then s2.record (r 3) else s2.terminate x.owner (r 3)

/-- An error in an L2 sector: a clean one's line is dropped, to be fetched or zeroed again; a dirty one becomes POISON and its owner ends.
A sector of context 0 is repaired from its second copy (R453). -/
def State.l2Error (s : State) (pa slice way : Nat) : State :=
  let sec := pa / 32
  let x := tget L2Sector.zero s.l2 sec
  let (act, s1) := (s.retireAt pa).askQuarantine slice way
  let r (code : BitVec 8) (owner : Nat) : FaultRec :=
    let e := errRecord s1 code pa 2
    { e with slice := slice, way := way, owner := owner, action := e.action ||| act }
  let owner := s.tagOf (sec / 8)
  let clean := (s.l2.filter fun e => e.1 / 8 == sec / 8).all fun e => e.2.dirty == 0 && !e.2.poison
  if x.dirty = 0 && !x.poison then
    ({ s1 with lines := if clean then tdel s1.lines (sec / 8) else s1.lines } : State).record (r 2 owner)
  else if owner = 0 then s1.record (r 3 0)
  else ({ s1 with l2 := tins s1.l2 sec { x with poison := true } } : State).terminate owner (r 3 owner)

/-- The tenant contexts to which F2 has given the frame of a physical address. -/
def State.tenantsOf (s : State) (pa : Nat) : List Nat :=
  let frame := pa / 65536 * 65536
  let own := s.pod.chip.toNat
  let has (c : Ctx) : Bool :=
    s.mapped c pa || c.pool.contains frame ||
        c.pages.any fun e =>
          match e.2 with
          | .resident f => residencyPa own f == frame
          | .late p => p == frame
          | .untouched => false
  (s.ctxs.filter fun c => c.1 != 0 && has c.2).map (·.1)

/-- An unreadable owner tag (R453): every tenant that has the frame ends, and the line's dirty sectors become POISON. A line that no
tenant has is Fennel's, and is repaired. -/
def State.tagError (s : State) (pa slice way : Nat) : State :=
  let line := pa / 256
  let (act, s1) := (s.retireAt pa).askQuarantine slice way
  let e := errRecord s1 4 pa 2
  let r : FaultRec := { e with slice := slice, way := way, owner := 0x80, action := e.action ||| act }
  let s2 : State :=
    { s1 with l2 := tmap s1.l2 fun k (x : L2Sector) => if k / 8 = line && x.dirty != 0 then { x with poison := true } else x }
  match s.tenantsOf pa with
  | [] => s1.record r
  | cs => cs.foldl (fun s c => s.terminate c r) s2

/-- An unreadable owner tag in an L1 (R445, R453): every tenant to which F2 has given the line's frame ends. Its clean sectors are dropped, to
be fetched again, and its dirty ones become POISON; a line that no tenant has is Fennel's. -/
def State.l1TagError (s : State) (core pa : Nat) : State :=
  let sec := pa / 32
  match s.l1 core sec with
  | none => s
  | some x =>
    let home := s.homeSec x.owner sec * 32
    let s1 := s.retireAt home
    let e := errRecord s1 4 home 1
    let r : FaultRec := { e with core := core, owner := 0x80, slice := clusterOf core, set := sec / 8 % 64 }
    let c := s1.core core
    let inLine (k : Nat) : Bool := k / 8 == sec / 8
    let kept := c.l1.filter fun y => !(inLine y.1 && y.2.dirty == 0 && !y.2.poison)
    let s2 := s1.putCore core { c with l1 := tmap kept fun k (y : Sector) => if inLine k then { y with poison := true } else y }
    match s.tenantsOf home with
    | [] => s2.record r
    | cs => cs.foldl (fun s c => s.terminate c r) s2

/-- A strand whose bank holds the struck state takes a fatal trap, whose record names the structure and the register, tile or entry (R450,
R454). A struck shadow entry does not perform. -/
def State.struckTask (s : State) (core bank : Nat) (sd : Side) (code sub st elem : Nat) : State :=
  match s.task core bank with
  | none => s
  | some t =>
    let t1 := if code = 9 && sub = 7 then t.onX fun x => { x with flights := x.flights.eraseIdx elem } else t
    let pc := (t.st sd).pc
    (s.putTask core bank (t1.stopFatal sd code sub pc)).terminate t.who.ctx
      { trapRec s core bank sd code sub pc t.who.ctx t.who.id with struct_ := st, elem := elem }

/-- An error in an instruction cache or a control store: the line is fetched again, and its page is retired (R448, R456). -/
def State.icacheError (s : State) (core pa : Nat) : State :=
  let c := s.core core
  let s1 := (s.putCore core { c with icache := c.icache.filter fun e => e != pa / 256 }).retireAt pa
  s1.record { errRecord s1 2 pa 6 with core := core, slice := clusterOf core }

/-- An error in the staging buffer of a walk program (R445): the context that holds the program ends (R448; DEDUCED, log 135). -/
def State.stagingError (s : State) (cluster w : Nat) : State :=
  let r : FaultRec := { FaultRec.blank s.dt 2 3 0 with struct_ := 10, slice := cluster }
  let holds (e : Nat × Job) : Bool := e.2.cluster == cluster && e.2.w == w && e.2.walk.isSome && e.2.st == .running
  match s.jobs.find? holds with
  | none => s.record { r with code := 2 }
  | some e => s.terminate e.2.ctx r

/-- A Fennel core is declared hung or crashed (R463): dispatch freezes, HBSTAT changes, vector 0 is sent and a record is written. -/
def State.coreLost (s : State) (k : Nat) (r : FaultRec) : State :=
  let b : BitVec 8 := 1 <<< k
  let s1 : State := { s with fen := { s.fen with alive := s.fen.alive &&& ~~~b, hung := s.fen.hung ||| b, frozen := true } }
  ((s1.msi 0 0 1).addFault r).postFault r

/-- A machine error in the own state of a Fennel core (R463): a record of Fennel's memory, and the core is taken as crashed. -/
def State.fennelError (s : State) (k : Nat) : State :=
  if 8 ≤ k then s
  else
    let s1 := s.record { FaultRec.blank s.dt 2 2 0 with struct_ := 11 }
    if s.fen.alive.getLsbD k then s1.coreLost k (FaultRec.blank s.dt 3 2 (BitVec.ofNat 8 k)) else s1

/-- STRUCT of a SOFT subcode (R450, R454). -/
def softStruct (sub : Nat) : Nat := if sub = 3 then 5 else if sub = 4 then 4 else 6

/-- An uncorrectable error handled by its place (R448). -/
def State.uncorrectable (s : State) (p : ErrPlace) : State :=
  match p with
  | .l1 core pa => s.l1Error core pa
  | .l2 pa slice way => s.l2Error pa slice way
  | .tag pa slice way => s.tagError pa slice way
  | .l1tag core pa => s.l1TagError core pa
  | .spill core bank => s.struckTask core bank .x 5 6 6 0
  | .coreState core bank sd sub elem => s.struckTask core bank sd 9 sub.toNat (softStruct sub.toNat) elem
  | .scratch core bank row sec =>
    match s.task core bank with
    | none => s
    | some t => s.putTask core bank { t with rows := tins t.rows row { t.row row with ue := (t.row row).ue ||| (1 <<< (sec % 4)) } }
  | .icache core pa => s.icacheError core pa
  | .walkerStore cluster => s.record { FaultRec.blank s.dt 2 2 0 with struct_ := 10, slice := cluster }
  | .staging cluster w => s.stagingError cluster w
  | .fennel k => s.fennelError k
  | .dram pa =>
    let s1 : State := { s with poison := if s.poison.contains (pa / 32) then s.poison else pa / 32 :: s.poison }
    let s2 := s1.retireAt pa
    s2.record (errRecord s2 3 pa (memStruct pa))

/-- An error that a read finds in a place. A corrected one changes no value and is counted (R445, R454). -/
def State.meetError (s : State) (corrected : Bool) (p : ErrPlace) : State :=
  if !corrected then s.uncorrectable p
  else
    match p with
    | .l2 pa slice way => s.correctedWay pa slice way
    | .tag pa slice way => s.correctedWay pa slice way
    | .dram pa => { s with fen := { s.fen with sectors := tset 0 s.fen.sectors (pa / 32) (tget 0 s.fen.sectors (pa / 32) + 1) } }
    | _ => { s with fen := { s.fen with telemetry := s.fen.telemetry + 1 } }

/-- ERROR_HANDLING (R445, R448, R457): an error that a read finds in a place stands there no more unfound. A scratchpad error stands in its row
until the read that meets it takes DATA (08 R200). -/
def execErrorHandling (corrected : Bool) (p : ErrPlace) (s : State) : Out :=
  .next (({ s with latent := s.latent.filter fun e => e.2 != p } : State).meetError corrected p)

/-! ### Scrubbing (R447) -/

/-- A scrubber's read finds the errors that stand in the places that `p` selects. -/
def State.scrub (s : State) (p : ErrPlace → Bool) : State :=
  let s1 : State := { s with latent := s.latent.filter fun e => !p e.2 }
  (s.latent.filter fun e => p e.2).foldl (fun s e => s.meetError e.1 e.2) s1

/-- The set and way that the patrol scrubbers read: a line of the slice's 65536 in every 4096th tick, in ascending order (R447; when each
falls is the model's choice, log 136). -/
def State.patrolAt (s : State) : Nat × Nat :=
  let p := s.dt.toNat % 2 ^ 28 / 4096
  (p / 16, p % 16)

/-- A place in a line of a slice that the L2 holds in a way. -/
def State.inWay (s : State) (slice : Nat) (sw : Nat × Nat) (p : ErrPlace) : Bool :=
  let here (pa sl way : Nat) : Bool :=
    sl == slice && way == sw.2 && pa / 256 % 4096 == sw.1 && (match tfind s.lines (pa / 256) with | some l => l.way == way | none => false)
  match p with
  | .l2 pa sl way => here pa sl way
  | .tag pa sl way => here pa sl way
  | _ => false

/-- L2_PATROL_SCRUB (R447): the slice's scrubber reads the line of its turn; what it finds is handled as an access's error is. -/
def execL2PatrolScrub (slice : Nat) (s : State) : Out := .next (s.scrub (s.inWay slice s.patrolAt))

/-- The bytes of the memory controller of a physical address (01 R10, R17). -/
def State.controllerSize (s : State) (pa : Nat) : Nat :=
  let off := offOf pa
  if isGddrOff off then 2 ^ 33 else if isLpddrOff off then 2 ^ 37 else if isCxl0Off off then s.boot.cap0 else s.boot.cap1

/-- The offset of a physical address in the memory of its controller, its devices being taken one after another (log 136). -/
def controllerOff (pa : Nat) : Nat :=
  let off := offOf pa
  if isGddrOff off then off % 2 ^ 33 else if isLpddrOff off then off % 2 ^ 37 else if isCxl0Off off then off - 2 ^ 42 else off - 2 ^ 43

/-- A tick in which the sector's memory controller scrubs it: once in 2^34 ticks (R447; which one is the model's choice, log 136). -/
def State.scrubbed (s : State) (pa : Nat) : Bool :=
  let n := s.controllerSize pa
  n != 0 && controllerOff (pa / 32 * 32) * 2 ^ 34 / n == s.dt.toNat % 2 ^ 34

/-- MEMORY_SCRUB (R447): a memory controller reads a sector; what it finds is handled as an access's error is. -/
def execMemoryScrub (pa : Nat) (s : State) : Out :=
  .next (s.scrub fun p => match p with | .dram a => a / 32 == pa / 32 | _ => false)

/-- The slices whose scrubber finds an error in this tick. -/
def State.patrolsDue (s : State) : List Nat :=
  if s.latent.isEmpty || s.dt.toNat % 4096 ≠ 0 then [] else (List.range 64).filter fun k => s.latent.any fun e => s.inWay k s.patrolAt e.2

/-- The sectors of device memory in which a scrubber finds an error in this tick. -/
def State.scrubsDue (s : State) : List Nat :=
  s.latent.filterMap fun e => match e.2 with | .dram pa => if s.scrubbed pa then some pa else none | _ => none

/-! ### Quarantine (R458, R470, R491) -/

/-- The lines of a frame moved in the L2 to another frame with their values and owner tags; a backed line that finds no way goes to its
frame. -/
def State.moveLines (s : State) (a b : Nat) : State :=
  let mine := s.l2.filter fun e => decide (a / 32 ≤ e.1) && decide (e.1 < a / 32 + 2048)
  let tags := s.lines.filter fun e => decide (a / 256 ≤ e.1) && decide (e.1 < a / 256 + 256)
  let s1 := tags.foldl (fun s e => s.fillL2 e.2.owner (e.1 - a / 256 + b / 256)) ((s.dropFrame a).dropFrame b)
  mine.foldl (fun s e =>
    let sec := e.1 - a / 32 + b / 32
    if (tfind s.lines (sec / 8)).isSome then { s with l2 := tins s.l2 sec e.2 } else s.toFrame sec e.2) s1

/-- The lowest-addressed free frame of the quarantine reserve (R491). -/
def State.reserveFrame (s : State) : Option Nat :=
  let used (p : Nat) : Bool := s.ctxs.any fun c => c.2.pages.any fun e => e.2 == .late p
  if s.boot.phase ≠ 3 then none else s.boot.reserve.find? fun p => !used p && !s.nv.retired.contains p

/-- The pages that stand on frames of a way, as (context, page, frame). -/
def State.heldOn (s : State) (q : Nat × Nat) : List (Nat × Nat × Nat) :=
  s.ctxs.flatMap fun c => c.2.pages.filterMap fun e =>
    match e.2 with
    | .resident f => if s.onWay q f then some (c.1, e.1, f) else none
    | _ => none

/-- A page on a withdrawn frame moved, its lines keeping their values: to a residency frame, else to a frame of the reserve, else
not yet. -/
def State.movePage (s : State) (e : Nat × Nat × Nat) : State :=
  let (ctx, page, f) := e
  let src := residencyPa s.pod.chip.toNat f
  let c := s.ctx ctx
  match s.freeFrame with
  | some g =>
    let s1 := (s.moveLines src (residencyPa s.pod.chip.toNat g)).putCtx ctx { c with pages := tins c.pages page (.resident g) }
    s1.squeezeL2 fun pl => s1.frameAt pl g
  | none =>
    match s.reserveFrame with
    | none => s
    | some p =>
      let s1 : State :=
        { s with mem := wipeFrame s.mem p,
                 poison := s.poison.filter fun k => !(decide (p / 32 ≤ k) && decide (k < p / 32 + 2048)) }
      (s1.moveLines src p).putCtx ctx { c with pages := tins c.pages page (.late p), late := c.late + 1 }

/-- WAY_QUARANTINE (R458): the way is listed, backed lines that it has no room for any more go to their frames, the pages on its frames
move, and when all have moved the reservations are recomputed. -/
def execWayQuarantine (slice way : Nat) (s : State) : Out :=
  let q := (slice, way)
  let s1 : State := { s with fen := { s.fen with later := s.fen.later.filter fun e => e.2 != q } }
  let listed := s.nv.quarantined.contains q
  if 64 ≤ slice || 16 ≤ way || !s.fen.alive.getLsbD 3 then .next s
  else if !listed && decide (4 ≤ (s.nv.quarantined.filter fun e => e.1 == slice).length) then .next s1
  else
    let s2 : State :=
      if listed then s1
      else ({ s1 with nv := { s1.nv with quarantined := s1.nv.quarantined ++ [q] } } : State).squeezeL2 fun pl => pl.1 == slice
    let held := if way < 12 then s2.heldOn q else []
    let s3 := held.foldl State.movePage s2
    let moved : BitVec 8 := if decide ((s3.heldOn q).length < held.length) then 0x10 else 0
    if way < 12 && !(s3.heldOn q).isEmpty then .next (s3.markWay q moved)
    else .next (s3.recompute.markWay q (0x0C ||| moved))

/-- A pending quarantine may start (R469): F3 runs, and the termination of the record's owner has passed its steps. -/
def State.mayQuarantine (s : State) (q : Nat × Nat) : Bool :=
  s.fen.alive.getLsbD 3 &&
    !s.ctxs.any fun c =>
      match c.2.term.bind s.recordAt with
      | some r => r.kind == 2 && r.struct_ == 2 && r.slice == q.1 && r.way == q.2
      | none => false

/-- The quarantines that have something to do: those asked for, and those whose pages wait and find a frame. -/
def State.quarantinesDue (s : State) : List (Nat × Nat) :=
  let asked := (s.fen.later.filter fun e => decide (e.2.2 < 16) && s.mayQuarantine e.2).map (·.2)
  let room := s.freeFrame.isSome || s.reserveFrame.isSome
  let held := if s.nv.quarantined.isEmpty then [] else
    s.nv.quarantined.filter fun q => decide (q.2 < 12) && !(s.heldOn q).isEmpty && room && s.fen.alive.getLsbD 3
  asked ++ held

end Sys2Proof.Machine
end

