-- ==== Sys2Proof/Machine/Recover.lean ====
section
/-! DEFINITION. Mailboxes and registers of the functions (23 R460-R462), the requests of F1 and F3 (R461; 15 R313, R314), the watchdog,
host-driven mode and recovery (R463-R466). -/

namespace Sys2Proof.Machine

/-! ### Functions and their registers (R460, R464) -/

/-- Messages that now have room are posted, each with its vector. -/
def State.flushBox (s : State) (fn : Nat) (b : Mbox) : State :=
  let (b1, k) := Mbox.flush 17 b
  let s1 := s.putBox fn b1
  if b1.ie then s1.msi fn (if fn = 0 then 1 else 0) k else s1

/-- A write of MBOUT_HEAD. -/
def State.setOutHead (s : State) (fn : Nat) (v : Word) : State := s.flushBox fn { (s.box fn) with outHead := v.setWidth 32 }

/-- A write of MBIN_TAIL: ignored when more than 16 requests would stand or when it moves back. -/
def State.setInTail (s : State) (fn : Nat) (v : Word) : State :=
  let b := s.box fn
  let t : BitVec 32 := v.setWidth 32
  if 16 < (t - b.inHead).toNat || 2 ^ 31 ≤ (t - b.inTail).toNat then s else s.putBox fn { b with inTail := t }

/-- MBOUT_HEAD (R460). -/
def execMboutHead (fn : Nat) (v : Word) (s : State) : Out := .next (if s.present fn then s.setOutHead fn v else s)

/-- MBIN_TAIL (R460). -/
def execMbinTail (fn : Nat) (v : Word) (s : State) : Out := .next (if s.present fn then s.setInTail fn v else s)

/-- The operation that an OP of RCVCMD starts (R464). -/
def recoveryOp (op : Nat) : Option Instr :=
  match op with
  | 1 => some .enterHostDrivenMode
  | 2 => some .runOneCommand
  | 3 => some .restartFennelCores
  | 4 => some .leaveHostDrivenMode
  | 5 => some .readFaultRecord
  | 6 => some .readDeviceMemory
  | _ => none

/-- A write of RCVCMD: STS reads busy until the operation, the next event, has been performed; an OP outside R464 is refused, and every OP
in SCRAPPED, where only the I3C sideband and ATTEST are served (25 R482). -/
def State.startRecovery (s : State) (v : Word) : State :=
  let f := { s.fen with rcvop := v.setWidth 8, rcvarg := v.extractLsb' 8 8 }
  match (if s.nv.lcs = 4 then none else recoveryOp (v.toNat % 256)) with
  | none => { s with fen := { f with rcvsts := 2 } }
  | some i => { s with fen := { f with rcvsts := 1 }, agenda := { cur := s.cur, job := s.job, i := i } :: s.agenda }

/-- A write of HBSTAT clears HUNG bits of cores that are not alive (R464). -/
def State.clearHung (s : State) (v : Word) : State :=
  { s with fen := { s.fen with hung := s.fen.hung &&& ~~~(v.extractLsb' 8 8 &&& ~~~s.fen.alive) } }

/-- An MSI-X entry put into a function's table: a vector held pending is sent once it is not masked (R462). -/
def State.putMsix (s : State) (fn vec : Nat) (e : MsixEntry) : State :=
  let put (e : MsixEntry) : State := { s with fen := { s.fen with table := tset MsixEntry.zero s.fen.table (fn * 2 + vec) e } }
  if e.pending && !e.masked then (put { e with pending := false }).msi fn vec 1 else put e

/-- The vectors of a function (R462). -/
def vectors (fn : Nat) : Nat := if fn = 0 then 2 else 1

/-- A word of a function's MSI-X table, of two for each vector: the address; the data and the mask (R462; PRESUMED, as PCIe lays an entry
out, log 137). -/
def msixWord (fn off : Nat) : Option (Nat × Bool) :=
  if Config.msixTable ≤ off && off < Config.msixTable + 16 * vectors fn then
    some ((off - Config.msixTable) / 16, (off - Config.msixTable) / 8 % 2 == 1)
  else none

/-- A write of the MSI-X table; a place where no register stands has no effect. -/
def State.writeMsix (s : State) (fn off : Nat) (v : Word) : State :=
  match msixWord fn off with
  | none => s
  | some (vec, false) => s.putMsix fn vec { (s.msixEntry fn vec) with addr := v }
  | some (vec, true) => s.putMsix fn vec { (s.msixEntry fn vec) with data := v.setWidth 32, masked := v.getLsbD 32 }

/-- A read of the MSI-X table and its pending bits; a place where no register stands reads 0. -/
def State.readMsix (s : State) (fn off : Nat) : Word :=
  match msixWord fn off with
  | some (vec, false) => (s.msixEntry fn vec).addr
  | some (vec, true) => BitVec.setWidth 64 (BitVec.ofBool (s.msixEntry fn vec).masked ++ (s.msixEntry fn vec).data)
  | none =>
    if off = Config.msixPending then
      (BitVec.ofBool (s.msixEntry fn 1).pending ++ BitVec.ofBool (s.msixEntry fn 0).pending).setWidth 64
    else 0

/-- A write of one of the physical function's recovery registers, or of its MSI-X table; others have no effect. -/
def State.writePf (s : State) (off : Nat) (v : Word) : State :=
  if off = 0x1000 then s.clearHung v
  else if off = 0x1008 then s.startRecovery v
  else if 0x1040 ≤ off && off ≤ 0x1078 then
    { s with fen := { s.fen with rcvdata := tset 0 s.fen.rcvdata ((off - 0x1040) / 8) v } }
  else s.writeMsix 0 off v

/-- REGISTER_WRITE (R6, R460, R464): an aligned 64-bit write to a register of BAR 0; a read-only register ignores it. -/
def execRegisterWrite (fn off : Nat) (v : Word) (s : State) : Out :=
  if !s.present fn || off % 8 ≠ 0 then .next s
  else if off = 0x3008 then .next (s.setOutHead fn v)
  else if off = 0x3010 then .next (s.setInTail fn v)
  else if off = 0x3020 then .next (s.putBox fn { (s.box fn) with ie := v.getLsbD 0 })
  else if 0x3800 ≤ off && off < 0x3C00 then
    let b := s.box fn
    .next (s.putBox fn { b with inRing := tset 0 b.inRing ((off - 0x3800) / 8) v })
  else if fn = 0 then .next (s.writePf off v)
  else .next (s.writeMsix fn off v)

/-- HBSTAT (R464). -/
def State.hbstat (s : State) : Word :=
  (0 : BitVec 46) ++ BitVec.ofBool s.fen.hostmode ++ BitVec.ofBool s.fen.frozen ++ s.fen.hung ++ s.fen.alive

/-- RCVCMD (R464). -/
def State.rcvcmd (s : State) : Word := (0 : BitVec 40) ++ s.fen.rcvsts ++ s.fen.rcvarg ++ s.fen.rcvop

/-- DEVSTAT (25 R484). -/
def State.devstat (s : State) : Word :=
  (0 : BitVec 16) ++ BitVec.ofNat 16 s.nv.lcs ++ (0 : BitVec 2) ++ s.boot.lpfail ++ BitVec.ofBool s.boot.cxl1 ++ BitVec.ofBool s.boot.cxl0 ++
    BitVec.ofBool s.boot.lptrained ++ BitVec.ofNat 3 s.boot.phase

/-- A register of a function's mailbox, its rings among them (R460). -/
def Mbox.read (b : Mbox) (off : Nat) : Word :=
  if off = 0x3000 then b.outTail.setWidth 64
  else if off = 0x3008 then b.outHead.setWidth 64
  else if off = 0x3010 then b.inTail.setWidth 64
  else if off = 0x3018 then b.inHead.setWidth 64
  else if off = 0x3020 then (BitVec.ofBool b.ie).setWidth 64
  else if 0x3400 ≤ off && off < 0x3800 then tget 0 b.outRing ((off - 0x3400) / 8)
  else if 0x3800 ≤ off && off < 0x3C00 then tget 0 b.inRing ((off - 0x3800) / 8)
  else 0

/-- What an aligned 64-bit read of a function's BAR 0 returns (R6, R460, R464; 15 R315; 25 R484): the current value of a register, its reserved
fields zero. A place where no register stands reads 0, as every place of a function that is not present (DESIGN CHOICE, log 112). A read
changes nothing. -/
def State.readBar (s : State) (fn off : Nat) : Word :=
  if !s.present fn || off % 8 ≠ 0 then 0
  else if 0x2000 ≤ off && off < 0x2200 then s.doorbellRead fn ((off - 0x2000) / 8)
  else if 0x3000 ≤ off && off < 0x3C00 then (s.box fn).read off
  else if fn ≠ 0 then s.readMsix fn off
  else if off = 0x1000 then s.hbstat
  else if off = 0x1008 then s.rcvcmd
  else if 0x1040 ≤ off && off ≤ 0x1078 then tget 0 s.fen.rcvdata ((off - 0x1040) / 8)
  else if off = 0x1100 then s.devstat
  else s.readMsix fn off

/-! ### Requests (R461) -/

/-- The message at the head of a function's inbound ring, with its TYPE. -/
def Mbox.front (b : Mbox) : BitVec 8 × Msg :=
  let w (k : Nat) : Word := tget 0 b.inRing (b.inHead.toNat % 16 * 8 + k)
  let h := w 0
  (h.setWidth 8,
   { src := h.extractLsb' 8 8, seq := h.extractLsb' 16 16, status := h.extractLsb' 32 32, p1 := w 1, p2 := w 2, p3 := w 3,
     p4 := w 4, p5 := w 5, p6 := w 6, p7 := w 7 })

/-- The request of a TYPE that a function admits, and the core that serves it. -/
def requestOf (fn ty : Nat) : Instr × Nat :=
  match ty with
  | 0x04 => (.qreset, 1)
  | 0x05 => (.qcreate, 1)
  | 0x06 => (.qdestroy, 1)
  | 0x10 => if fn = 0 then (.lcreq, 5) else (.unknownMailboxRequest, 7)
  | 0x20 => (.dbgreq, 7)
  | 0x30 => if fn = 0 then (.fltread, 3) else (.unknownMailboxRequest, 7)
  | _ => (.unknownMailboxRequest, 7)

/-- A request names a queue of another context than the function's, which the function does not admit (R461). -/
def State.foreign (s : State) (fn ty : Nat) (m : Msg) : Bool :=
  (ty == 4 || ty == 6) && fn != 0 &&
    match s.queue (m.p1.extractLsb' 0 8).toNat with
    | none => false
    | some x => x.ctx != ctxOf fn

/-- The next request of a function whose serving core is alive, taken from the ring; none is served in SCRAPPED (25 R482) nor
before the firmware has been loaded. -/
def State.takeRequest (s : State) (fn : Nat) : Option (State × Instr) :=
  let b := s.box fn
  let (ty, m) := b.front
  let (i, k) := if s.foreign fn ty.toNat m then (.unknownMailboxRequest, 1) else requestOf fn ty.toNat
  if b.inHead = b.inTail || !s.fen.alive.getLsbD k || s.nv.lcs = 4 || s.boot.phase < 2 || 3 < s.boot.phase || !s.present fn then
    none
  else
    let s1 := s.putBox fn { b with inHead := b.inHead + 1 }
    some ({ s1 with fen := { s1.fen with serving := fn, msgtype := ty, msg := m } }, i)

/-- The queue that the served request names. -/
def State.namedQueue (s : State) : Option (Nat × CQueue) :=
  let q := (s.fen.msg.p1.extractLsb' 0 8).toNat
  (s.queue q).map fun x => (q, x)

/-- QRESET (15 R314): the ring contents are discarded. -/
def execQreset (s : State) : Out :=
  match s.namedQueue with
  | none => .next (s.reply 4 1 1 0)
  | some (q, x) =>
    if x.error then .next ((s.putQueue q { x with error := false, head := x.tail }).reply 4 1 0 0) else .next (s.reply 4 1 1 0)

/-- The fields of QCREATE within R313. -/
def queueFits (ctx cls size : Nat) (ring : Word) : Bool :=
  decide (ctx < 16) && decide (cls < 2) && ring.toNat % 4096 == 0 && ((List.range 11).any fun k => size == 2 ^ (k + 6))

/-- A queue at its creation (15 R313). -/
def CQueue.fresh (ctx cls size : Nat) (ring : Word) (pf : Bool) : CQueue :=
  { ctx := ctx, pf := pf, ring := ring, size := size, bulk := decide (cls = 1), head := 0, tail := 0, phase := 0, gp := [],
    error := false, run := none, replay := none, outer := none, stream := none, host := false }

/-- QCREATE (15 R313). -/
def execQcreate (s : State) : Out :=
  let m := s.fen.msg
  let fn := s.fen.serving
  let ctx := if fn = 0 then (m.p1.extractLsb' 0 8).toNat else ctxOf fn
  let cls := (m.p1.extractLsb' 8 8).toNat
  let size := (m.p1.extractLsb' 32 32).toNat
  match (List.range 64).find? fun q => (s.queue q).isNone with
  | none => .next (s.reply 5 1 1 0)
  | some q =>
    if !queueFits ctx cls size m.p2 then .next (s.reply 5 1 1 0)
    else .next ((s.putQueue q (CQueue.fresh ctx cls size m.p2 (fn == 0))).reply 5 1 0 (BitVec.ofNat 64 q))

/-- QDESTROY (R461). -/
def execQdestroy (s : State) : Out :=
  match s.namedQueue with
  | none => .next (s.reply 6 1 1 0)
  | some (q, x) =>
    if x.run.isSome || x.outer.isSome || x.stream.isSome || s.groups.any (fun g => g.2.aq == some q) then
      .next (s.reply 6 1 1 0)
    else
      let s1 : State := { s with fe := { s.fe with queues := tdel s.fe.queues q } }
      .next (s1.reply 6 1 0 0)

/-- The record at an index of F3's ring (R454). -/
def State.recordIn (s : State) (i : Nat) : Option FaultRec :=
  s.fen.faults[(s.fen.nfaults + 1023 - i) % 1024]?

/-- FLTREAD (R461). -/
def execFltread (s : State) : Out :=
  let i := (s.fen.msg.p1.extractLsb' 0 16).toNat
  match (if i < 1024 then s.recordIn i else none) with
  | none => .next (s.reply 0x30 3 1 0)
  | some r => .next (s.post s.fen.serving 0x30 { r.msg with seq := s.fen.msg.seq })

/-- UNKNOWN_MAILBOX_REQUEST (R461): a reply of the same TYPE; which core posts it is free. -/
def execUnknownMailboxRequest (s : State) : Out :=
  let (n, s1) := s.draw
  .next (s1.deliver s.fen.serving s.fen.msgtype
    { Msg.zero with src := BitVec.ofNat 8 (n % 8), seq := s.fen.msg.seq, status := 0xFFFFFFFF })

/-! ### The watchdog and recovery (R463-R466) -/

/-- WATCHDOG_HANG (R463): dispatch freezes, HBSTAT changes, vector 0 is sent and a record is written. -/
def execWatchdogHang (k : Nat) (crash : Bool) (s : State) : Out :=
  if 8 ≤ k || !s.fen.alive.getLsbD k then .next s
  else .next (s.coreLost k (FaultRec.blank s.dt 3 (if crash then 2 else 1) (BitVec.ofNat 8 k)))

/-- The end of a recovery operation with its STS. -/
def State.recovered (s : State) (sts : BitVec 8) : State := { s with fen := { s.fen with rcvsts := sts } }

/-- ENTER_HOST_DRIVEN_MODE (R464). -/
def execEnterHostDrivenMode (s : State) : Out :=
  let s1 : State := { s with fen := { s.fen with hostmode := true } }
  .next (s1.recovered 0)

/-- A RCVDATA register. -/
def State.rcv (s : State) (k : Nat) : Word := tget 0 s.fen.rcvdata k

/-- Words put into RCVDATA from register `k` on. -/
def State.putRcv (s : State) (k : Nat) (l : List Word) : State :=
  { s with fen := { s.fen with rcvdata := putWords s.fen.rcvdata k l } }

/-- The 512 bits of RCVDATA0-RCVDATA7. -/
def State.rcvCommand (s : State) : BitVec 512 := BitVec.ofNat 512 (rowNat 64 ((List.range 8).map fun k => (s.rcv k).toNat))

/-- RUN_ONE_COMMAND (R465): the command starts in the named queue as if read at HEAD + 0; refused outside host-driven mode, and for a
queue that cannot start one. STS tells that it has started. -/
def execRunOneCommand (s : State) : Out :=
  let q := s.fen.rcvarg.toNat
  match s.queue q with
  | none => .next (s.recovered 2)
  | some x =>
    if !s.fen.hostmode || x.error || x.run.isSome || x.outer.isSome || (s.ctx x.ctx).term.isSome then .next (s.recovered 2)
    else
      match s.begin_ q x { x with host := true } s.rcvCommand fun _ => true with
      | .idle => .next (s.recovered 0)
      | .moved s1 => .next (s1.recovered 0)
      | .run s1 _ => .next (s1.recovered 0)

/-- What F3 finds to do when it starts again (R463): the retirements that waited; quarantines stay asked for. -/
def State.resumeF3 (s : State) : State :=
  let hit (l : List Nat) (r : FaultRec) : Bool := r.kind == 2 && l.contains r.pa && r.code != 1
  let pas := s.fen.later.filterMap (·.1)
  let s1 := pas.foldl State.retirePage s
  let mark (r : FaultRec) : FaultRec := if hit pas r then { r with action := r.action ||| 2 } else r
  { s1 with fen := { s1.fen with faults := s1.fen.faults.map mark, later := s1.fen.later.filter fun e => e.1.isNone } }

/-- Both signatures of an object verify under the vendor's public keys, those whose digests the device holds fused (25 R479). -/
def vendorSigned (edKey mlKey bytes edSig mlSig : List Byte) : Bool :=
  Config.sha384 edKey == Config.fusedDigests.1 && Config.sha384 mlKey == Config.fusedDigests.2 && edSig.length == 64 &&
    mlSig.length == 3309 && Config.edVerify edKey bytes edSig && Config.mlVerify mlKey bytes mlSig

/-- A firmware image carries both signatures (25 R479). -/
def imageSigned (i : FwImage) : Bool := vendorSigned i.edKey i.mlKey i.bytes i.edSig i.mlSig

/-- The image for a recovery restart, held in device memory (R466): the ninth of those loaded. -/
def State.recoveryGood (s : State) : Bool := match s.boot.images[8]? with | some i => imageSigned i | none => false

/-- RESTART_FENNEL_CORES (R466): from the image held in device memory, when both its signatures verify. -/
def execRestartFennelCores (s : State) : Out :=
  if !s.recoveryGood then .next (s.recovered 3)
  else
    let s1 : State := { s with fen := { s.fen with alive := s.fen.alive ||| s.fen.rcvarg } }
    .next (((if s.fen.rcvarg.getLsbD 3 then s1.resumeF3 else s1).sendUnsent).recovered 0)

/-! ### Messages between Fennel's cores (R459) -/

/-- A message put into a core's inbox, which holds 32; none where it is full, and the sender waits. -/
def State.sendCore (s : State) (k : Nat) (m : FMsg) : Option State :=
  let l := tget [] s.fen.inboxes k
  if l.length < 32 then some { s with fen := { s.fen with inboxes := tset [] s.fen.inboxes k (l ++ [m]) } } else none

/-- The oldest message of a core's inbox taken. -/
def State.takeCore (s : State) (k : Nat) : Option (FMsg × State) :=
  match tget [] s.fen.inboxes k with
  | [] => none
  | m :: r => some (m, { s with fen := { s.fen with inboxes := tset [] s.fen.inboxes k r } })

/-- LEAVE_HOST_DRIVEN_MODE (R466): accepted when every core is alive, and not after a thermal trip (25 R478). -/
def execLeaveHostDrivenMode (s : State) : Out :=
  if s.fen.alive != 0xFF || s.fen.tripped then .next (s.recovered 2)
  else
    let s1 : State :=
      { s with fen := { s.fen with frozen := false, hostmode := false },
               fe := { s.fe with queues := tmap s.fe.queues fun _ x => { x with host := false } } }
    .next (s1.recovered 0)

/-- READ_FAULT_RECORD (R464). -/
def execReadFaultRecord (s : State) : Out :=
  let ws := match s.recordIn ((s.rcv 0).toNat % 1024) with | some r => r.words | none => List.replicate 6 0
  let newest := (s.fen.nfaults + 1023) % 1024
  let w7 := BitVec.ofNat 64 ((if s.fen.nfaults = 0 then 0 else newest) + s.fen.nfaults % 2 ^ 32 * 2 ^ 16)
  .next (((s.putRcv 0 ws).putRcv 7 [w7]).recovered 0)

/-- A physical address that lies in a frame of this device's memory or in a residency frame. -/
def State.inFrame (s : State) (pa : Nat) : Bool :=
  let off := offOf pa
  chipOf pa == s.pod.chip.toNat && !s.noFrame pa && !s.unready pa 1 &&
    (isGddrOff off || isLpddrOff off || isCxl0Off off || isCxl1Off off ||
      (decide (2 ^ 49 ≤ off) && decide (off < 2 ^ 49 + 65536 * 12288)))

/-- A sector's four words, those of a frame map among them (16 R347); those of a POISON sector are free. -/
def State.sectorWords (s : State) (sec : Nat) : List Word :=
  let x := s.readL2 sec
  (List.range 4).map fun k =>
    match s.frameMapWord (sec * 32 + 8 * k) with
    | some w => w
    | none => if x.bad.isSome then Config.freeWord (s.fresh + sec % 2 * 4 + k) else BitVec.extractLsb' (64 * k) 64 x.data

/-- READ_DEVICE_MEMORY (R464). -/
def execReadDeviceMemory (s : State) : Out :=
  let pa := (s.rcv 0).toNat
  if pa % 64 ≠ 0 || !s.inFrame pa then .next (s.recovered 2)
  else
    let s1 := s.putRcv 0 (s.sectorWords (pa / 32) ++ s.sectorWords (pa / 32 + 1))
    .next (({ s1 with fresh := s1.fresh + 8 } : State).recovered 0)

end Sys2Proof.Machine
end

