-- ==== Sys2Proof/Machine/Power.lean ====
section
/-! DEFINITION. Islands, monitors, identity and attestation, the life cycle, resets and bring-up (25 R474-R488; 23 R467). -/

namespace Sys2Proof.Machine

/-! ### Operating points (R474-R476) -/

/-- The class of an island: the best CLASS.CUR among the tasks in its issuing banks, IDLE where there is none. -/
def State.islandClass (s : State) (cl : Nat) : Nat :=
  s.tasks.foldl (fun b e =>
    if clusterOf (e.1 / 2) = cl && (s.core (e.1 / 2)).bank = e.1 % 2 then min b e.2.cls.cur else b) 3

/-- The islands that run, in the order in which F4 lowers them (R475): worst class first, then the higher cluster number. -/
def State.lowerOrder (s : State) : List Nat :=
  let on := ((List.range 64).reverse).filter fun cl => (s.cluster cl).on
  [3, 2, 1, 0].flatMap fun k => on.filter fun cl => s.islandClass cl == k

/-- Whether F4 may lower an island by 25 MHz for power. -/
def State.mayLower (s : State) (cl : Nat) : Bool :=
  let f := (s.cluster cl).mhz
  decide (600 < f) &&
    (decide (1000 < f) || decide (1 < s.islandClass cl) ||
      (List.range 64).all fun k => k == cl || !(s.cluster k).on || decide ((s.cluster k).mhz ≤ 600))

/-- Whether F4 may raise an island by 25 MHz. -/
def State.mayRaise (s : State) (cl : Nat) : Bool :=
  let c := s.cluster cl
  decide (c.mhz < 1300) && !c.capped && decide (c.temp < 100)

/-- F4 starts a change of an island's operating point (R474), in full service (R485, R486): a multiple of 25 MHz from 600 to 1300 of an island
that runs; the limit of 110 °C holds against a raise (R477), and with F4 hung clocks keep their values (23 R465). The island takes the new
voltage and clock at its next cc boundaries. -/
def State.setClock (s : State) (cl mhz : Nat) : State :=
  let c := s.cluster cl
  if !c.on || mhz % 25 ≠ 0 || mhz < 600 || 1300 < mhz || (c.capped && decide (600 < mhz)) || !s.fen.alive.getLsbD 4 || s.boot.phase ≠ 3 then s
  else s.putCluster cl { c with goal := some mhz }

/-- OPERATING_POINT_CHANGE (R474). -/
def execOperatingPointChange (cluster mhz : Nat) (s : State) : Out := .next (s.setClock cluster mhz)

/-- The clocks that a boundary asks for (R475, R477): hot islands go down by 100 MHz; by the average of ten boundaries some islands
go down or up by 25 MHz in their order. How many is free. -/
def State.clockPlan (s : State) : List (Nat × Nat) :=
  let hot := (List.range 64).filter fun cl => (s.cluster cl).on && decide (100 ≤ (s.cluster cl).temp) && decide (600 < (s.cluster cl).mhz)
  let n := s.fen.power.length
  let sum := s.fen.power.foldl (· + ·) 0
  let k := Config.freeNat s.fresh
  let order := s.lowerOrder.filter fun cl => !hot.contains cl
  let step :=
    if 1600000 * n < sum then
      ((order.filter s.mayLower).take (k % 64 + 1)).map fun cl => (cl, (s.cluster cl).mhz - 25)
    else if sum * 100 < 1600000 * 95 * n then
      ((order.reverse.filter s.mayRaise).take (k % 65)).map fun cl => (cl, (s.cluster cl).mhz + 25)
    else []
  hot.map (fun cl => (cl, max 600 ((s.cluster cl).mhz - 100))) ++ step

/-- The blocks of an island over the last ten boundaries, skipped and evaluated. -/
def State.blockSums (s : State) (cl : Nat) : Nat × Nat :=
  s.fen.boundary.foldl (fun a l => let e := l.getD cl (0, 0); (a.1 + e.1, a.2 + e.2)) (0, 0)

/-- A voltage lowering that F4 may make (R476); whether it does is free. -/
def State.mayLowerVolt (s : State) (cl : Nat) : Bool :=
  let c := s.cluster cl
  let (sk, ev) := s.blockSums cl
  c.on && decide (0 < sk) && decide (sk + ev ≤ 4 * sk) && decide (Config.voltageFloor c.osc c.mhz < c.volt - 1) &&
    Config.freeBool (s.fresh + cl)

/-- A boundary of R475 in full service (R486) at which the power is still to be measured. -/
def State.atBoundary (s : State) : Bool :=
  s.boot.phase == 3 && s.dt.toNat % 1300000 == 0 && s.fen.powerAt != s.dt.toNat

/-- POWER_BOUNDARY (R475, R476) with the module power in mW, once at each boundary of full service; the counts of R476 start again. The new
clocks are events that follow. -/
def execPowerBoundary (mw : Nat) (s : State) : Out :=
  if !s.atBoundary then .next s else
  let counts := (List.range 64).map fun cl => ((s.cluster cl).skipped, (s.cluster cl).evaluated)
  let f := { s.fen with power := (mw :: s.fen.power).take 10, boundary := (counts :: s.fen.boundary).take 10, powerAt := s.dt.toNat }
  let s1 : State := { s with fen := f, clusters := tmap s.clusters fun _ c => { c with skipped := 0, evaluated := 0 } }
  if !s.fen.alive.getLsbD 4 then .next s1
  else
    let low := (List.range 64).filter s1.mayLowerVolt
    let s2 := low.foldl (fun s cl => s.putCluster cl { (s.cluster cl) with volt := (s.cluster cl).volt - 1 }) s1
    let evs : List Ev := s1.clockPlan.map fun e => { cur := s.cur, job := s.job, i := .operatingPointChange e.1 e.2 }
    .next { s2 with agenda := evs ++ s2.agenda, fresh := s2.fresh + 64 }

/-! ### Monitors (R477, R478) -/

/-- A thermal trip (R478): every island stops, dispatch freezes, vector 0 is sent and a record is written. -/
def State.trip (s : State) (cl : Nat) : State :=
  let s1 : State := { s with fen := { s.fen with tripped := true, frozen := true } }
  let r := FaultRec.blank s.dt 3 3 (BitVec.ofNat 8 cl)
  ((s1.msi 0 0 1).addFault r).postFault r

/-- The limits of R477 that a reading reaches and the one before it did not: each is told on the I3C sideband by an in-band interrupt
(R487; log 118). -/
def limitsMet (old : Int) (deg : Nat) : List Nat := [100, 110, 125].filter fun k => decide (old < (k : Int)) && decide (k ≤ deg)

/-- TEMPERATURE_SAMPLE (R477): 110 °C or above sets 600 MHz in hardware until a reading below 105 °C; 125 °C trips. -/
def execTemperatureSample (cluster deg : Nat) (s : State) : Out :=
  let c := s.cluster cluster
  let c1 := { c with temp := (deg : Int) }
  let c2 : Cluster :=
    if 110 ≤ deg then
      { c1 with mhz := min 600 c1.mhz, capped := true, goal := some (min 600 c1.mhz), volt := if c1.mhz ≤ 600 then c1.volt else 0 }
    else if deg < 105 then { c1 with capped := false }
    else c1
  if 64 ≤ cluster then .next s
  else
    let told := (limitsMet c.temp deg).map fun k => (cluster, k)
    let s1 : State := { s.putCluster cluster c2 with fen := { s.fen with inband := s.fen.inband ++ told } }
    .next (if 125 ≤ deg && !s.fen.tripped then s1.trip cluster else s1)

/-- VOLTAGE_DROOP (R477): the clock is stretched, the droop is counted, a lowering of R476 ends and the I3C sideband is told (R487). The
supply's reading is free below the limit, in thousandths of the set point (log 138). -/
def execVoltageDroop (cluster : Nat) (s : State) : Out :=
  let c := s.cluster cluster
  if 64 ≤ cluster || !c.on then .next s
  else
    let (v, s1) := s.draw
    let s2 := s1.putCluster cluster { c with droop := true, droops := c.droops + 1, volt := 0, supply := -((51 + v % 950 : Nat) : Int) }
    .next { s2 with fen := { s2.fen with inband := s2.fen.inband ++ [(cluster, 5)] } }

/-- DROOP_RECOVERY (R477): the supply's reading is free within the limit. -/
def execDroopRecovery (cluster : Nat) (s : State) : Out :=
  if 64 ≤ cluster then .next s
  else
    let (v, s1) := s.draw
    .next (s1.putCluster cluster { (s.cluster cluster) with droop := false, supply := -((v % 51 : Nat) : Int) })

/-- What the monitors of an island report to F7 and to the I3C sideband (R477, R487). -/
inductive Sensor where
  | temperature | droops | supply | oscillator
  deriving DecidableEq, Repr

/-- The reading of a monitor; that of the supply against its set point counts in thousandths of it. -/
def State.reading (s : State) (cl : Nat) : Sensor → Int
  | .temperature => (s.cluster cl).temp
  | .droops => ((s.cluster cl).droops : Int)
  | .supply => (s.cluster cl).supply
  | .oscillator => ((s.cluster cl).osc : Int)

/-- PTM_SYNC (R488): one tick added, or one to be omitted, at most once in 4096 ticks. -/
def execPtmSync (add skip : Bool) (s : State) : Out :=
  let u := s.dt.toNat
  if add == skip || decide (u < s.boot.ptmNext) then .next s
  else
    let b := { s.boot with ptmNext := u + 4096, omit_ := skip }
    .next { s with boot := b, dt := if add then s.dt + 1 else s.dt }

/-! ### Identity and attestation (R479-R481) -/

/-- Exactly `n` bytes, with zeros where there are fewer. -/
def fixLen (n : Nat) (l : List Byte) : List Byte := (l ++ List.replicate n 0).take n

/-- SHA-384 of the two identity public keys, once they are generated (R480, R481). -/
def State.identityHash (s : State) : List Byte := match s.nv.keys with | some n => Config.sha384 (Config.publicKeys n) | none => []

/-- The vendor's certificate over the public halves of the identity keys, with both signatures verifying (R480). -/
def State.certificate (s : State) : Option (List Byte × List Byte × List Byte) :=
  match s.nv.keys with
  | none => none
  | some n =>
    let (b, e, m) := Config.certificate n
    if vendorSigned Config.vendorKeys.1 Config.vendorKeys.2 b e m then some (b, e, m) else none

/-- Bytes 0-511 of a report. -/
def State.reportBody (s : State) (ctx : Nat) (nonce : List Byte) : List Byte :=
  fixLen 512 (natBytes 4 0x54415451 ++ [1, BitVec.ofNat 8 s.nv.lcs, BitVec.ofNat 8 ctx, 0] ++ natBytes 8 s.dt.toNat ++ fixLen 32 nonce ++
    fixLen 48 s.identityHash ++ fixLen 384 ((s.boot.images.take 8).flatMap fun i => fixLen 48 (Config.sha384 i.bytes)) ++ natBytes 4 s.nv.version ++
    natBytes 4 s.nv.retired.length ++ natBytes 1 s.nv.quarantined.length)

/-- A report: its body and both signatures, which are zero once the private halves have been erased. -/
def State.report (s : State) (ctx : Nat) (nonce : List Byte) : List Byte :=
  let b := s.reportBody ctx nonce
  let sig := match s.nv.keys with | some n => Config.signatures n b | none => []
  b ++ (if s.nv.secret && s.nv.lcs != 4 then fixLen 3373 sig else List.replicate 3373 0)

/-- ATTEST (R481): the nonce's address in bytes 16-23; the bytes that R481 does not list are zero (DEDUCED, log 139). -/
def execAttest (c : Cmd) (s : State) : Out :=
  let n := (c.w6.extractLsb' 0 32).toNat
  command s (cmdHeadBad c || c.a != 0 || c.w5.toNat % 64 ≠ 0 || c.w6.extractLsb' 32 32 != 0 || c.w7 != 0 || decide (n < 3885))
    (withBuffer s c.b.toNat 32 6 fun nonce =>
      blockWrite s s.curCtx 0 c.w5.toNat (s.report s.curCtx nonce) fun s1 => s1.ended 0)

/-! ### The life cycle (R482, R483) -/

/-- How a transition is authorised: by the driver alone, by a token, or not at all. In MANUFACTURE the driver is the factory's. -/
def lcsRule (now target : Nat) : Option Bool :=
  if now = 4 then none
  else if target = 4 then some false
  else
    match now, target with
    | 0, 1 => some false
    | 1, 2 => some false
    | 2, 3 => some true
    | 3, 1 => some true
    | _, _ => none

/-- Bytes of host memory through port 0 (16 R339). -/
def State.hostBytes (s : State) (a n : Nat) : List Byte :=
  (List.range n).map fun k => memByte s.mem (s.pod.chip.toNat * 2 ^ 51 + 2 ^ 50 + a + k)

/-- A token that F5 accepts for a target (R483). -/
def State.tokenGood (s : State) (l : List Byte) (target : Nat) : Bool :=
  let f (o n : Nat) : Nat := bytesNat ((l.drop o).take n)
  l.length == 3437 && f 0 4 == 0x4C434B54 && f 4 1 == target && f 5 3 == 0 &&
    (l.drop 8).take 48 == fixLen 48 s.identityHash && f 56 8 == s.nv.count &&
    vendorSigned Config.vendorKeys.1 Config.vendorKeys.2 (l.take 64) ((l.drop 64).take 64) (l.drop 128)

/-- LCREQ (R483): an accepted transition starts the wipe, and its reply comes when the wipe has completed. -/
def execLcreq (s : State) : Out :=
  let m := s.fen.msg
  let target := (m.p1.extractLsb' 0 8).toNat
  let a := m.p2.toNat
  let answer (st : BitVec 32) : State := s.reply 0x11 5 st (BitVec.ofNat 64 s.nv.lcs)
  let go : State := { s with boot := { s.boot with wiping := some (target, m.seq) } }
  if s.boot.wiping.isSome then .next (answer 3)
  else
    match lcsRule s.nv.lcs target with
    | none => .next (answer 1)
    | some false => .next go
    | some true =>
      if a = 0 then .next (answer 1)
      else if a % 8 ≠ 0 || 2 ^ 50 < a + 3437 then .next (answer 2)
      else if s.tokenGood (s.hostBytes a (m.p3.extractLsb' 0 32).toNat) target then .next go
      else .next (answer 2)

/-- Everything that runs ends, as each context's termination would end it, without a record. -/
def State.endAll (s : State) : State :=
  let busy := s.fe.queues.filter fun e => e.2.run.isSome || e.2.outer.isSome
  let s1 := busy.foldl (fun s e => s.endQueue e.1 e.2) s
  (List.range 16).foldl (fun s c => (s.endCentral c).endTasks c) s1

/-- Every SRAM, all device memory and every slot written to zero (R482): host memory and other devices keep what they hold. -/
def State.wipeAll (s : State) : State :=
  let own (a : Nat) : Bool := chipOf a == s.pod.chip.toNat && !isHostOff (offOf a)
  { s with
    mem := s.mem.filter fun e => !own e.1
    poison := s.poison.filter fun k => !own (k * 32)
    l2 := []
    lines := []
    slow := []
    latent := s.latent.filter fun e => match e.2 with | .fennel _ => true | _ => false
    tasks := []
    retired := []
    decoders := []
    opens := []
    jobs := []
    cores := tmap s.cores fun _ c => { Core.zero with cc := c.cc }
    clusters := tmap s.clusters fun _ c =>
      { c with ctxs := [], store := [], loaded := [], parked := [], egress := [], hints := [], walkers := [] }
    ctxs := [] }

/-- LIFECYCLE_WIPE_DONE (R482, R483, R480, R455): the new state takes effect and its LCREPLY is posted. -/
def execLifecycleWipeDone (s : State) : Out :=
  match s.boot.wiping with
  | none => .next s
  | some (target, seq) =>
    let s1 := s.endAll.wipeAll
    let clear := s.nv.lcs == 3 && target == 1
    let nv : Nv :=
      { s1.nv with lcs := target, count := s1.nv.count + 1, secret := s1.nv.secret && target != 4
                   retired := if clear then [] else s1.nv.retired
                   waiting := if clear then [] else s1.nv.waiting
                   quarantined := if clear then [] else s1.nv.quarantined
                   dueReturn := s1.nv.dueReturn && !clear }
    let s2 : State := { s1 with nv := nv, boot := { s1.boot with wiping := none } }
    .next (s2.post 0 0x11 { Msg.zero with src := 5, seq := seq, status := 0, p1 := BitVec.ofNat 64 target })

/-- What the IEEE 1149.1 port offers (R482): Fennel's debug only in MANUFACTURE and RMA. -/
inductive TapInstr where
  | bypass | idcode | samplePreload | extest | debug
  deriving DecidableEq, Repr

/-- The instructions of the test access port in the life-cycle state in force (R482, R487). -/
def State.tapOffers (s : State) : List TapInstr :=
  [.bypass, .idcode, .samplePreload, .extest] ++ if s.nv.lcs = 0 || s.nv.lcs = 3 then [.debug] else []

/-! ### Resets and bring-up (R484-R486, R491; 23 R455, R467) -/

/-- The retirements that waited for a reset, as far as the list has room (23 R455). -/
def Nv.atReset (v : Nv) : Nv :=
  let n := 4096 - v.retired.length
  { v with retired := v.retired ++ v.waiting.take n, waiting := v.waiting.drop n }

/-- The device after a reset: of it only the non-volatile store survives (23 R467). Host memory and the memories of other devices are
not its own, and the model's list of events to come and its counter of free values go on. -/
def State.afterReset (s : State) : State :=
  let own (a : Nat) : Bool := chipOf a == s.pod.chip.toNat && !isHostOff (offOf a)
  { State.reset with
    nv := s.nv.atReset, agenda := s.agenda, fresh := s.fresh, mem := s.mem.filter fun e => !own e.1
    poison := s.poison.filter fun k => !own (k * 32) }

/-- DEVICE_RESET (23 R467). -/
def execDeviceReset (s : State) : Out := .next s.afterReset

/-- POWER_UP (23 R455): the device starts as after a reset, with its non-volatile store. -/
def execPowerUp (s : State) : Out := .next s.afterReset

/-- F1 marks the reserved cores of each cluster (15 R326) when it starts; which it marks is free (log 120). -/
def State.markReserved (s : State) : State :=
  { s with fe := { s.fe with reserved := (List.range 64).map fun cl => (cl, (Config.freeWord (s.fresh + cl)).setWidth 12) }
           fresh := s.fresh + 64 }

/-- The process oscillators are read, which sets the voltage floor of each island for each clock (R477). -/
def State.readOscillators (s : State) : State :=
  let set (s : State) (cl : Nat) : State := s.putCluster cl { (s.cluster cl) with osc := Config.oscillations cl s.fresh }
  let s1 := (List.range 64).foldl set s
  { s1 with fresh := s1.fresh + 1 }

/-- An image is accepted (R479): both signatures verify and its version is not below the fused minimum. -/
def State.accepts (s : State) (i : FwImage) : Bool := imageSigned i && decide (s.nv.fusedMin ≤ i.version)

/-- The images of F0-F7 and the recovery copy are accepted (R479): the boot ROM verifies F5's, and F5 then the others. -/
def State.acceptsAll (s : State) (l : List FwImage) : Bool :=
  l.length == 9 && (match l[5]? with | some i => s.accepts i | none => false) && (l.eraseIdx 5).all s.accepts

/-- F5 generates the identity key pairs in MANUFACTURE, once (R480); which they are is free. -/
def State.makeKeys (s : State) : State :=
  if s.nv.lcs = 0 && s.nv.keys.isNone then { s with nv := { s.nv with keys := some s.fresh, secret := true }, fresh := s.fresh + 1 } else s

/-- The device runs accepted images: the security version in force is that of F5's (DESIGN CHOICE, log 139). -/
def State.runImages (s : State) (l : List FwImage) : State :=
  let v := match l[5]? with | some i => i.version | none => 0
  ({ s with boot := { s.boot with phase := 2, images := l }, nv := { s.nv with version := v } } : State).markReserved.makeKeys

/-- FIRMWARE_LOAD (R479, R484): from phase 0, the wipe has completed and loading begins; from phase 1, the images are verified, and run or the
device is in BOOTFAIL. -/
def execFirmwareLoad (images : List FwImage) (s : State) : Out :=
  if s.boot.phase = 0 then .next ({ s with boot := { s.boot with phase := 1 } } : State).readOscillators
  else if s.boot.phase = 1 then
    if s.acceptsAll images then .next (s.runImages images) else .next { s with boot := { s.boot with phase := 4 } }
  else .next s

/-- LPDDR_TRAINING_DONE (R484). -/
def execLpddrTrainingDone (k : Nat) (passed : Bool) (s : State) : Out :=
  if 24 ≤ k || s.boot.lpdone.getLsbD k then .next s
  else
    let b : BitVec 24 := 1 <<< k
    let done := s.boot.lpdone ||| b
    .next { s with boot := { s.boot with lpdone := done, lpfail := if passed then s.boot.lpfail else s.boot.lpfail ||| b,
                                         lptrained := done == BitVec.allOnes 24 } }

/-- The most bytes of the attached tier, on both ports together: 3072 GiB (01 R17). -/
def cxlLimit : Nat := 3072 * 2 ^ 30

/-- CXL_LINK_CHANGE (R484, R486; 16 R339; 01 R17): a port that is down leaves its range without frames. Of both ports the one that links later
keeps what the other leaves of the limit (DESIGN CHOICE, log 141). -/
def execCxlLinkChange (port : Nat) (up : Bool) (cap : Nat) (s : State) : Out :=
  let b := s.boot
  if port = 0 then
    .next { s with boot := { b with cxl0 := up, cap0 := if up then min cap (cxlLimit - b.cap1) else 0, cxlDone := b.cxlDone ||| 1 } }
  else if port = 1 then
    .next { s with boot := { b with cxl1 := up, cap1 := if up then min cap (cxlLimit - b.cap0) else 0, cxlDone := b.cxlDone ||| 2 } }
  else .next s

/-- The quarantine reserve (R491): 4096 frames down from the top of the highest package that trained, retired ones skipped, listed
in ascending order. -/
def State.reserveFrames (s : State) : List Nat :=
  match ((List.range 24).reverse).find? fun k => s.boot.lpdone.getLsbD k && !s.boot.lpfail.getLsbD k with
  | none => []
  | some k =>
    let top := s.pod.chip.toNat * 2 ^ 51 + 2 ^ 40 + (k + 1) * 2 ^ 37
    let down := (List.range 8192).map fun i => top - 65536 * (i + 1)
    let free := if s.nv.retired.isEmpty then down else down.filter fun p => !s.nv.retired.contains p
    (free.take 4096).reverse

/-- Full service may begin (R486): every package has trained or failed and each CXL port has linked or timed out, which has happened 2^35
ticks after the reset. -/
def State.serviceDue (s : State) : Bool :=
  s.boot.phase == 2 && ((s.boot.lpdone == BitVec.allOnes 24 && s.boot.cxlDone == 3) || decide (2 ^ 35 ≤ s.dt.toNat))

/-- FULL_SERVICE (R486): a package that has not trained by then has failed, and a port that has not linked has timed out. Islands 16-63 start
at 800 MHz, or at 600 where the limit of 110 °C holds (R477). -/
def execFullService (s : State) : Out :=
  if !s.serviceDue then .next s
  else
    let b := { s.boot with lpfail := s.boot.lpfail ||| ~~~s.boot.lpdone, lpdone := BitVec.allOnes 24, lptrained := true, cxlDone := 3 }
    let s0 : State := { s with boot := b }
    let b1 := { b with phase := 3, reserve := s0.reserveFrames }
    let wake (s : State) (cl : Nat) : State :=
      let c := s.cluster cl
      let f := if c.capped then 600 else 800
      s.putCluster cl { c with on := true, mhz := f, vclock := f, goal := none }
    let s1 : State := { s with boot := b1 }
    .next (((List.range 48).map (· + 16)).foldl wake s1)

end Sys2Proof.Machine
end

