-- ==== Sys2Proof/Machine/Dispatch.lean ====
section
/-! DEFINITION. The meaning of every instruction and event: one arm per constructor of `Instr`, each one call. -/

namespace Sys2Proof.Machine

/-- What an instruction or event does to a state. -/
def exec (i : Instr) (s : State) : Host.Outcome State Fault Refusal :=
  match i with
  | .add d a b => Sys2Proof.Machine.execAdd d a b s
  | .sub d a b => Sys2Proof.Machine.execSub d a b s
  | .mul d a b => Sys2Proof.Machine.execMul d a b s
  | .mulhI d a b => Sys2Proof.Machine.execMulhI d a b s
  | .mulhN d a b => Sys2Proof.Machine.execMulhN d a b s
  | .divI d a b => Sys2Proof.Machine.execDivI d a b s
  | .divN d a b => Sys2Proof.Machine.execDivN d a b s
  | .remI d a b => Sys2Proof.Machine.execRemI d a b s
  | .remN d a b => Sys2Proof.Machine.execRemN d a b s
  | .and d a b => Sys2Proof.Machine.execAnd d a b s
  | .or d a b => Sys2Proof.Machine.execOr d a b s
  | .xor d a b => Sys2Proof.Machine.execXor d a b s
  | .andn d a b => Sys2Proof.Machine.execAndn d a b s
  | .shl d a b => Sys2Proof.Machine.execShl d a b s
  | .shr d a b => Sys2Proof.Machine.execShr d a b s
  | .sar d a b => Sys2Proof.Machine.execSar d a b s
  | .rotl d a b => Sys2Proof.Machine.execRotl d a b s
  | .minI d a b => Sys2Proof.Machine.execMinI d a b s
  | .minN d a b => Sys2Proof.Machine.execMinN d a b s
  | .maxI d a b => Sys2Proof.Machine.execMaxI d a b s
  | .maxN d a b => Sys2Proof.Machine.execMaxN d a b s
  | .clz d a => Sys2Proof.Machine.execClz d a s
  | .popc d a => Sys2Proof.Machine.execPopc d a s
  | .bext d a lo w => Sys2Proof.Machine.execBext d a lo w s
  | .bextI d a lo w => Sys2Proof.Machine.execBextI d a lo w s
  | .bins d a lo w => Sys2Proof.Machine.execBins d a lo w s
  | .li d imm => Sys2Proof.Machine.execLi d imm s
  | .liN d imm => Sys2Proof.Machine.execLiN d imm s
  | .lui d imm => Sys2Proof.Machine.execLui d imm s
  | .lea d a b h => Sys2Proof.Machine.execLea d a b h s
  | .cmp c p a b => Sys2Proof.Machine.execCmp c p a b s
  | .popAnd p x y => Sys2Proof.Machine.execPopAnd p x y s
  | .popOr p x y => Sys2Proof.Machine.execPopOr p x y s
  | .popXor p x y => Sys2Proof.Machine.execPopXor p x y s
  | .sel g d c a b => Sys2Proof.Machine.execSel g d c a b s
  | .br g disp => Sys2Proof.Machine.execBr g disp s
  | .jmpDirect g disp => Sys2Proof.Machine.execJmpDirect g disp s
  | .jmpIndirect g a => Sys2Proof.Machine.execJmpIndirect g a s
  | .callDirect g disp => Sys2Proof.Machine.execCallDirect g disp s
  | .callIndirect g a => Sys2Proof.Machine.execCallIndirect g a s
  | .ret g a => Sys2Proof.Machine.execRet g a s
  | .loop disp => Sys2Proof.Machine.execLoop disp s
  | .loopr disp => Sys2Proof.Machine.execLoopr disp s
  | .bqpush g => Sys2Proof.Machine.execBqpush g s
  | .bqbr disp => Sys2Proof.Machine.execBqbr disp s
  | .qpush a => Sys2Proof.Machine.execQpush a s
  | .qpop d => Sys2Proof.Machine.execQpop d s
  | .srget d n => Sys2Proof.Machine.execSrget d n s
  | .srset n a => Sys2Proof.Machine.execSrset n a s
  | .waitt a b => Sys2Proof.Machine.execWaitt a b s
  | .waittRel a b => Sys2Proof.Machine.execWaittRel a b s
  | .trap code => Sys2Proof.Machine.execTrap code s
  | .vadd o d a b => Sys2Proof.Machine.execVadd o d a b s
  | .vsub o d a b => Sys2Proof.Machine.execVsub o d a b s
  | .vmul o d a b => Sys2Proof.Machine.execVmul o d a b s
  | .vfma o d a b => Sys2Proof.Machine.execVfma o d a b s
  | .vmin o d a b => Sys2Proof.Machine.execVmin o d a b s
  | .vmax o d a b => Sys2Proof.Machine.execVmax o d a b s
  | .vabs o d a => Sys2Proof.Machine.execVabs o d a s
  | .vexp2 o d a => Sys2Proof.Machine.execVexp2 o d a s
  | .vlog2 o d a => Sys2Proof.Machine.execVlog2 o d a s
  | .vrcp o d a => Sys2Proof.Machine.execVrcp o d a s
  | .vrsq o d a => Sys2Proof.Machine.execVrsq o d a s
  | .vcvt o d a p u => Sys2Proof.Machine.execVcvt o d a p u s
  | .vmxq o d a s1 p => Sys2Proof.Machine.execVmxq o d a s1 p s
  | .vmxd o d a s1 p => Sys2Proof.Machine.execVmxd o d a s1 p s
  | .vcmp o g a b => Sys2Proof.Machine.execVcmp o g a b s
  | .vsel o d a b => Sys2Proof.Machine.execVsel o d a b s
  | .vand o d a b => Sys2Proof.Machine.execVand o d a b s
  | .vor o d a b => Sys2Proof.Machine.execVor o d a b s
  | .vxor o d a b => Sys2Proof.Machine.execVxor o d a b s
  | .vshl o d a b => Sys2Proof.Machine.execVshl o d a b s
  | .vshr o d a b => Sys2Proof.Machine.execVshr o d a b s
  | .vsar o d a b => Sys2Proof.Machine.execVsar o d a b s
  | .vred o op d a => Sys2Proof.Machine.execVred o op d a s
  | .vscan o op d a => Sys2Proof.Machine.execVscan o op d a s
  | .vhist o m x a sh => Sys2Proof.Machine.execVhist o m x a sh s
  | .vbcast o d a i1 => Sys2Proof.Machine.execVbcast o d a i1 s
  | .viota o d b => Sys2Proof.Machine.execViota o d b s
  | .vperm o d a b => Sys2Proof.Machine.execVperm o d a b s
  | .vseed o a => Sys2Proof.Machine.execVseed o a s
  | .vrand o d => Sys2Proof.Machine.execVrand o d s
  | .vclass o d a => Sys2Proof.Machine.execVclass o d a s
  | .vorder o inv d a => Sys2Proof.Machine.execVorder o inv d a s
  | .mmov o d a => Sys2Proof.Machine.execMmov o d a s
  | .mzero o m => Sys2Proof.Machine.execMzero o m s
  | .mxpose o d a => Sys2Proof.Machine.execMxpose o d a s
  | .mshuf o d a b => Sys2Proof.Machine.execMshuf o d a b s
  | .mma m => Sys2Proof.Machine.execMma m s
  | .mmag m => Sys2Proof.Machine.execMmag m s
  | .azero t md => Sys2Proof.Machine.execAzero t md s
  | .aread r => Sys2Proof.Machine.execAread r s
  | .awrite r => Sys2Proof.Machine.execAwrite r s
  | .asmx s1 o c => Sys2Proof.Machine.execAsmx s1 o c s
  | .arsc o f => Sys2Proof.Machine.execArsc o f s
  | .anorm o t => Sys2Proof.Machine.execAnorm o t s
  | .astat x s1 abs => Sys2Proof.Machine.execAstat x s1 abs s
  | .abias t m x row => Sys2Proof.Machine.execAbias t m x row s
  | .amov d s1 md => Sys2Proof.Machine.execAmov d s1 md s
  | .ascale t r x col => Sys2Proof.Machine.execAscale t r x col s
  | .mld mask m d p r => Sys2Proof.Machine.execMld mask m d p r s
  | .mst mask t m d r => Sys2Proof.Machine.execMst mask t m d r s
  | .pset wait p w d => Sys2Proof.Machine.execPset wait p w d s
  | .parm wait p => Sys2Proof.Machine.execParm wait p s
  | .pstop wait p => Sys2Proof.Machine.execPstop wait p s
  | .pstat wait d p => Sys2Proof.Machine.execPstat wait d p s
  | .tdef d m => Sys2Proof.Machine.execTdef d m s
  | .tfree m => Sys2Proof.Machine.execTfree m s
  | .tstate d m => Sys2Proof.Machine.execTstate d m s
  | .tfill d m => Sys2Proof.Machine.execTfill d m s
  | .tfillEmpty m => Sys2Proof.Machine.execTfillEmpty m s
  | .tfillFull m => Sys2Proof.Machine.execTfillFull m s
  | .ldf sz d m => Sys2Proof.Machine.execLdf sz d m s
  | .ldx sz d m => Sys2Proof.Machine.execLdx sz d m s
  | .ste g sz d m => Sys2Proof.Machine.execSte g sz d m s
  | .stx g sz d m => Sys2Proof.Machine.execStx g sz d m s
  | .ld strm sz d m => Sys2Proof.Machine.execLd strm sz d m s
  | .st strm g sz d m => Sys2Proof.Machine.execSt strm g sz d m s
  | .lds strm sc sz d m => Sys2Proof.Machine.execLds strm sc sz d m s
  | .sts strm sc g sz d m => Sys2Proof.Machine.execSts strm sc g sz d m s
  | .pref strm m => Sys2Proof.Machine.execPref strm m s
  | .prefAdapter d m => Sys2Proof.Machine.execPrefAdapter d m s
  | .disc d m => Sys2Proof.Machine.execDisc d m s
  | .discp d m => Sys2Proof.Machine.execDiscp d m s
  | .clean sc d m => Sys2Proof.Machine.execClean sc d m s
  | .inval sc d m => Sys2Proof.Machine.execInval sc d m s
  | .fenceRel wait sc => Sys2Proof.Machine.execFenceRel wait sc s
  | .fenceAcq wait sc => Sys2Proof.Machine.execFenceAcq wait sc s
  | .rbind d m => Sys2Proof.Machine.execRbind d m s
  | .runbind d m => Sys2Proof.Machine.execRunbind d m s
  | .srel wait sc d b => Sys2Proof.Machine.execSrel wait sc d b s
  | .sacq wait sc d b => Sys2Proof.Machine.execSacq wait sc d b s
  | .l1Eviction core line => Sys2Proof.Machine.execL1Eviction core line s
  | .cpy c sig => Sys2Proof.Machine.execCpy c sig s
  | .cpym wait k rg w waite j mask => Sys2Proof.Machine.execCpym wait k rg w waite j mask s
  | .cpyt c => Sys2Proof.Machine.execCpyt c s
  | .cpyg wait k rg scratch w waite => Sys2Proof.Machine.execCpyg wait k rg scratch w waite s
  | .walk a => Sys2Proof.Machine.execWalk a s
  | .permit wait k n => Sys2Proof.Machine.execPermit wait k n s
  | .permitLand wait rg j => Sys2Proof.Machine.execPermitLand wait rg j s
  | .permitUnland wait j => Sys2Proof.Machine.execPermitUnland wait j s
  | .tokw wait clr => Sys2Proof.Machine.execTokw wait clr s
  | .tokst wait k d => Sys2Proof.Machine.execTokst wait k d s
  | .wload wait k rg w => Sys2Proof.Machine.execWload wait k rg w s
  | .walkerLit v => Sys2Proof.Machine.execWalkerLit v s
  | .walkerLitx v => Sys2Proof.Machine.execWalkerLitx v s
  | .walkerLoop v => Sys2Proof.Machine.execWalkerLoop v s
  | .walkerFetch v => Sys2Proof.Machine.execWalkerFetch v s
  | .walkerSend v => Sys2Proof.Machine.execWalkerSend v s
  | .walkerWrite v => Sys2Proof.Machine.execWalkerWrite v s
  | .walkerAwait v => Sys2Proof.Machine.execWalkerAwait v s
  | .walkerSignal v => Sys2Proof.Machine.execWalkerSignal v s
  | .walkerTok v => Sys2Proof.Machine.execWalkerTok v s
  | .walkerCall v => Sys2Proof.Machine.execWalkerCall v s
  | .sadd a => Sys2Proof.Machine.execSadd a s
  | .sfadd a => Sys2Proof.Machine.execSfadd a s
  | .sfaddLive a => Sys2Proof.Machine.execSfaddLive a s
  | .scas a => Sys2Proof.Machine.execScas a s
  | .sset a => Sys2Proof.Machine.execSset a s
  | .ssetm g s1 o mask cluster all => Sys2Proof.Machine.execSsetm g s1 o mask cluster all s
  | .swait c p s1 o => Sys2Proof.Machine.execSwait c p s1 o s
  | .swaitv c p s1 o => Sys2Proof.Machine.execSwaitv c p s1 o s
  | .sdecl clr s1 => Sys2Proof.Machine.execSdecl clr s1 s
  | .prio c => Sys2Proof.Machine.execPrio c s
  | .enq m s1 stage cls hasCls join => Sys2Proof.Machine.execEnq m s1 stage cls hasCls join s
  | .splitAny m s1 o c slotw kw => Sys2Proof.Machine.execSplitAny m s1 o c slotw kw s
  | .splitHere s1 o c slotw kw => Sys2Proof.Machine.execSplitHere s1 o c slotw kw s
  | .retire tree => Sys2Proof.Machine.execRetire tree s
  | .recordAdmission launch stage => Sys2Proof.Machine.execRecordAdmission launch stage s
  | .taskDispatch launch => Sys2Proof.Machine.execTaskDispatch launch s
  | .gpset n a b x => Sys2Proof.Machine.execGpset n a b x s
  | .gpget d n b x => Sys2Proof.Machine.execGpget d n b x s
  | .xlq d a res => Sys2Proof.Machine.execXlq d a res s
  | .eqpush d a b => Sys2Proof.Machine.execEqpush d a b s
  | .sslack d a x => Sys2Proof.Machine.execSslack d a x s
  | .srung d a => Sys2Proof.Machine.execSrung d a s
  | .srungPin d a => Sys2Proof.Machine.execSrungPin d a s
  | .srungUnpin d a => Sys2Proof.Machine.execSrungUnpin d a s
  | .samp k a => Sys2Proof.Machine.execSamp k a s
  | .bpost d a => Sys2Proof.Machine.execBpost d a s
  | .bstat d a x => Sys2Proof.Machine.execBstat d a x s
  | .ckpt d a b => Sys2Proof.Machine.execCkpt d a b s
  | .ckptSize d => Sys2Proof.Machine.execCkptSize d s
  | .dbgSt d a => Sys2Proof.Machine.execDbgSt d a s
  | .dbgRd d a b => Sys2Proof.Machine.execDbgRd d a b s
  | .dbgWr d a b => Sys2Proof.Machine.execDbgWr d a b s
  | .dbgHalt a => Sys2Proof.Machine.execDbgHalt a s
  | .dbgGo a => Sys2Proof.Machine.execDbgGo a s
  | .backfaultResolved ctx => Sys2Proof.Machine.execBackfaultResolved ctx s
  | .backfaultTimeout ctx => Sys2Proof.Machine.execBackfaultTimeout ctx s
  | .taskRestore saved => Sys2Proof.Machine.execTaskRestore saved s
  | .residencyAllocate ctx va => Sys2Proof.Machine.execResidencyAllocate ctx va s
  | .doorbell fn q width v => Sys2Proof.Machine.execDoorbell fn q width v s
  | .launch c => Sys2Proof.Machine.execLaunch c s
  | .replay c => Sys2Proof.Machine.execReplay c s
  | .setgp c => Sys2Proof.Machine.execSetgp c s
  | .specdepth c => Sys2Proof.Machine.execSpecdepth c s
  | .fenceIb c => Sys2Proof.Machine.execFenceIb c s
  | .wait c => Sys2Proof.Machine.execWait c s
  | .signal c => Sys2Proof.Machine.execSignal c s
  | .slotfree c => Sys2Proof.Machine.execSlotfree c s
  | .commandCompletion q => Sys2Proof.Machine.execCommandCompletion q s
  | .mapload c => Sys2Proof.Machine.execMapload c s
  | .mapset c => Sys2Proof.Machine.execMapset c s
  | .reserve c => Sys2Proof.Machine.execReserve c s
  | .latepool c => Sys2Proof.Machine.execLatepool c s
  | .migrate c => Sys2Proof.Machine.execMigrate c s
  | .streamOpen c => Sys2Proof.Machine.execStreamOpen c s
  | .streamClose c => Sys2Proof.Machine.execStreamClose c s
  | .streamUpdate c => Sys2Proof.Machine.execStreamUpdate c s
  | .frameStart st => Sys2Proof.Machine.execFrameStart st s
  | .encoderTileRead st => Sys2Proof.Machine.execEncoderTileRead st s
  | .frameComplete st => Sys2Proof.Machine.execFrameComplete st s
  | .decode c => Sys2Proof.Machine.execDecode c s
  | .samplerRequest engine => Sys2Proof.Machine.execSamplerRequest engine s
  | .groupOpen c => Sys2Proof.Machine.execGroupOpen c s
  | .groupClose c => Sys2Proof.Machine.execGroupClose c s
  | .siblingRelease gid i1 => Sys2Proof.Machine.execSiblingRelease gid i1 s
  | .groupRecord gid => Sys2Proof.Machine.execGroupRecord gid s
  | .debug c => Sys2Proof.Machine.execDebug c s
  | .ctxreset c => Sys2Proof.Machine.execCtxreset c s
  | .attest c => Sys2Proof.Machine.execAttest c s
  | .l2PatrolScrub slice => Sys2Proof.Machine.execL2PatrolScrub slice s
  | .memoryScrub pa => Sys2Proof.Machine.execMemoryScrub pa s
  | .errorHandling corrected p => Sys2Proof.Machine.execErrorHandling corrected p s
  | .contextTermination ctx => Sys2Proof.Machine.execContextTermination ctx s
  | .wayQuarantine slice way => Sys2Proof.Machine.execWayQuarantine slice way s
  | .mboutHead fn v => Sys2Proof.Machine.execMboutHead fn v s
  | .mbinTail fn v => Sys2Proof.Machine.execMbinTail fn v s
  | .registerWrite fn off v => Sys2Proof.Machine.execRegisterWrite fn off v s
  | .watchdogHang k crash => Sys2Proof.Machine.execWatchdogHang k crash s
  | .powerBoundary mw => Sys2Proof.Machine.execPowerBoundary mw s
  | .operatingPointChange cluster mhz => Sys2Proof.Machine.execOperatingPointChange cluster mhz s
  | .temperatureSample cluster deg => Sys2Proof.Machine.execTemperatureSample cluster deg s
  | .voltageDroop cluster => Sys2Proof.Machine.execVoltageDroop cluster s
  | .ptmSync add skip => Sys2Proof.Machine.execPtmSync add skip s
  | .contextReset ctx => Sys2Proof.Machine.execContextReset ctx s
  | .firmwareLoad l => Sys2Proof.Machine.execFirmwareLoad l s
  | .hostMemoryWrite ctx va bytes => Sys2Proof.Machine.execHostMemoryWrite ctx va bytes s
  | .peerPortRequest r => Sys2Proof.Machine.execPeerPortRequest r s
  | .routingTableUpdate r => Sys2Proof.Machine.execRoutingTableUpdate r s
  | .lpddrTrainingDone k passed => Sys2Proof.Machine.execLpddrTrainingDone k passed s
  | .cxlLinkChange port up cap => Sys2Proof.Machine.execCxlLinkChange port up cap s
  | .droopRecovery cluster => Sys2Proof.Machine.execDroopRecovery cluster s
  | .nop => Sys2Proof.Machine.execNop s
  | .waittHoldEnd => Sys2Proof.Machine.execWaittHoldEnd s
  | .end_ => Sys2Proof.Machine.execEnd s
  | .brk => Sys2Proof.Machine.execBrk s
  | .hintServe => Sys2Proof.Machine.execHintServe s
  | .cpytDue => Sys2Proof.Machine.execCpytDue s
  | .copyRow => Sys2Proof.Machine.execCopyRow s
  | .tokenComplete => Sys2Proof.Machine.execTokenComplete s
  | .walkerDup => Sys2Proof.Machine.execWalkerDup s
  | .walkerDrop => Sys2Proof.Machine.execWalkerDrop s
  | .walkerSwap => Sys2Proof.Machine.execWalkerSwap s
  | .walkerOver => Sys2Proof.Machine.execWalkerOver s
  | .walkerAdd => Sys2Proof.Machine.execWalkerAdd s
  | .walkerSub => Sys2Proof.Machine.execWalkerSub s
  | .walkerMul => Sys2Proof.Machine.execWalkerMul s
  | .walkerShl => Sys2Proof.Machine.execWalkerShl s
  | .walkerAnd => Sys2Proof.Machine.execWalkerAnd s
  | .walkerEndl => Sys2Proof.Machine.execWalkerEndl s
  | .walkerRet => Sys2Proof.Machine.execWalkerRet s
  | .walkerHalt => Sys2Proof.Machine.execWalkerHalt s
  | .walkerLaunchDone => Sys2Proof.Machine.execWalkerLaunchDone s
  | .slotOperation => Sys2Proof.Machine.execSlotOperation s
  | .remoteWaitRetry => Sys2Proof.Machine.execRemoteWaitRetry s
  | .yield => Sys2Proof.Machine.execYield s
  | .taskRetirement => Sys2Proof.Machine.execTaskRetirement s
  | .bankSwitch => Sys2Proof.Machine.execBankSwitch s
  | .bchk => Sys2Proof.Machine.execBchk s
  | .taskSave => Sys2Proof.Machine.execTaskSave s
  | .shadowEntryPerform => Sys2Proof.Machine.execShadowEntryPerform s
  | .stageBalancer => Sys2Proof.Machine.execStageBalancer s
  | .ballotApply => Sys2Proof.Machine.execBallotApply s
  | .qreset => Sys2Proof.Machine.execQreset s
  | .qcreate => Sys2Proof.Machine.execQcreate s
  | .qdestroy => Sys2Proof.Machine.execQdestroy s
  | .lcreq => Sys2Proof.Machine.execLcreq s
  | .lifecycleWipeDone => Sys2Proof.Machine.execLifecycleWipeDone s
  | .dbgreq => Sys2Proof.Machine.execDbgreq s
  | .fltread => Sys2Proof.Machine.execFltread s
  | .unknownMailboxRequest => Sys2Proof.Machine.execUnknownMailboxRequest s
  | .enterHostDrivenMode => Sys2Proof.Machine.execEnterHostDrivenMode s
  | .runOneCommand => Sys2Proof.Machine.execRunOneCommand s
  | .restartFennelCores => Sys2Proof.Machine.execRestartFennelCores s
  | .leaveHostDrivenMode => Sys2Proof.Machine.execLeaveHostDrivenMode s
  | .readFaultRecord => Sys2Proof.Machine.execReadFaultRecord s
  | .readDeviceMemory => Sys2Proof.Machine.execReadDeviceMemory s
  | .deviceReset => Sys2Proof.Machine.execDeviceReset s
  | .fullService => Sys2Proof.Machine.execFullService s
  | .powerUp => Sys2Proof.Machine.execPowerUp s

end Sys2Proof.Machine
end

