-- ==== Sys2Proof/Machine/Group.lean ====
section
/-! DEFINITION. Issue groups: the slots (04 R79), the words that end a group (R80), the legal strands (R81), the resources
that a word names (R82) and the ILL condition that a group reports (R83, R98). -/

namespace Sys2Proof.Machine

/-! ### Slots, strands and stop bits, by major (04 R79-R81, R96) -/

/-- MAJ of a word. -/
def majOf (w : Word) : Nat := (fld w 56 7).toNat

/-- The X-strand slot class of a major: 0 S, 1 V, 2 M, 3 P; none where the major is not legal there (R96). `bstat` is
legal on the A-strand only. -/
def slotX (w : Word) : Option Nat :=
  let m := majOf w
  if m ≤ 0x08 then some 0
  else if 0x10 ≤ m && m ≤ 0x15 then some 0
  else if m = 0x17 then some 0
  else if m = 0x18 || m = 0x19 then some 3
  else if 0x1A ≤ m && m ≤ 0x1F then some 0
  else if 0x20 ≤ m && m ≤ 0x3F then some 1
  else if 0x40 ≤ m && m ≤ 0x4B then some 2
  else if 0x4C ≤ m && m ≤ 0x4F then some 1
  else if m = 0x56 || m = 0x57 then some 3
  else if m = 0x7A && fld w 50 6 != 1 then some 0
  else none

/-- The A-strand slot class of a major: 0 S, 1 MEM, 2 SEM; none where the major is not legal there (R96). -/
def slotA (w : Word) : Option Nat :=
  let m := majOf w
  if m ≤ 0x08 then some 0
  else if 0x10 ≤ m && m ≤ 0x14 then some 0
  else if m = 0x16 then some 0
  else if m = 0x18 || m = 0x19 then some 1
  else if 0x1A ≤ m && m ≤ 0x1C then some 2
  else if 0x1D ≤ m && m ≤ 0x1F then some 0
  else if 0x50 ≤ m && m ≤ 0x55 then some 1
  else if 0x58 ≤ m && m ≤ 0x67 then some 1
  else if 0x68 ≤ m && m ≤ 0x73 then some 2
  else if 0x78 ≤ m && m ≤ 0x7A then some 2
  else if m = 0x7C || m = 0x7D then some 2
  else none

/-- The slot class of a word on a strand. -/
def slotOn (sd : Side) (w : Word) : Option Nat :=
  match sd with
  | .a => slotA w
  | .x => slotX w

/-- Slots of a group of a strand (R79). -/
def slotCount : Side → Nat
  | .a => 3
  | .x => 4

/-- The majors whose instructions end their group (R80). -/
def endsGroup (w : Word) : Bool :=
  let m := majOf w
  (0x10 ≤ m && m ≤ 0x15) || m = 0x17 || (0x1D ≤ m && m ≤ 0x1F) || m = 0x6E

/-! ### Resources (R82) -/

/-- A resource that a word names. Queues: 0 aq, 1 xq, 2 bq; load ports 0-7, store ports 8-11. -/
inductive Res where
  | s (n : Nat)
  | p (n : Nat)
  | g (n : Nat)
  | m (n : Nat)
  | a (n : Nat)
  | port (n : Nat)
  | queue (n : Nat)
  | sys (n : Nat)
  | tok (n : Nat)
  deriving DecidableEq, Repr

/-- A resource with whether the use counts as a write. -/
abbrev Use := Res × Bool

/-- A scalar source. -/
def rS (r : Reg) : List Use := if r = 0 then [] else [(.s r.toNat, false)]

/-- A scalar destination. -/
def wS (r : Reg) : List Use := if r = 0 then [] else [(.s r.toNat, true)]

/-- A second operand. -/
def rB : Src → List Use
  | .reg r => rS r
  | .imm _ => []

/-- A guard or a predicate source. -/
def rP (g : Guard) : List Use :=
  let n := (g.extractLsb' 0 3).toNat
  if n = 0 then [] else [(.p n, false)]

/-- A predicate destination. -/
def wP (p : BitVec 3) : List Use := if p = 0 then [] else [(.p p.toNat, true)]

/-- A mask that is read. -/
def rG (g : BitVec 3) : List Use := if g = 0 then [] else [(.g g.toNat, false)]

/-- A matrix register; a ring name also reads RRB. -/
def useM (m : BitVec 6) (w : Bool) : List Use := (.m m.toNat, w) :: (if 32 ≤ m.toNat then [(.sys 8, false)] else [])

/-- A tile. -/
def useA (t : BitVec 6) (w : Bool) : List Use := [(.a t.toNat, w)]

/-- An operand of the V format. -/
def useO (w : Bool) : Opd → List Use
  | .slice dir m x => useM m w ++ (if dir = 3 then rS x else [])
  | .loadPort p => [(.port p.toNat, true)]
  | .storePort t => [(.port (8 + t.toNat), true)]
  | .aq => [(.queue 0, true)]
  | .sreg r => rS r
  | .const _ => []
  | .zero => []

/-- The common fields of a V-format instruction: MASK, and RNDM where RND is 110 (06 R142). -/
def useV (o : VOp) : List Use := rG o.mask ++ (if o.rnd = 6 then [(.sys 10, false)] else [])

/-- One destination, one source. -/
def useDA (o : VOp) (d a : Opd) : List Use := useV o ++ useO true d ++ useO false a

/-- One destination, two sources. -/
def useDAB (o : VOp) (d a b : Opd) : List Use := useDA o d a ++ useO false b

/-- A WAIT8 set. -/
def useW (w : BitVec 8) : List Use := (List.range 8).filterMap fun k => if w.getLsbD k then some (.tok k, false) else none

/-- An address of the MA format. -/
def useMA (m : MAddr) : List Use := useW m.wait ++ rS m.base

/-- The record registers sR, sR + 1, … -/
def recRegs (r : Reg) (n : Nat) : List Use := (List.range n).flatMap fun k => rS (BitVec.ofNat 6 (r.toNat + k))

/-- A copy: record, WAIT8, and the token it binds. -/
def useCp (w : BitVec 8) (k : BitVec 3) (r : Reg) (n : Nat) : List Use := useW w ++ [(.tok k.toNat, true)] ++ recRegs r n

/-- Three scalar operands of the SM and SY formats: destination, sources. -/
def useSm (d : List Use) (a b : Reg) : List Use := d ++ rS a ++ rS b

/-- The resources that an instruction of a strand names (R82). -/
def uses (sd : Side) : Instr → List Use
  | .add d a b => wS d ++ rS a ++ rB b
  | .sub d a b => wS d ++ rS a ++ rB b
  | .mul d a b => wS d ++ rS a ++ rB b
  | .mulhI d a b => wS d ++ rS a ++ rB b
  | .mulhN d a b => wS d ++ rS a ++ rB b
  | .divI d a b => wS d ++ rS a ++ rB b
  | .divN d a b => wS d ++ rS a ++ rB b
  | .remI d a b => wS d ++ rS a ++ rB b
  | .remN d a b => wS d ++ rS a ++ rB b
  | .and d a b => wS d ++ rS a ++ rB b
  | .or d a b => wS d ++ rS a ++ rB b
  | .xor d a b => wS d ++ rS a ++ rB b
  | .andn d a b => wS d ++ rS a ++ rB b
  | .shl d a b => wS d ++ rS a ++ rB b
  | .shr d a b => wS d ++ rS a ++ rB b
  | .sar d a b => wS d ++ rS a ++ rB b
  | .rotl d a b => wS d ++ rS a ++ rB b
  | .minI d a b => wS d ++ rS a ++ rB b
  | .minN d a b => wS d ++ rS a ++ rB b
  | .maxI d a b => wS d ++ rS a ++ rB b
  | .maxN d a b => wS d ++ rS a ++ rB b
  | .clz d a => wS d ++ rS a
  | .popc d a => wS d ++ rS a
  | .bext d a _ _ => wS d ++ rS a
  | .bextI d a _ _ => wS d ++ rS a
  | .bins d a _ _ => wS d ++ rS d ++ rS a
  | .li d _ => wS d
  | .liN d _ => wS d
  | .lui d _ => wS d ++ rS d
  | .lea d a b _ => wS d ++ rS a ++ rB b
  | .cmp _ p a b => wP p ++ rS a ++ rB b
  | .popAnd p x y => wP p ++ rP x ++ rP y
  | .popOr p x y => wP p ++ rP x ++ rP y
  | .popXor p x y => wP p ++ rP x ++ rP y
  | .sel g d c a b => rP g ++ wS d ++ rP c ++ rS a ++ rB b
  | .br g _ => rP g
  | .jmpDirect g _ => rP g
  | .jmpIndirect g a => rP g ++ rS a
  | .callDirect g _ => rP g ++ wS 63
  | .callIndirect g a => rP g ++ wS 63 ++ rS a
  | .ret g a => rP g ++ rS a
  | .loop _ => [(.sys 9, false)]
  | .loopr _ => [(.sys 9, false)]
  | .bqpush g => rP g ++ [(.queue 2, true)]
  | .bqbr _ => [(.queue 2, true)]
  | .qpush a => rS a ++ [(.queue (match sd with | .a => 0 | .x => 1), true)]
  | .qpop d => wS d ++ [(.queue (match sd with | .a => 1 | .x => 0), true)]
  | .srget d n => wS d ++ [(.sys n.toNat, false)]
  | .srset n a => rB a ++ [(.sys n.toNat, true)]
  | .waitt a b => rS a ++ rB b
  | .waittRel a b => rS a ++ rB b
  | .vadd o d a b => useDAB o d a b
  | .vsub o d a b => useDAB o d a b
  | .vmul o d a b => useDAB o d a b
  | .vfma o d a b => useDAB o d a b
  | .vmin o d a b => useDAB o d a b
  | .vmax o d a b => useDAB o d a b
  | .vabs o d a => useDA o d a
  | .vexp2 o d a => useDA o d a
  | .vlog2 o d a => useDA o d a
  | .vrcp o d a => useDA o d a
  | .vrsq o d a => useDA o d a
  | .vcvt o d a _ _ => useDA o d a
  | .vmxq o d a s _ => useDA o d a ++ rS s ++ wS s
  | .vmxd o d a s _ => useDA o d a ++ rS s
  | .vcmp o g a b => useV o ++ (if g = 0 then [] else [(.g g.toNat, true)]) ++ useO false a ++ useO false b
  | .vsel o d a b => useDAB o d a b
  | .vand o d a b => useDAB o d a b
  | .vor o d a b => useDAB o d a b
  | .vxor o d a b => useDAB o d a b
  | .vshl o d a b => useDAB o d a b
  | .vshr o d a b => useDAB o d a b
  | .vsar o d a b => useDAB o d a b
  | .vred o _ d a => useDA o d a
  | .vscan o _ d a => useDA o d a
  | .vhist o m _ a _ => useV o ++ useM m true ++ useO false a
  | .vbcast o d a i => useDA o d a ++ (match i with | .sreg r => rS r | .imm _ => [])
  | .viota o d b => useV o ++ useO true d ++ (match b with | .sreg r => rS r | .zero => [])
  | .vperm o d a b => useDAB o d a b
  | .vseed o a => useV o ++ rS a
  | .vrand o d => useV o ++ useO true d
  | .vclass o d a => useDA o d a
  | .vorder o _ d a => useDA o d a
  | .mmov o d a => useDA o d a
  | .mzero o m => useV o ++ useM m true
  | .mxpose o d a => useV o ++ useM d true ++ useM a false
  | .mshuf o d a b => useV o ++ useM d true ++ useM a false ++ useO false b
  | .mma m =>
    useA m.acc true ++ (if m.ta then useA m.aux false else [(.port m.pa.toNat, true)]) ++ [(.port m.pb.toNat, true)] ++
      (if 12 ≤ m.ety.toNat then useM m.sa false ++ useM m.sb false else []) ++ (if m.q then [(.sys 11, false)] else [])
  | .mmag m =>
    useA m.acc true ++ [(.port m.pa.toNat, true), (.port m.pb.toNat, true)] ++ (if m.q then [(.sys 11, false)] else [])
  | .azero t _ => useA t true
  | .aread r => useA r.acc false ++ useM r.m true ++ (if r.rnd = 6 then [(.sys 10, false)] else [])
  | .awrite r => useA r.acc true ++ useM r.m false
  | .asmx s o _ => useA s true ++ useA o true
  | .arsc o f => useA o true ++ useA f false
  | .anorm o t => useA o true ++ useA t false
  | .astat x s _ => useA x true ++ useA s false
  | .abias t m _ _ => useA t true ++ useM m false
  | .amov d s _ => useA d true ++ useA s false
  | .ascale t r _ col => useA t true ++ (if col then useM r false else rS r)
  | .mld k m _ p _ => rG k ++ useM m true ++ [(.port p.toNat, true)]
  | .mst k t m _ _ => rG k ++ useM m false ++ [(.port (8 + t.toNat), true)]
  | .pset w p _ d => useW w ++ [(.port p.toNat, true)] ++ rS d
  | .parm w p => useW w ++ [(.port p.toNat, true)]
  | .pstop w p => useW w ++ [(.port p.toNat, true)]
  | .pstat w d p => useW w ++ wS d ++ [(.port p.toNat, true)]
  | .tdef d m => useMA m ++ rS d
  | .tfree m => useMA m
  | .tstate d m => useMA m ++ wS d
  | .tfill d m => useMA m ++ rS d
  | .tfillEmpty m => useMA m
  | .tfillFull m => useMA m
  | .ldf _ d m => useMA m ++ wS d
  | .ldx _ d m => useMA m ++ wS d
  | .ste g _ d m => useMA m ++ rP g ++ rS d
  | .stx g _ d m => useMA m ++ rP g ++ rS d
  | .ld _ _ d m => useMA m ++ wS d
  | .st _ g _ d m => useMA m ++ rP g ++ rS d
  | .lds _ _ _ d m => useMA m ++ wS d
  | .sts _ _ g _ d m => useMA m ++ rP g ++ rS d
  | .pref _ m => useMA m
  | .prefAdapter d m => useMA m ++ rS d
  | .disc d m => useMA m ++ rS d
  | .discp d m => useMA m ++ rS d
  | .clean _ d m => useMA m ++ rS d
  | .inval _ d m => useMA m ++ rS d
  | .fenceRel w _ => useW w
  | .fenceAcq w _ => useW w
  | .rbind d m => useMA m ++ rS d
  | .runbind d m => useMA m ++ rS d
  | .srel w _ d b => useW w ++ rS d ++ rS b
  | .sacq w _ d b => useW w ++ rS d ++ rS b
  | .cpy c _ => useCp c.wait c.k c.rg 6
  | .cpym w k r _ _ _ _ => useCp w k r 6
  | .cpyt c => useCp c.wait c.k c.rg 6
  | .cpyg w k r _ _ _ => useCp w k r 6
  | .walk a => useCp a.wait a.k a.rg a.npar.toNat
  | .permit w _ _ => useW w
  | .permitLand w r _ => useW w ++ recRegs r 2
  | .permitUnland w _ => useW w
  | .tokw w _ => useW w
  | .tokst w k d => useW w ++ [(.tok k.toNat, false)] ++ wS d
  | .wload w k r _ => useCp w k r 2
  | .sadd a => rP a.g ++ useSm [] a.s a.o
  | .sfadd a => rP a.g ++ useSm (wS a.d) a.s a.o
  | .sfaddLive a => rP a.g ++ useSm (wS a.d) a.s a.o
  | .scas a => rP a.g ++ useSm (wS a.d ++ rS a.d) a.s a.o
  | .sset a => rP a.g ++ useSm [] a.s a.o
  | .ssetm g s o _ _ _ => rP g ++ useSm [] s o
  | .swait _ p s o => wP p ++ useSm [] s o
  | .swaitv _ p s o => wP p ++ useSm [] s o
  | .sdecl _ s => rS s
  | .enq m s _ _ _ _ => rS m ++ rS s
  | .splitAny m s o _ _ _ => rS m ++ rS s ++ rS o
  | .splitHere s o _ _ _ => rS s ++ rS o
  | .gpset _ a b _ => useSm [] a b
  | .gpget d _ b _ => wS d ++ rS b
  | .xlq d a _ => wS d ++ rS a
  | .eqpush d a b => useSm (wS d) a b
  | .sslack d a _ => wS d ++ rS a
  | .srung d a => wS d ++ rS a
  | .srungPin d a => wS d ++ rS a
  | .srungUnpin d a => wS d ++ rS a
  | .samp k a => [(.tok k.toNat, true)] ++ rS a
  | .bpost d a => wS d ++ rS a
  | .bstat d a _ => wS d ++ rS a
  | .ckpt d a b => useSm (wS d) a b
  | .ckptSize d => wS d
  | .dbgSt d a => wS d ++ rS a
  | .dbgRd d a b => useSm (wS d) a b
  | .dbgWr d a b => useSm (rS d) a b
  | .dbgHalt a => rS a
  | .dbgGo a => rS a
  | _ => []

/-- Two uses of one resource of which one writes it. -/
def clash (l k : List Use) : Bool := l.any fun x => k.any fun y => x.1 == y.1 && (x.2 || y.2)

/-! ### The conditions of a group (R83, R98) -/

/-- A word that was decoded, with its address. -/
structure GWord where
  pc : Word
  w : Word
  i : Option Instr
  deriving DecidableEq, Repr

/-- Tiles of the accumulator window that an instruction names (07 R168). -/
def accTiles : Instr → List Nat
  | .mma m => m.acc.toNat :: (if m.ta then [m.aux.toNat] else [])
  | .mmag m => [m.acc.toNat]
  | .azero t _ => [t.toNat]
  | .aread r => [r.acc.toNat]
  | .awrite r => [r.acc.toNat]
  | .asmx s o _ => [s.toNat, o.toNat]
  | .arsc o f => [o.toNat, f.toNat]
  | .anorm o t => [o.toNat, t.toNat]
  | .astat x s _ => [x.toNat, s.toNat]
  | .abias t _ _ _ => [t.toNat]
  | .amov d s _ => [d.toNat, s.toNat]
  | .ascale t _ _ _ => [t.toNat]
  | _ => []

/-- Matrix registers that an instruction names. -/
def mregsOf (i : Instr) : List Nat := (uses .x i).filterMap fun u => match u.1 with | .m n => some n | _ => none

/-- A write of a system register that 03 R75 does not permit to the strand (05 R132). -/
def srsetBad (sd : Side) (n : Nat) : Bool :=
  !(n == 0x09 || n == 0x0B || (match sd with | .x => n == 0x08 || n == 0x0A | .a => n == 0x12))

/-- The lower of two subcodes. -/
def lowerSub : Option Nat → Option Nat → Option Nat
  | none, b => b
  | a, none => a
  | some a, some b => some (min a b)

/-- The subcode of a condition. -/
def subIf (b : Bool) (n : Nat) : Option Nat := if b then some n else none

/-- The lowest ILL subcode of the word at place `k` of a group, given the slot classes and uses of the words before it:
its own decode conditions, the group's composition and dependences charged to it, the legal strand, the stop bit, a
system register write not permitted, tiles outside the window and matrix registers not declared. -/
def wordIll (t : Task) (sd : Side) (k : Nat) (before : List (Option Nat × List Use)) (w : Word) : Option Nat :=
  let dec := decodeWord w
  let own := match dec with | .ok _ => none | .flawed n _ => some n | .ill n => some n
  let i := match dec with | .ok i => some i | .flawed _ i => some i | .ill _ => none
  let us := match i with | some i => uses sd i | none => []
  let slot := slotOn sd w
  let assigned := match dec with | .ill 1 => false | _ => true
  let more := match i with
    | none => none
    | some i =>
      lowerSub (subIf (match i with | .srset n _ => srsetBad sd n.toNat | _ => false) 0x0D)
        (lowerSub (subIf ((accTiles i).any fun a => decide (t.win.acSize ≤ a)) 0x21)
          (subIf ((mregsOf i).any fun m => decide (t.who.n ≤ m)) 0x22))
  lowerSub own (lowerSub (subIf (slotCount sd ≤ k || (slot.isSome && before.any fun b => b.1 == slot)) 5)
    (lowerSub (subIf (before.any fun b => clash b.2 us) 6)
      (lowerSub (subIf (assigned && slot.isNone) 7) (lowerSub (subIf (endsGroup w && !stopBit w) 8) more))))

/-- The ILL condition that a group reports: that of its lowest-addressed word that has one (R83). -/
def groupIll (t : Task) (sd : Side) : Nat → List (Option Nat × List Use) → List Word → Option Nat
  | _, _, [] => none
  | k, before, w :: ws =>
    match wordIll t sd k before w with
    | some n => some n
    | none =>
      let us := match decodeWord w with | .ok i => uses sd i | .flawed _ i => uses sd i | .ill _ => []
      groupIll t sd (k + 1) (before ++ [(slotOn sd w, us)]) ws

/-- The instructions of a group that passed. -/
def groupInstrs : Word → List Word → List GWord
  | _, [] => []
  | pc, w :: ws =>
    { pc := pc, w := w, i := match decodeWord w with | .ok i => some i | _ => none } :: groupInstrs (pc + 1) ws

end Sys2Proof.Machine
end

