-- ==== Sys2Proof/Machine/Issue.lean ====
section
/-! DEFINITION. One cc of a core: the fetch and check of an issue group (04 R78-R83, 05 R122), the X-strand's issue cycles with
freezes and deferred accesses (04 R100-R106, 07 R172, 03 R66, R68), the A-strand's scoreboard and partial groups (04 R102, 19 R410),
and what begins a cc (05 R130, 08 R197, R214). -/

namespace Sys2Proof.Machine

/-! ### Fetching a group (R78; 05 R122; 16 R344) -/

/-- The words of a group from an address to its stop bit, with the condition that ended the fetch, if one did. The fuel is one more than
the strand's slots: with that many words the group's composition is already wrong (R79). -/
def State.fetchGroup (s : State) (core ctx : Nat) : Nat → Word → List Word → List Word × Option Fetched
  | 0, _, l => (l, none)
  | n + 1, pc, l =>
    match s.fetchWord core ctx pc with
    | .word w => if stopBit w then (l ++ [w], none) else s.fetchGroup core ctx n (pc + 1) (l ++ [w])
    | f => (l, some f)

/-- A fetch behind a condition of BACK (16 R344): access kind 2. -/
def fetchBack (s : State) (t : Task) (sd : Side) (sub va : Nat) (pc : Word) : State :=
  let t1 := { t.setTrap sd 4 sub pc with susp := some (Susp.back (BitVec.ofNat 8 sub)) }
  (s.putHere t1).holdFault t.who.ctx
    { sub := BitVec.ofNat 8 sub, chip := none, va := va, kind := 2, core := s.cur.core, bank := s.cur.bank, id := t.who.id,
      at_ := s.dt.toNat, saved := none, job := none }

/-- Why a strand has no group to issue: it waits, with the line that missed in the instruction cache if that is the reason (04 R104),
or it meets a condition. -/
inductive NoGroup where
  | wait (miss : Option Nat)
  | trap (s : State)
  deriving DecidableEq, Repr

/-- A condition of a fetch, taken by the strand: a taken branch is charged with it (05 R122). -/
def fetchTrap (s : State) (t : Task) (sd : Side) (f : Fetched) : NoGroup :=
  let st := t.st sd
  let pc := st.via.getD st.pc
  match f with
  | .word _ => .wait none
  | .held => .wait none
  | .miss line => .wait (some line)
  | .bad code sub va => .trap (if code = 4 then fetchBack s t sd sub va pc else enterTrap s sd code sub pc)
  | .poison sec sub => .trap (dataTrapAt s t sd sec sub pc)

/-- The next group of a strand: its words, or why there is none. -/
def nextGroup (s : State) (t : Task) (sd : Side) : Except NoGroup (List Word) :=
  let pc := (t.st sd).pc
  let (l, c) := s.fetchGroup s.cur.core t.who.ctx (slotCount sd + 1) pc []
  match groupIll t sd 0 [] l with
  | some n => .error (.trap (enterTrap s sd 1 n pc))
  | none =>
    match c with
    | some f => .error (fetchTrap s t sd f)
    | none => .ok l

/-! ### One word -/

/-- The acting task with a strand's pc set, ready to run a word. -/
def State.setPc (s : State) (sd : Side) (pc : Word) : State :=
  match s.here with
  | none => s
  | some t => { s.putHere (t.onSt sd fun st => { st with pc := pc }) with stall := none, trapped := false }

/-- What running one word of a group gives. -/
inductive Ran where
  | ok (s : State)
  | kept (s : State)
  | stalled (why : Nat)
  | trapped (s : State)
  deriving DecidableEq, Repr

/-- The `mld` or `mst` that a word of a group launched carries the word as fetched (19 R419). -/
def State.worded (s : State) (g : GWord) : State :=
  match g.i, s.here with
  | some (.mld ..), some t | some (.mst ..), some t =>
    s.putHere (t.onX fun x => { x with flights := x.flights.modify (x.flights.length - 1) fun f => { f with word := g.w } })
  | _, _ => s

/-- A word run at its address. -/
def runWord (s : State) (sd : Side) (g : GWord) : Ran :=
  match g.i with
  | none => .ok s
  | some i =>
    match exec i (s.setPc sd g.pc) with
    | .next s1 =>
      match s1.stall with
      | some 5 => .kept { s1 with stall := none }
      | some k => .stalled k
      | none => if s1.trapped then .trapped s1 else .ok (s1.worded g)
    | _ => .ok s

/-! ### The X-strand -/

/-- How the words of a group fare in an issue cycle: the state so far, the ports waited on, the reasons not to issue, the trap of
the lowest word, and a QUEUE, which no freeze of another word hides (08 R209). -/
structure XRun where
  s : State
  ports : BitVec 12
  frozen : Bool
  empty : Bool
  reload : Bool
  trap : Option State
  quit : Option State
  deriving DecidableEq, Repr

/-- A trap of a word, taken at the boundary before its group with nothing of the group issued (04 R83, 19 R410): `base` is the
state at the boundary, `s1` the state in which the word met the condition. -/
def trapAlone (base : State) (g : GWord) (s1 : State) : State :=
  match s1.here with
  | none => base
  | some t =>
    let alone := enterTrap base .x t.x.trap.code.toNat t.x.trap.sub.toNat t.x.trappc
    match runWord base .x g with
    | .trapped b =>
      match b.here with
      | some u => if u.x.trap = t.x.trap && u.x.trappc = t.x.trappc then b else alone
      | none => alone
    | _ => alone

/-- One more word of a group: the first that traps stands, and the first that raises QUEUE. A word that waits has no effect; the
words after it are looked at for their own conditions. The words run in address order, in which two that step the lane generators
step them (DESIGN CHOICE, log 105). -/
def xWord (base : State) (r : XRun) (g : GWord) : XRun :=
  match runWord r.s .x g with
  | .ok s1 => { r with s := s1 }
  | .kept s1 => { r with s := s1 }
  | .trapped s1 =>
    let b := trapAlone base g s1
    { r with trap := r.trap.orElse fun _ => some b, quit := if s1.quits then r.quit.orElse fun _ => some b else r.quit }
  | .stalled k =>
    if k = 2 then { r with empty := true }
    else if k = 3 then { r with reload := true }
    else if k % 16 = 4 then { r with reload := true, frozen := true, ports := r.ports ||| BitVec.ofNat 12 (k / 16) }
    else { r with frozen := true, ports := r.ports ||| BitVec.ofNat 12 (k / 16) }

/-- What an attempt of the X-strand gives in a cc: frozen, with the ports waited on; frozen for a line of code that missed in the
instruction cache (04 R104); a reload to start, for a group that names and writes slots, with the ports of another freeze that stands;
or a state. -/
inductive XTry where
  | frozen (ports : BitVec 12)
  | missed (line : Nat)
  | reload (named written : List Nat) (frozen : Option (BitVec 12))
  | done (s : State)
  deriving DecidableEq, Repr

/-- The accesses due in an issue cycle are made after its group (07 R172; 08 R206, R217), and a `vseed` performs (06 R161). An access
that an earlier issue cycle owes and that cannot be made freezes the cc, and nothing of it stands; one due in this cycle is owed
from now on. `s0` is the state before the cycle. -/
def xEnd (s0 s : State) : XTry :=
  match s.here with
  | none => .done s
  | some t0 =>
    let t := t0.seed
    let (fl, f, _) := tryAll 0 t.xs.flights [] (Fetch.start t)
    let (_, o, late) := tryAll 1 fl [] (Fetch.start f.t)
    if late then
      match o.quit with
      | some pc => .done (enterTrap s0 .x 11 0 pc)
      | none => .frozen o.ports
    else
      match f.trap with
      | some (code, sub, pc) => .done (enterTrap (s.putHere t) .x code sub pc)
      | none => .done (s.putHere (f.t.onX fun x => { x with flights := fl, named := [] }))

/-- The register slots that a group names. -/
def Task.groupSlots (t : Task) (gs : List GWord) : List Nat :=
  ((gs.filterMap (·.i)).flatMap mregsOf).filterMap t.slotOf

/-- The register slots that a group writes. -/
def Task.groupWrites (t : Task) (gs : List GWord) : List Nat :=
  ((gs.filterMap (·.i)).flatMap fun i => (uses .x i).filterMap fun u =>
    match u with | (.m n, true) => some n | _ => none).filterMap t.slotOf

/-- The group at the X-strand's head in an issue cycle: `s` is the state with the cycle begun, `s0` the state before it, at which
a group that does not issue leaves the strand. -/
def xGroup (s0 s : State) (t0 t : Task) : XTry :=
  match nextGroup s0 t0 .x with
  | .error (.wait none) => .frozen 0
  | .error (.wait (some line)) => .missed line
  | .error (.trap s1) => .done s1
  | .ok l =>
    let gs := groupInstrs t.x.pc l
    let named := t.groupSlots gs
    let arrive (t : Task) : Task := (t.onSt .x fun st => { st with via := none }).onX fun x => { x with named := named }
    let base := s.putHere (arrive t)
    let r := gs.foldl (xWord (s0.putHere (arrive t0)))
      { s := base, ports := 0, frozen := false, empty := false, reload := false, trap := none, quit := none }
    match r.quit, r.trap with
    | some b, _ => if r.frozen || r.reload || r.empty then .done b else .done (r.trap.getD b)
    | none, tr =>
      if r.reload then .reload named (t.groupWrites gs) (if r.frozen then some r.ports else none)
      else if r.frozen then .frozen r.ports
      else if r.empty then xEnd s0 base
      else
        match tr with
        | some b => .done b
        | none => xEnd s0 r.s

/-- An issue cycle of the X-strand, tried: results due perform; while an access owed by an earlier cycle cannot be made the strand is
frozen (07 R172); then the group issues, unless the strand passes an empty cycle. -/
def xTry (s : State) (t : Task) : XTry :=
  let t1 := (t.beginCycle).onX fun x => { x with waits := 0, gap := x.gap - 1 }
  let (_, f, late) := tryAll 1 t1.xs.flights [] (Fetch.start t1)
  if late then
    match f.quit with
    | some pc => .done (enterTrap s .x 11 0 pc)
    | none => .frozen f.ports
  else
    let s1 := s.putHere t1
    if t.x.ended || t.x.hold.isSome || 0 < t.xs.gap then xEnd s s1 else xGroup s s1 t t1

/-- A slot of the group at the head gets a physical register, the strand frozen for 36 cc (03 R66, R68): a free one, or that of a
victim, taken first from a halted task, whose slot then counts as saved. `p` are the ports of another freeze that stands. -/
def reloadSlot (s : State) (t : Task) (named : List Nat) (p : BitVec 12) (k : Nat) : Option State :=
  let frozen (t : Task) : Task := t.onX fun x => { x with freeze := 35, waits := p }
  match freePhys (s.used t), s.donor with
  | none, some (o, v, r) =>
    let t1 := t.onX fun x => { x with slots := tins x.slots k { phys := some r, age := t.slotAge k } }
    some ((s.putTask s.cur.core (1 - s.cur.bank) (o.give v)).putHere (frozen t1))
  | _, _ => (t.bind (s.used t) named k).map fun t1 => s.putHere (frozen t1)

/-- The UNBOUND slots of a list that free registers suffice for, bound in order (03 R65). -/
def State.bindFree (s : State) (t : Task) (ks : List Nat) : Task :=
  ks.foldl (fun t k => if (freePhys (s.used t)).isSome then (t.bind (s.used t) [] k).getD t else t) t

/-- The reload of the first SPILLED slot of a group begins, or, its other UNBOUND slots bound to the free registers, the binding of one that
takes a register of a halted task (03 R66, R68): 36 frozen cc, and as many for each further slot of the group (DESIGN CHOICE, log 103).
Without a victim the strand passes an empty issue cycle, unless another freeze stands (03 R66, 04 R104). -/
def startReload (s : State) (t : Task) (named written : List Nat) (frozen : Option (BitVec 12)) : State :=
  let stay (p : BitVec 12) : State := s.putHere (t.onX fun x => { x with waits := p })
  let again :=
    match frozen with
    | some p => stay p
    | none =>
      match xEnd s (s.putHere (t.beginCycle.onX fun x => { x with waits := 0 })) with
      | .done s1 => s1
      | .frozen p => stay p
      | .missed _ => s
      | .reload _ _ _ => s
  match (named.filter t.spilled).head? with
  | some k => (reloadSlot s t named (frozen.getD 0) k).getD again
  | none =>
    let t1 := s.bindFree t (t.unbound written)
    match (t1.unbound written).head? with
    | none => again
    | some k => (reloadSlot s t1 named (frozen.getD 0) k).getD again

/-- The blocks of an `mma.q` or `mmag.q` that perform in the coming issue cycle, skipped and evaluated (07 R180; 25 R476). -/
def MmaJob.blockCounts (j : MmaJob) (age : Nat) : Nat × Nat :=
  match (if j.args.q then j.due age else none) with
  | none => (0, 0)
  | some cs =>
    let on := (List.range 8).filter fun k => !(j.grouped && (j.adapters.getD k none).isNone)
    let all := on.flatMap fun blk => cs.map fun c =>
      skipBlock j.skip ((List.range 16).flatMap fun r => j.aVals c (16 * blk + r))
        ((List.range 64).flatMap fun col => j.bVals (j.blockOf blk) c col)
    let sk := (all.filter fun b => b).length
    (sk, all.length - sk)

/-- The blocks of a task that perform in its coming issue cycle. -/
def Task.blockCounts (t : Task) : Nat × Nat :=
  t.xs.flights.foldl (fun a f =>
    match f.kind with
    | .mma j => let e := j.blockCounts (f.age + 1); (a.1 + e.1, a.2 + e.2)
    | _ => a) (0, 0)

/-- Blocks counted for the island of a core. -/
def State.countBlocks (s : State) (core : Nat) (n : Nat × Nat) : State :=
  if n = (0, 0) then s
  else
    let c := s.cluster (clusterOf core)
    s.putCluster (clusterOf core) { c with skipped := c.skipped + n.1, evaluated := c.evaluated + n.2 }

/-- A cc of a reload, or of the engine's repeated accesses: the strand is frozen. A port that the group waits on as well counts as
waited on, and a freeze that raises QUEUE raises it (08 R209). -/
def xFreeze (s : State) (t : Task) : State :=
  let pass (p : BitVec 12) : State := s.putHere (t.onX fun x => { x with freeze := x.freeze - 1, waits := p })
  match xTry s t with
  | .frozen p => pass p
  | .missed line => (pass 0).fillI s.cur.core line
  | .reload _ _ f => pass (f.getD 0)
  | .done s1 => if s1.quits then { s1 with stall := none, trapped := false } else pass 0

/-- A task at a cancellation point of its own that it takes, CANCEL being pending (18 R403). -/
def Task.cancels (t : Task) : Option (BitVec 8) := if t.point then t.cancel else none

/-- One cc of the X-strand of the acting bank. A strand that did not run in the cc before was interrupted (07 R183). -/
def xCycle (s : State) : State :=
  match s.here with
  | none => s
  | some t =>
    if t.susp.isSome || t.cancels.isSome || (t.x.ended && t.xs.flights.isEmpty && t.xs.array == 0) then s
    else
      let t0 := (if t.xs.last ≠ 0 && t.xs.last + 1 == s.cc then t else t.replay).onX fun x => { x with last := s.cc }
      let s0 := s.putHere t0
      if 0 < t0.xs.freeze then xFreeze s0 t0
      else
        match xTry s0 t0 with
        | .frozen p => s0.putHere (t0.onX fun x => { x with waits := p })
        | .missed line => (s0.putHere (t0.onX fun x => { x with waits := 0 })).fillI s.cur.core line
        | .reload named written f => startReload s0 t0 named written f
        | .done s1 => { s1.countBlocks s.cur.core t0.blockCounts with stall := none, trapped := false }

/-! ### The A-strand -/

/-- A register of the A-strand, predicate pj as 64 + j, holds its last result (R102). -/
def Task.arrived (t : Task) (n : Nat) : Bool := tget 0 t.as.ready n == 0 && !t.as.awaited.contains n

/-- The registers that the MASK of an `enq` or `split.any` names, read into its record (11 R286). -/
def Task.maskRegs (t : Task) : Instr → List Nat
  | .enq m _ _ _ _ _ => (t.carried (t.rd .a m)).map (·.1)
  | .splitAny m _ _ _ _ _ => (t.carried (t.rd .a m)).map (·.1)
  | _ => []

/-- A word of the A-strand may issue: no result that it reads or writes is still to come (R102). -/
def scoreOk (t : Task) (i : Instr) : Bool :=
  ((uses .a i).all fun u =>
    match u.1 with
    | .s n => t.arrived n
    | .p n => t.arrived (64 + n)
    | _ => true) && (t.maskRegs i).all t.arrived

/-- Words that wait for the others of their group: those that end or suspend the task, `bchk`, at which the others still perform (18
R403), and after them `ckpt`, whose image shows the group's effects (19 R420). -/
def lateRank : Instr → Nat
  | .ckpt _ _ _ => 2
  | .end_ => 1
  | .trap _ => 1
  | .brk => 1
  | .splitAny _ _ _ _ _ _ => 1
  | .splitHere _ _ _ _ _ => 1
  | .yield => 1
  | .retire _ => 1
  | .bchk => 1
  | _ => 0

/-- The rank of a word in its group: a `loop` also waits for a `srget` of LOOPC, which reads the count before it (04 R79, 05 R124). -/
def rankIn (gs : List GWord) (i : Instr) : Nat :=
  match i with
  | .loop _ => if gs.any fun g => (match g.i with | some (.srget _ n) => n == 9 | _ => false) then 1 else 0
  | i => lateRank i

/-- The slot bit of a word: S 1, MEM 2, SEM 4 (19 R419). -/
def slotBit (w : Word) : BitVec 3 := 1 <<< ((slotA w).getD 0)

/-- How an A-strand group fares in a cc: the state, and whether the strand has left the group. -/
abbrev ARun := State × Bool

/-- A word that has not issued and whose results and operands are there. -/
def Task.open_ (t : Task) (g : GWord) : Bool :=
  t.as.issued &&& slotBit g.w == 0 && match g.i with | some i => scoreOk t i | none => true

/-- A trap of the word at place `k`, unless a word of a lower address, which a group tries later, meets a condition in the same cc: the
lowest-addressed word's stands (04 R489). -/
def firstTrapOf (s s1 : State) (gs : List GWord) (k : Nat) : State :=
  match s.here with
  | none => s1
  | some t =>
    ((gs.take k).findSome? fun g =>
      if t.open_ g then (match runWord s .a g with | .trapped b => some b | _ => none) else none).getD s1

/-- One word of a group tried, at place `k`; `start` is the group's address and `n` its number of words. -/
def aWord (start : Word) (gs : List GWord) (r : ARun) (e : GWord × Nat) : ARun :=
  let (g, k) := e
  let s := r.1
  if r.2 then r
  else
    match s.here with
    | none => (s, true)
    | some t =>
      let bit := slotBit g.w
      if !t.open_ g then r
      else
        match runWord s .a g with
        | .stalled _ => r
        | .kept s1 => ((s1.here.elim s1 fun t1 => s1.putHere (t1.onSt .a fun st => { st with pc := start })), false)
        | .trapped s1 => (firstTrapOf s s1 gs k, true)
        | .ok s1 =>
          match s1.here with
          | none => (s1, true)
          | some t1 =>
            if t.cancel.isSome && t1.cancel.isNone then (s1, true)
            else
              let back := match t1.susp with | some (.back _) => true | _ => false
              let next := t1.a.pc
              let t2 := t1.onSt .a fun st => { st with pc := start }
              if back then (s1.putHere t2, true)
              else
                let t3 := t2.onA fun a =>
                  { a with issued := a.issued ||| bit, nextpc := if k + 1 = gs.length then some next else a.nextpc }
                (s1.putHere t3, false)

/-- The words of one rank tried, once every word of a lower rank has issued. -/
def aRank (start : Word) (gs : List GWord) (r : ARun) (rank : Nat) : ARun :=
  let of (g : GWord) : Nat := match g.i with | some i => rankIn gs i | none => 0
  let issued := match r.1.here with | some t => t.as.issued | none => 0
  let open_ := gs.all fun g => rank ≤ of g || issued &&& slotBit g.w != 0
  if open_ then (gs.zipIdx.filter fun e => of e.1 == rank).foldl (aWord start gs) r else r

/-- The group has issued whole: the strand goes on behind it. -/
def aDone (start : Word) (gs : List GWord) (s : State) : State :=
  match s.here with
  | none => s
  | some t =>
    if gs.all fun g => t.as.issued &&& slotBit g.w != 0 then
      let next := t.as.nextpc.getD (start + BitVec.ofNat 64 gs.length)
      s.putHere ((t.onSt .a fun st => { st with pc := next }).onA fun a => { a with issued := 0, nextpc := none, group := 0 })
    else s.putHere (t.onA fun a => { a with group := gs.foldl (fun b g => b ||| slotBit g.w) 0 })

/-- The group at the A-strand's head; words whose slots have issued in an earlier cc do not issue again. -/
def aGroup (s : State) (t : Task) : State :=
  match nextGroup s t .a with
  | .error (.wait none) => s
  | .error (.wait (some line)) => s.fillI s.cur.core line
  | .error (.trap s1) => s1
  | .ok l =>
    let start := t.a.pc
    let gs := groupInstrs start l
    let t1 := if t.as.issued = 0 then t.onSt .a fun st => { st with via := none } else t
    let (s1, left) := [0, 1, 2].foldl (aRank start gs) (s.putHere t1, false)
    if left then s1 else aDone start gs s1

/-- The A-strand waits for a slot: `swait` and `swaitv` stall it, `sacq` only its MEM and SEM slots (11 R283; 09 R245). -/
def Task.slotStalled (t : Task) : Bool :=
  match t.as.wait with
  | none => false
  | some w => match w.kind with | .sacq _ => false | _ => true

/-- One cc of the A-strand of the acting bank. The first one after a resume, and of a record's task, is a cancellation point (18
R403), before an instruction that has not issued and in a hold (16 R346, 05 R134). The stall cc of a branch passes in a hold
too. -/
def aCycle (s : State) : State :=
  match s.here with
  | none => s
  | some t =>
    if t.susp.isSome || t.retiring then s
    else
      match t.cancels with
      | some sub => takeCancel s s.cur.core s.cur.bank t sub t.a.pc
      | none =>
        let t1 := { t with point := false, yielded := false }
        let s1 := s.putHere t1
        if 0 < t.as.gap then s.putHere (t1.onA fun a => { a with gap := a.gap - 1 })
        else if t.as.issued = 0 && (t.a.ended || t.a.hold.isSome || t.slotStalled) then s1
        else { (aGroup s1 t1) with stall := none, trapped := false }

/-! ### The begin of a cc -/

/-- What begins in a cc for a task in a bank: tags set before are seen (08 R197), a `tfill` does a row (08 R214), results come nearer
(04 R102). -/
def Task.beginCc (t : Task) : Task :=
  let t1 := t.settleTags.fillRow
  if t1.as.ready.isEmpty then t1
  else t1.onA fun a => { a with ready := (a.ready.map fun e => (e.1, e.2 - 1)).filter fun e => e.2 != 0 }

/-- The stop that a task has been asked for takes effect at the group boundary (19 R410). -/
def State.takeStop (s : State) (core bank : Nat) : State :=
  match s.task core bank with
  | none => s
  | some t =>
    if t.susp.isSome || t.retiring || t.stop.isNone then s
    else
      let s1 := s.stopTask core bank t.stop
      match s1.task core bank with
      | none => s1
      | some t1 => s1.putTask core bank { t1 with stop := none }

/-- A cc counted for the sibling whose task the issuing bank holds (18 R407). -/
def State.countCycle (s : State) (core bank : Nat) : State :=
  match s.task core bank with
  | none => s
  | some t =>
    match t.mem.group with
    | none => s
    | some key =>
      let count (g : Group) : Group :=
        { g with sibs := g.sibs.modify t.mem.index fun (b : Sib) => { b with cycles := b.cycles + 1 } }
      { s with groups := tmod s.groups key count }

/-- A cc of a core begins; the writes due at the boundary at which a bank has stopped perform (19 R412). -/
def State.beginCore (s : State) (core : Nat) : State :=
  let s1 := s.putCore core { (s.core core) with cc := (s.core core).cc + 1 }
  let each (s : State) (b : Nat) : State :=
    match s.task core b with
    | none => s
    | some t =>
      let t1 := if t.susp.isSome || b ≠ (s.core core).bank then t.beginCc.reachStop else t.beginCc
      ((s.putTask core b t1).takeStop core b).endAcquire core b
  ([0, 1].foldl each s1).countCycle core (s.core core).bank

/-- One cc of a strand of the bank that a core issues from. -/
def State.strandCc (s : State) (core : Nat) (sd : Side) : State :=
  let s1 := s.at_ core (s.core core).bank sd
  match sd with
  | .x => xCycle s1
  | .a => aCycle s1

end Sys2Proof.Machine
end

