-- ==== Sys2Proof/Machine/Turn.lean ====
section
/-! DEFINITION. What moves in a tick: the tick itself with the clocks of the islands (01 R12, 25 R474), the agents that have something to
do in it in their order, and the move of one agent. -/

namespace Sys2Proof.Machine

/-! ### A tick (01 R12; 25 R474, R477, R478, R488) -/

/-- An island has a cc in the tick that has begun. -/
def Cluster.hasCc (c : Cluster) : Bool := c.on && decide (1300 ≤ c.acc)

/-- A change of the operating point goes on at a cc boundary (25 R474): a raise brings the voltage up before the clock, a lowering takes the
clock down before the voltage. A voltage lowering of R476 ends with the new clock. -/
def Cluster.boundary (c : Cluster) : Cluster :=
  match c.goal with
  | none => c
  | some m =>
    if c.vclock < m then { c with vclock := m }
    else if c.mhz ≠ m then { c with mhz := m, volt := 0 }
    else { c with vclock := m, goal := none }

/-- An island's part of a tick of DT: with the clock at m MHz it has m of every 1300 ticks as a cc, half of them while a droop
stretches its clock. Which ticks they are is the model's choice: they are spaced evenly, from a phase of 0 (DESIGN CHOICE, log 140). -/
def Cluster.tick (c : Cluster) : Cluster :=
  if !c.on then c
  else
    let c1 := if c.hasCc then c.boundary else c
    let rate := if c1.droop then c1.mhz / 2 else c1.mhz
    { c1 with acc := if 1300 ≤ c.acc then c.acc - 1300 + rate else c.acc + rate }

/-- A tick begins: DT counts, unless PTM omits the tick (25 R488), each file may apply an operation to each of its slots (11 R277), and
the islands' clocks move, unless the module has tripped. -/
def State.tick (s : State) : State :=
  let s1 : State :=
    { s with dt := if s.boot.omit_ then s.dt else s.dt + 1, boot := { s.boot with omit_ := false }
             cores := tmap s.cores fun _ c => { c with served := [] } }
  if s.fen.tripped then s1 else { s1 with clusters := tmap s1.clusters fun _ c => c.tick }

/-- The clusters that have a cc in this tick. -/
def State.clocked (s : State) : List Nat :=
  if s.fen.tripped then [] else (s.clusters.filter fun e => e.2.hasCc).map (·.1)

/-- The cores that hold a task or have slot operations to perform, in ascending order. -/
def State.busyCores (s : State) : List Nat :=
  let held := s.tasks.foldl (fun l e => insertNum (e.1 / 2) l) []
  (s.cores.filter fun e => !e.2.inbox.isEmpty).foldl (fun l e => insertNum e.1 l) held

/-! ### The agents of a tick -/

/-- An event at a place and, for a walker's, a job. -/
def eventAt (core bank : Nat) (sd : Side) (job : Nat) (i : Instr) : Agent :=
  .event { cur := { core := core, bank := bank, side := sd }, job := job, i := i }

/-- An event that acts at no place. -/
def event (i : Instr) : Agent := eventAt 0 0 .a 0 i

/-- `a` when a condition holds. -/
def agentIf (b : Bool) (a : Agent) : List Agent := if b then [a] else []

/-- A hold that DT has reached (05 R133). -/
def State.holdOver (s : State) (st : Strand) : Bool :=
  match st.hold with
  | none => false
  | some v => !s.dt.ult v

/-- A task stands ready to be saved (19 R416, R422): it has halted, or it is suspended and is asked to leave. -/
def Task.saveDue (t : Task) : Bool :=
  match t.susp with
  | none => false
  | some .halted => true
  | some (.debug _) => true
  | some .stopped => false
  | some .restoring => false
  | some _ => t.stop.isSome

/-- The events of a task in a bank before its strands issue: holds that end, a refused wait sent again. -/
def State.taskEvents (s : State) (key : Nat) (t : Task) : List Agent :=
  let c := key / 2
  let b := key % 2
  let retry := match t.as.wait with | some w => s.retryDue w | none => false
  agentIf (s.holdOver t.a) (eventAt c b .a 0 .waittHoldEnd) ++ agentIf (s.holdOver t.x) (eventAt c b .x 0 .waittHoldEnd) ++
    agentIf retry (eventAt c b .a 0 .remoteWaitRetry)

/-- The events of a task with write-downs of its core, which fall in the core's place (16 R350): its save, its retirement. -/
def endEvents (key : Nat) (t : Task) : List Agent :=
  let c := key / 2
  let b := key % 2
  agentIf t.saveDue (eventAt c b .a 0 .taskSave) ++ agentIf t.drained (eventAt c b .a 0 .taskRetirement)

/-- The refused waits of saved tasks and of records sent again (11 R282, R287). -/
def State.savedEvents (s : State) : List Agent :=
  (s.fe.saved.flatMap fun e =>
    agentIf (match e.2.task.as.wait with | some w => s.retryDue w | none => false) (eventAt e.1 2 .a 0 .remoteWaitRetry)) ++
  s.fe.launches.flatMap fun e =>
    agentIf (e.2.cond.any fun r => match r.cond with | some w => s.retryDue w | none => false) (eventAt e.1 3 .a 0 .remoteWaitRetry)

/-- A core's events: the operations that wait at its semaphore file (11 R277) and the picker (11 R295). -/
def State.coreEvents (s : State) (core : Nat) : List Agent :=
  let c := s.core core
  List.replicate c.inbox.length (eventAt core 0 .a 0 .slotOperation) ++
    agentIf (c.switching || s.prefers core) (eventAt core c.bank .a 0 .bankSwitch)

/-- A walker job's move: a timed copy that falls due, the rows of a copy or load, the next word of a walk program, its completion and the
end of a completion under way (10 R259, R248, R263, R270). -/
def State.jobEvents (s : State) (n : Nat) (j : Job) : List Agent :=
  let c := j.cluster * 12
  match j.st with
  | .timed => agentIf (decide (j.t.toNat ≤ s.dt.toNat)) (eventAt c 0 .a n .cpytDue)
  | .running => if j.walk.isNone then [eventAt c 0 .a n .copyRow] else [.walker n]
  | .done => [eventAt c 0 .a n .tokenComplete]
  | .ending => [eventAt c 0 .a n .tokenComplete]
  | .queued => []
  | .held => []

/-- A job put among others in the order of cluster, walker and number. -/
def insertJob (e : Nat × Job) : List (Nat × Job) → List (Nat × Job)
  | [] => [e]
  | x :: r =>
    if e.2.cluster < x.2.cluster || (e.2.cluster == x.2.cluster && decide (e.2.w < x.2.w)) then e :: x :: r else x :: insertJob e r

/-- The moves of the walkers, in ascending cluster and walker number (11 R277; 16 R350). -/
def State.walkerEvents (s : State) : List Agent :=
  (s.jobs.foldl (fun l e => insertJob e l) []).flatMap fun e => s.jobEvents e.1 e.2

/-- A context's events: faults that an event has resolved, a fault too old (16 R345). -/
def State.ctxEvents (s : State) (n : Nat) (c : Ctx) : List Agent :=
  agentIf (c.faults.any fun f => !s.stillBack n f) (event (.backfaultResolved n)) ++
    agentIf (c.term.isNone && c.faults.any fun f => decide (c.timeout * 1300000 ≤ s.dt.toNat - f.at_)) (event (.backfaultTimeout n))

/-- A context put among others in the order in which their terminations were asked for. -/
def insertTerm (e : Nat × Nat) : List (Nat × Nat) → List (Nat × Nat)
  | [] => [e]
  | x :: r => if e.1 < x.1 then e :: x :: r else x :: insertTerm e r

/-- The terminations asked for, in the order of detection (23 R452, R463). -/
def State.termEvents (s : State) : List Agent :=
  let asked := s.ctxs.foldl (fun l e => match e.2.term with | some n => insertTerm (n, e.1) l | none => l) []
  asked.map fun e => event (.contextTermination e.2)

/-- A launch's event: a waiting record is admitted (11 R291). -/
def admissions (n : Nat) (l : Launch) : List Agent := l.wait.map fun r => event (.recordAdmission n r.stage)

/-- A sibling group's events: releases of siblings that have ended, and its closing (18 R404, R405). -/
def State.groupEvents (s : State) (key : Nat) (g : Group) : List Agent :=
  let gid := key % 1024
  (g.sibs.zipIdx.flatMap fun e =>
    agentIf e.1.test (event (.siblingRelease gid e.2))) ++
    agentIf (g.closed.isSome || g.finished s.dt.toNat) (event (.groupRecord gid))

/-- Chard's moves for a stream (17 R367, R369): the record of a complete frame, and a frame start that has been found. -/
def chardEvents (k : Nat) (st : Stream) : List Agent :=
  agentIf (match st.frames with | f :: _ => f.done | [] => false) (.record k) ++ agentIf st.tick.isSome (event (.frameStart k))

/-- An encoder's moves for a stream (17 R376, R368): a tile read, a frame written. -/
def encoderEvents (k : Nat) (st : Stream) : List Agent :=
  match st.live with
  | [] => []
  | f :: _ =>
    agentIf (st.descs.any fun d => d.frame == f.n) (event (.encoderTileRead k)) ++ agentIf (st.whole f) (event (.frameComplete k))

/-- The streams in the order of their encoders (11 R277). -/
def State.byEncoder (s : State) : List (Nat × Stream) := (List.range 16).flatMap fun e => s.streams.filter fun x => x.2.enc == e

/-- The moves of the front end: queues, admissions, dispatch, the balancer. -/
def State.frontEvents (s : State) : List Agent :=
  (s.fe.queues.map fun e => Agent.queue e.1) ++ (s.fe.launches.flatMap fun e => admissions e.1 e.2) ++
    agentIf (!s.fe.launches.isEmpty) (.dispatch (s.fe.launches.flatMap fun e => e.2.nums.map fun k => (e.1, k))) ++
    agentIf (s.dt.toNat % 4096 = 0 && !s.fe.launches.isEmpty && s.fen.alive.getLsbD 1) (event .stageBalancer)

/-- The moves of Fennel's cores: mailboxes, contexts, quarantines, the wipe, full service, the boundary of R475, whose reading of the power is
free (log 138). -/
def State.fennelEvents (s : State) : List Agent :=
  ((s.fen.boxes.filter fun e => e.2.inTail != e.2.inHead).map fun e => Agent.mailbox e.1) ++
    (s.ctxs.flatMap fun e => s.ctxEvents e.1 e.2) ++ s.termEvents ++
    (s.quarantinesDue.map fun q => event (.wayQuarantine q.1 q.2)) ++
    agentIf s.boot.wiping.isSome (event .lifecycleWipeDone) ++ agentIf s.serviceDue (event .fullService) ++
    agentIf s.atBoundary (event (.powerBoundary (Config.modulePower s.fresh)))

/-- The reads of the scrubbers that find an error (23 R447). -/
def State.scrubEvents (s : State) : List Agent :=
  (s.patrolsDue.map fun k => event (.l2PatrolScrub k)) ++ s.scrubsDue.map fun pa => event (.memoryScrub pa)

/-- The moves of the central blocks (11 R277): the front end, Fennel, Chard, Shallot, Sorrel, the encoders; then Chard finds the frames that
start in the tick, what has completed in it counted (17 R371). -/
def State.centralEvents (s : State) : List Agent :=
  s.frontEvents ++ s.fennelEvents ++ (s.streams.flatMap fun e => chardEvents e.1 e.2) ++
    agentIf (!s.posts.isEmpty) (event .ballotApply) ++ (s.groups.map fun e => Agent.shallot e.1) ++
    ((s.sorrel.filter fun e => !e.2.isEmpty).map fun e => event (.samplerRequest e.1)) ++
    (s.byEncoder.flatMap fun e => encoderEvents e.1 e.2) ++ s.streams.map fun e => Agent.arm e.1

/-- The events of the clusters' hint queues (09 R239). -/
def State.hintEvents (s : State) : List Agent :=
  (s.clusters.filter fun e => !e.2.hints.isEmpty).map fun e => eventAt (e.1 * 12) 0 .a 0 .hintServe

/-- The agents that move in the tick that has begun, in the order of 16 R350: the cores, which begin a cc, serve their files, pick, end
waits, and issue, the X-strand first; the walkers; the central blocks. -/
def State.agents (s : State) : List Agent :=
  let on := s.clocked
  let busy := s.busyCores
  let live := busy.filter fun c => on.contains (clusterOf c)
  live.map Agent.begin ++ busy.flatMap s.coreEvents ++ (s.tasks.flatMap fun e => s.taskEvents e.1 e.2) ++ s.savedEvents ++
    busy.flatMap (fun c =>
      (if live.contains c then [Agent.strand c .x, Agent.strand c .a] else []) ++
        (s.tasks.filter fun e => e.1 / 2 == c).flatMap fun e => endEvents e.1 e.2) ++ s.walkerEvents ++ s.hintEvents ++ s.centralEvents ++
    s.scrubEvents

/-- The walkers of the clusters that hold jobs take what they can (10 R247). -/
def State.startAll (s : State) : State :=
  (s.jobs.foldl (fun l e => insertNum e.2.cluster l) []).foldl State.startJobs s

/-- The next tick with its agents; writes that waited in a slice for their line perform once it has left the way (23 R458). -/
def State.nextTick (s : State) : State :=
  let s0 := if s.slow.isEmpty then s.tick else s.tick.flushSlow
  let s1 := s0.startAll
  { s1 with turn := s1.agents }

/-! ### The move of an agent -/

/-- The state as the next move finds it: no word's own marks stand, and CLASS.CUR is recomputed (11 R295). -/
def State.settled (s : State) : State := ({ s with stall := none, trapped := false } : State).settle

/-- An outcome with its next state settled. -/
def settleOut (o : Out) : Out :=
  match o with
  | .next s => .next s.settled
  | .fault r => .fault r
  | .refused r => .refused r

/-- An event at its place. -/
def runEvent (e : Ev) (s : State) : Out := exec e.i { s with cur := e.cur, job := e.job }

/-- A walk program's move (10 R270-R272). -/
def runWalker (n : Nat) (s : State) : Out :=
  let s1 : State := { s with job := n }
  match s1.walkTurn n with
  | .idle => .next s
  | .launch => exec .walkerLaunchDone s1
  | .word i => exec i s1
  | .bad sub =>
    match tfind s1.jobs n with
    | none => .next s
    | some j => .next (walkTrap s1 j sub)

/-- The front end reads rings and starts commands (15 R315; 23 R463, R464; 25 R482, R485). -/
def State.reads (s : State) : Bool :=
  !s.fen.frozen && !s.fen.hostmode && (s.boot.phase == 2 || s.boot.phase == 3) && s.boot.wiping.isNone

/-- A SCRAPPED device serves nothing but ATTEST (25 R482). -/
def State.barred (s : State) (i : Instr) : Bool :=
  s.nv.lcs == 4 && match i with | .attest _ => false | _ => true

/-- A queue's move: it reads or starts a command, or performs the meaning of the one it runs, and a command whose work has ended
completes (15 R314-R318). -/
def runQueue (q : Nat) (s : State) : Out :=
  let ended := match s.queue q with
    | none => false
    | some x => match x.run with | none => false | some r => (s.workEnded r).isSome
  if ended then exec (.commandCompletion q) s
  else
    match s.serve q s.reads with
    | .idle => .next s
    | .moved s1 => .next s1
    | .run s1 i => if s.barred i then .next s else exec i s1

/-- A function's mailbox: Fennel takes its next request (23 R460, R461). -/
def runMailbox (fn : Nat) (s : State) : Out :=
  match s.takeRequest fn with
  | none => .next s
  | some (s1, i) => exec i s1

/-- The front end's dispatch (17 R373; 11 R291): of what all launches have next, what comes first is placed where it can be, and the choice is
made again. -/
def runDispatch (ns : List (Nat × Nat)) (s : State) : Out :=
  match s.dispatchFirst ns with
  | none => .next s
  | some e =>
    match exec (.taskDispatch e.1) { s with fe := { s.fe with pick := some e.2 } } with
    | .next s1 =>
      let rest := if s.tasks.length < s1.tasks.length then ns else ns.erase e
      .next { s1 with fe := { s1.fe with pick := none }, turn := .dispatch rest :: s1.turn }
    | o => o

/-- Shallot's look at a group: the releases and the closing that it finds now follow at once (18 R404, R405). -/
def State.lookGroup (s : State) (key : Nat) : State :=
  match tfind s.groups key with
  | none => s
  | some g => { s with turn := s.groupEvents key g ++ s.turn }

/-- The move of an agent. -/
def runAgent (a : Agent) (s : State) : Out :=
  match a with
  | .begin c => .next (s.beginCore c)
  | .strand c sd => .next (s.strandCc c sd)
  | .walker n => runWalker n s
  | .queue q => runQueue q s
  | .dispatch ns => runDispatch ns s
  | .arm k => .next (s.armFrame k)
  | .record k => .next (match tfind s.streams k with | some st => s.chardRecord k st | none => s)
  | .shallot key => .next (s.lookGroup key)
  | .mailbox fn => runMailbox fn s
  | .event e => runEvent e s

/-! ### Steps -/

/-- The agents of a tick move one after another, and a tick that has no more of them gives way to the next. -/
def State.turnStep (s : State) : Out :=
  match s.turn with
  | [] => .next s.nextTick.settled
  | a :: rest => settleOut (runAgent a { s with turn := rest })

/-- The place of an event of the outside in a tick (09 R233; 16 R350): the host's, in the order listed, before those of other devices, in
ascending chip id. -/
def Ev.rank (e : Ev) : Nat :=
  match e.i with
  | .peerPortRequest r => peerChip r + 1
  | _ => 0

/-- The event of the outside that comes first, and the others. -/
def firstEvent : List Ev → Option (Ev × List Ev)
  | [] => none
  | e :: r =>
    match firstEvent r with
    | none => some (e, [])
    | some (x, q) => if e.rank ≤ x.rank then some (e, r) else some (x, e :: q)

/-- One step: the next agent of the tick; after all of them, an event that the outside has listed (09 R233); then the next tick. -/
def State.oneStep (s : State) : Out :=
  match s.turn, firstEvent s.agenda with
  | [], some (e, rest) => settleOut (runEvent e { s with agenda := rest })
  | _, _ => s.turnStep

/-! ### Placing one instruction where the next step fetches it -/

/-- Context 1 with one extent of 2 MiB at address 0, in GDDR-7, which it may read, write and execute. -/
def placeCtx : Ctx :=
  { Ctx.zero with table :=
      [(0, { log2 := 21, kind := .backed, r := true, w := true, x := true, present := true, late := false, vbase := 0, target := 0,
             set := 0, gsh := 0, rcap := 0, fmap := 0 })] }

/-- A task of context 1 with nothing in it, its windows the defaults of bank 0. -/
def placeTask : Task :=
  { who := { id := 1, ctx := 1, queue := 0, phase := 0, launch := 1, depth := 0, stage := 0, last := 0, n := 64, excl := false,
             pin := none, parent := 0, join := none }
    mem := Member.none, win := { spBase := 0, spSize := 4096, acBase := 0, acSize := 16 }
    cls := { set := 3, cur := 3, ceil := 3, lat := false, borrow := false }
    a := Strand.zero, x := Strand.zero, as := AState.zero, xs := XState.zero, qskip := { exp := 0, en := false }
    aq := Queue.zero, xq := Queue.zero, bq := Queue.zero, acc := [], rowmax := [], rowsum := [], rows := [], touched := [],
    tiles := [], ports := [], consts := [], cancelpc := 0, cancel := none, susp := none, stop := none, retiring := false,
    point := false, yielded := false, evict := none }

/-- A walk program of context 1 in flight at the first word of its partition. -/
def placeJob : Job :=
  { kind := .walk, st := .running, core := 0, bank := 0, id := 1, ctx := 1, launch := 1, sib := none, pc := 0, cluster := 0, w := 0,
    lat := false, k := none, rec0 := 0, rec1 := 0, ext0 := 0, ext1 := 0, rec3 := 0, rec4 := 0, rec5 := 0, t := 0, rows := 0, got := 0,
    buf := [], part := [], put := 0, err := none, idx := none, recvs := [], snap := [], chips := 0
    walk := some { pc := 0, stack := [], loops := [], rets := [], stage := [], permits := 0, chain := none, tokd := false,
                   launch := none } }

/-- A walker word at the first place of the partition of context 1 in cluster 0, and a walk program that runs it next. -/
def State.withWalkerWord (s : State) (w : BitVec 16) : State :=
  let c := s.cluster 0
  let c1 := { c with ctxs := [1], store := tset 0 c.store 0 w, walkers := tset Walker.zero c.walkers 0 { Walker.zero with run := [1] } }
  let s1 := (s.putCtx 1 placeCtx).putCluster 0 c1
  { s1 with jobs := tins s1.jobs 1 placeJob, nextJob := 2, agenda := [], turn := [.walker 1] }

/-- A core word at address 0 of context 1, its stop bit set, and a task whose strand issues it next: the A-strand, unless only the
X-strand has a slot for it. Its line stands in the core's instruction cache. -/
def State.withCoreWord (s : State) (w : Word) : State :=
  let sd := if (slotA w).isSome then Side.a else Side.x
  let s1 := ((s.putCtx 1 placeCtx).putTask 0 0 placeTask).fillI 0 0
  { s1 with mem := memPut s1.mem 0 0xFF ((w ||| 0x8000000000000000#64).setWidth 256), agenda := [], turn := [.strand 0 sd] }

/-- A command that queue 0 of context 1 has read, which the front end performs next. -/
def State.withCommandWord (s : State) (w : BitVec 512) : State :=
  let q : CQueue :=
    { ctx := 1, pf := false, ring := 0, size := 16, bulk := false, head := 1, tail := 1, phase := 0, gp := [], error := false
      run := some { op := (w.extractLsb' 0 8).toNat, cmd := cmdOf w, status := none, launch := none, old := 0, frame := none }
      replay := none, outer := none, stream := none, host := false }
  { (s.putCtx 1 placeCtx).putQueue 0 q with agenda := [], turn := [.queue 0] }

/-- An instruction placed by its number of bits: a walker word of 16, a core word of 64, a command of 512. -/
def State.placeWord (s : State) (nbits w : Nat) : State :=
  if nbits ≤ 16 then s.withWalkerWord (BitVec.ofNat 16 w)
  else if nbits ≤ 64 then s.withCoreWord (BitVec.ofNat 64 w)
  else s.withCommandWord (BitVec.ofNat 512 w)

end Sys2Proof.Machine
end

