-- ==== Sys2Proof/WellFormed.lean ====
section
/-! DEFINITION. Which instructions have a word: the limits that the encodings set on operands beside their widths
(04 R84-R94, R97; 05 R114-R118; 06 R142, R143; 07 R175-R184; 08 R210, R217; 10 R253; 11 R278-R294; 15-18). A row that is
no word of its own (a step of another agent, a command, a mailbox request) is well formed as it stands. -/

namespace Sys2Proof

/-- RND is not 111 and the type is admitted (04 R88, 06 R142). -/
def VOp.okFor (v : VOp) (ty : Nat → Bool) : Bool := ty v.ty.toNat && v.rnd != 7

/-- As `okFor`, with SAT zero. -/
def VOp.okSat0 (v : VOp) (ty : Nat → Bool) : Bool := v.okFor ty && !v.sat

/-- As `okSat0`, with MASK zero. -/
def VOp.okBare (v : VOp) (ty : Nat → Bool) : Bool := v.okSat0 ty && v.mask == 0

/-- A destination and a source. -/
def okDA (d a : Opd) : Bool := d.isDest && a.isSource

/-- A destination and two sources. -/
def okDAB (d a b : Opd) : Bool := d.isDest && a.isSource && b.isSource

/-- A shift count that an immediate may hold (05 R114). -/
def okShift (b : Src) : Bool := !shiftBad b

/-- Types of vadd, vsub, vmul, vmin, vmax. -/
def tyFI (t : Nat) : Bool := tyF t || tyI t

/-- The form limits of a CpyArgs (10 R253). -/
def okCpy (c : CpyArgs) : Bool :=
  decide (c.rg.toNat ≤ 58) && !((c.kind == .gg || c.kind == .sg) && c.waite) &&
    !((c.kind == .gg || c.kind == .gs) && (c.srcw || c.srcc))

/-- The fields of an `mma` word (07 R175). -/
def okMma (m : MmaArgs) : Bool :=
  let e := m.ety.toNat
  (e < 8 || tyM e) && !(m.q && (e == 6 || e == 7)) && (tyM e || (m.sa == 0 && m.sb == 0 && m.srow == 0)) &&
    (if m.ta then m.pa == 0 else m.aux == 0 && m.pa != m.pb)

/-- The fields of an `mmag` word (07 R181). -/
def okMmag (m : MmaArgs) : Bool :=
  let e := m.ety.toNat
  1 ≤ e && e ≤ 7 && !(m.q && (e == 6 || e == 7)) && m.sa == 0 && m.sb == 0 && m.srow == 0 && !m.ta && m.pa != m.pb

/-- The fields that `aread` and `awrite` share (07 R184). -/
def okARow (r : ARow) : Bool :=
  let e := r.ety.toNat
  (e < 5 || (6 ≤ e && e ≤ 11)) && !(r.side && e != 0)

/-- Whether an instruction is well formed: its operands are those that some word holds. -/
def wellFormed : Instr → Bool
  | .shl _ _ b => okShift b
  | .shr _ _ b => okShift b
  | .sar _ _ b => okShift b
  | .rotl _ _ b => okShift b
  | .bext _ _ lo w => decide (lo.toNat + w.toNat + 1 ≤ 64)
  | .bextI _ _ lo w => decide (lo.toNat + w.toNat + 1 ≤ 64)
  | .bins _ _ lo w => decide (lo.toNat + w.toNat + 1 ≤ 64)
  | .lea _ _ _ h => decide (h.toNat ≤ 4)
  | .srget _ n => decide (n.toNat ≤ 0x15)
  | .srset n _ => decide (n.toNat ≤ 0x15)
  | .vadd v d a b => v.okFor tyFI && okDAB d a b
  | .vsub v d a b => v.okFor tyFI && okDAB d a b
  | .vmul v d a b => v.okFor tyFI && okDAB d a b
  | .vfma v d a b => v.okFor tyF && d.isSlice && a.isSource && b.isSource
  | .vmin v d a b => v.okSat0 tyFI && okDAB d a b
  | .vmax v d a b => v.okSat0 tyFI && okDAB d a b
  | .vabs v d a => v.okFor (fun t => tyF t || t == 6 || t == 8 || t == 10) && okDA d a
  | .vexp2 v d a => v.okFor tyF && okDA d a
  | .vlog2 v d a => v.okFor tyF && okDA d a
  | .vrcp v d a => v.okFor tyF && okDA d a
  | .vrsq v d a => v.okFor tyF && okDA d a
  | .vcvt v d a p u => v.okFor tyX && tyX u.toNat && okDA d a && decide (p.toNat < cvtParts v.ty.toNat u.toNat)
  | .vmxq v d a _ p => v.okBare tyM && okDA d a && (v.ty == 13 || decide (p.toNat ≤ 3))
  | .vmxd v d a _ p => v.okFor tyM && okDA d a && (v.ty == 13 || decide (p.toNat ≤ 3))
  | .vcmp v _ a b => v.okSat0 tyW && !(v.rnd == 6 && !tyF v.ty.toNat) && a.isSource && b.isSource
  | .vsel v d a b => v.okSat0 tyX && okDAB d a b
  | .vand v d a b => v.okSat0 tyX && okDAB d a b
  | .vor v d a b => v.okSat0 tyX && okDAB d a b
  | .vxor v d a b => v.okSat0 tyX && okDAB d a b
  | .vshl v d a b => v.okFor tyI && okDAB d a b
  | .vshr v d a b => v.okSat0 tyI && okDAB d a b
  | .vsar v d a b => v.okSat0 tyI && okDAB d a b
  | .vred v o d a => v.okFor tyW && o != 3 && okDA d a
  | .vscan v o d a => v.okFor tyW && o != 3 && okDA d a
  | .vhist v _ x a sh => v.okFor (· == 9) && a.isSource && decide (x.toNat % 4 = 0) && decide (sh.toNat ≤ 8)
  | .vbcast v d a (.imm i) => v.okSat0 tyW && okDA d a && decide (i.toNat < tyCount v.ty.toNat)
  | .vbcast v d a (.sreg _) => v.okSat0 tyW && okDA d a
  | .viota v d _ => v.okFor (fun t => 8 ≤ t && t ≤ 11) && d.isDest
  | .vperm v d a b => v.okSat0 (fun t => t < 5 || (6 ≤ t && t ≤ 11)) && okDAB d a b
  | .vseed v _ => v.okBare (· == 11)
  | .vrand v d => v.okSat0 (fun t => t == 9 || t == 11) && d.isDest
  | .vclass v d a => v.okSat0 tyF && okDA d a
  | .vorder v _ d a => v.okSat0 (fun t => t < 5 || t == 6 || t == 8 || t == 10) && okDA d a
  | .mmov v d a => v.okSat0 tyX && okDA d a
  | .mzero v _ => v.okBare (· != 15)
  | .mxpose v _ _ => v.okBare tyW
  | .mshuf v _ _ b => v.okSat0 (· != 15) && b.isSliceOrLoad
  | .mma m => okMma m
  | .mmag m => okMmag m
  | .aread r => okARow r && r.rnd != 7
  | .awrite r => okARow r && r.rnd == 0 && !r.sat
  | .ascale _ _ x col => col || x == 0
  | .mld _ _ d _ r => decide (d.toNat + r.toNat + 1 ≤ 64)
  | .mst _ _ _ d r => decide (d.toNat + r.toNat + 1 ≤ 64)
  | .pset _ p _ _ => decide (p.toNat ≤ 11)
  | .parm _ p => decide (p.toNat ≤ 11)
  | .pstop _ p => decide (p.toNat ≤ 11)
  | .pstat _ _ p => decide (p.toNat ≤ 11)
  | .ldf z _ _ => z != 7
  | .ldx z _ _ => z != 7
  | .ld _ z _ _ => z != 7
  | .lds _ _ z _ _ => z != 7
  | .clean _ d m => d != 0 || (m.base == 0 && m.disp == 0)
  | .inval _ d m => d != 0 || (m.base == 0 && m.disp == 0)
  | .cpy c _ => okCpy c
  | .cpyt c => okCpy c
  | .cpym _ _ r _ _ _ q => decide (r.toNat ≤ 58) && q != 0
  | .cpyg _ _ r g _ e => decide (r.toNat ≤ 58) && (g || !e)
  | .walk a => decide (a.rg.toNat ≤ 58) && a.npar != 7 && (a.npar != 0 || a.rg == 0)
  | .permit _ _ n => n != 0
  | .permitLand _ r _ => decide (r.toNat ≤ 58)
  | .tokst _ _ d => decide (d.toNat ≤ 58)
  | .wload _ _ r _ => decide (r.toNat ≤ 58)
  | .sadd a => a.d == 0
  | .sset a => a.d == 0
  | .ssetm _ _ _ q _ _ => q != 0
  | .swait c _ _ _ => !c.getLsbD 2
  | .swaitv c _ _ _ => !c.getLsbD 2
  | .enq _ s _ c h j => (h || c == 0) && (j || s == 0)
  | .splitAny _ s o c w k => !c.getLsbD 2 && k == 0 && (w || (s == 0 && o == 0 && c == 0))
  | .splitHere s o c w _ => !c.getLsbD 2 && (w || (s == 0 && o == 0 && c == 0))
  | .gpset n _ b x => if x then n == 0 else b == 0
  | .gpget _ n b x => if x then n == 0 else b == 0
  | .xlq _ a r => !r || a == 0
  | .sslack _ a x => x || a == 0
  | .bstat _ a x => x || a == 0
  | _ => true

end Sys2Proof
end

