-- ==== Sys2Proof/Safety.lean ====
section
/-! DEFINITION. The words in which statements about states and runs are made: the acting task, when a slot of a strand is
open, when the operands of an X-strand instruction are ready, what an instruction leaves alone, and the invariants. -/

namespace Sys2Proof

/-- Where an instruction is legal: on both strands, on one, or on none: walker words, commands, requests and events are no words of a
strand (04 R81, R98). -/
inductive Legal where
  | both | access | execute | nowhere
  deriving DecidableEq, Repr

/-- The strands of an instruction by the opcode map (04 R98). -/
def Instr.legal : Instr → Legal
  | .add .. | .sub .. | .mul .. | .mulhI .. | .mulhN .. | .divI .. | .divN .. | .remI .. | .remN .. | .and ..
    | .or .. | .xor .. | .andn .. | .shl .. | .shr .. | .sar .. | .rotl .. | .minI .. | .minN .. | .maxI ..
    | .maxN .. | .clz .. | .popc .. | .bext .. | .bextI .. | .bins .. | .li .. | .liN .. | .lui .. | .lea ..
    | .cmp .. | .popAnd .. | .popOr .. | .popXor .. | .sel .. | .br .. | .jmpDirect .. | .jmpIndirect ..
    | .callDirect .. | .callIndirect .. | .ret .. | .loop .. | .qpush .. | .qpop .. | .srget .. | .srset ..
    | .waitt .. | .waittRel .. | .trap .. | .nop .. | .end_ .. | .brk .. | .bchk .. => .both
  | .bqpush .. | .pset .. | .parm .. | .pstop .. | .pstat .. | .tdef .. | .tfree .. | .tstate .. | .tfill ..
    | .tfillEmpty .. | .tfillFull .. | .ldf .. | .ldx .. | .ste .. | .stx .. | .ld .. | .st .. | .lds ..
    | .sts .. | .pref .. | .prefAdapter .. | .disc .. | .discp .. | .clean .. | .inval .. | .fenceRel ..
    | .fenceAcq .. | .rbind .. | .runbind .. | .srel .. | .sacq .. | .cpy .. | .cpym .. | .cpyt .. | .cpyg ..
    | .walk .. | .permit .. | .permitLand .. | .permitUnland .. | .tokw .. | .tokst .. | .wload .. | .sadd ..
    | .sfadd .. | .sfaddLive .. | .scas .. | .sset .. | .ssetm .. | .swait .. | .swaitv .. | .sdecl ..
    | .prio .. | .enq .. | .splitAny .. | .splitHere .. | .retire .. | .gpset .. | .gpget .. | .xlq ..
    | .eqpush .. | .sslack .. | .srung .. | .srungPin .. | .srungUnpin .. | .samp .. | .bpost .. | .bstat ..
    | .ckpt .. | .ckptSize .. | .dbgSt .. | .dbgRd .. | .dbgWr .. | .dbgHalt .. | .dbgGo .. | .yield .. => .access
  | .loopr .. | .bqbr .. | .vadd .. | .vsub .. | .vmul .. | .vfma .. | .vmin .. | .vmax .. | .vabs ..
    | .vexp2 .. | .vlog2 .. | .vrcp .. | .vrsq .. | .vcvt .. | .vmxq .. | .vmxd .. | .vcmp .. | .vsel ..
    | .vand .. | .vor .. | .vxor .. | .vshl .. | .vshr .. | .vsar .. | .vred .. | .vscan .. | .vhist ..
    | .vbcast .. | .viota .. | .vperm .. | .vseed .. | .vrand .. | .vclass .. | .vorder .. | .mmov ..
    | .mzero .. | .mxpose .. | .mshuf .. | .mma .. | .mmag .. | .azero .. | .aread .. | .awrite .. | .asmx ..
    | .arsc .. | .anorm .. | .astat .. | .abias .. | .amov .. | .ascale .. | .mld .. | .mst .. => .execute
  | .l1Eviction .. | .walkerLit .. | .walkerLitx .. | .walkerLoop .. | .walkerFetch .. | .walkerSend ..
    | .walkerWrite .. | .walkerAwait .. | .walkerSignal .. | .walkerTok .. | .walkerCall ..
    | .recordAdmission .. | .taskDispatch .. | .backfaultResolved .. | .backfaultTimeout .. | .taskRestore ..
    | .residencyAllocate .. | .doorbell .. | .launch .. | .replay .. | .setgp .. | .specdepth .. | .fenceIb ..
    | .wait .. | .signal .. | .slotfree .. | .commandCompletion .. | .mapload .. | .mapset .. | .reserve ..
    | .latepool .. | .migrate .. | .streamOpen .. | .streamClose .. | .streamUpdate .. | .frameStart ..
    | .encoderTileRead .. | .frameComplete .. | .decode .. | .samplerRequest .. | .groupOpen .. | .groupClose ..
    | .siblingRelease .. | .groupRecord .. | .debug .. | .ctxreset .. | .attest .. | .l2PatrolScrub ..
    | .memoryScrub .. | .errorHandling .. | .contextTermination .. | .wayQuarantine .. | .mboutHead ..
    | .mbinTail .. | .registerWrite .. | .watchdogHang .. | .powerBoundary .. | .operatingPointChange ..
    | .temperatureSample .. | .voltageDroop .. | .ptmSync .. | .contextReset .. | .firmwareLoad ..
    | .hostMemoryWrite .. | .peerPortRequest .. | .routingTableUpdate .. | .lpddrTrainingDone ..
    | .cxlLinkChange .. | .droopRecovery .. | .waittHoldEnd .. | .hintServe .. | .cpytDue .. | .copyRow ..
    | .tokenComplete .. | .walkerDup .. | .walkerDrop .. | .walkerSwap .. | .walkerOver .. | .walkerAdd ..
    | .walkerSub .. | .walkerMul .. | .walkerShl .. | .walkerAnd .. | .walkerEndl .. | .walkerRet ..
    | .walkerHalt .. | .walkerLaunchDone .. | .slotOperation .. | .remoteWaitRetry .. | .taskRetirement ..
    | .bankSwitch .. | .taskSave .. | .shadowEntryPerform .. | .stageBalancer .. | .ballotApply ..
    | .qreset .. | .qcreate .. | .qdestroy .. | .lcreq .. | .lifecycleWipeDone .. | .dbgreq .. | .fltread ..
    | .unknownMailboxRequest .. | .enterHostDrivenMode .. | .runOneCommand .. | .restartFennelCores ..
    | .leaveHostDrivenMode .. | .readFaultRecord .. | .readDeviceMemory .. | .deviceReset .. | .fullService ..
    | .powerUp .. => .nowhere

end Sys2Proof

namespace Sys2Proof.Machine

/-! ### The acting task -/

/-- `t` stands at the acting place, whose strand is `sd`. -/
def State.On (s : State) (sd : Side) (t : Task) : Prop := s.here = some t ∧ s.cur.side = sd

/-- The MEM slot of the A-strand may issue: no token of the set is PENDING, no held copy is named, no `tfill` is in progress
and no `srel` or `sacq` waits (04 R91, 08 R214, 09 R238, 10 R249). -/
def MemOpen (s : State) (t : Task) (w : BitVec 8) : Prop :=
  s.On .a t ∧ heldFault s t w = none ∧ t.tokWait w = false ∧ t.as.fill = none ∧ t.fenced = false

/-- The MEM slot may issue a strong access, release or acquire: no slot operation is under way (09 R237). -/
def StrongOpen (s : State) (t : Task) (w : BitVec 8) : Prop := MemOpen s t w ∧ t.as.outst = 0

/-- The scalar result of an instruction of either strand, and the pc moved on. -/
def Writes (i : Instr) (s : State) (t : Task) (d : Reg) (lat : Nat) (v : Word) : Prop :=
  exec i s = .next (finish s (t.result s.cur.side d lat v))

/-! ### Operands of the X-strand -/

/-- The matrix registers that an instruction reads and writes are declared, none is SPILLED, none needs a register of a halted task, and
`u` is the task with those that it writes bound (03 R63-R66). -/
def Claimed (s : State) (t : Task) (reads writes : List Nat) (u : Task) : Prop :=
  ∃ rs ws, t.slotsOf reads = some rs ∧ t.slotsOf writes = some ws ∧ (rs ++ ws).any t.spilled = false ∧
    s.takes t ws = false ∧ bindAll s.used (rs ++ ws) ws t = some u

/-- A fetch of operands that neither waits nor traps. -/
def Fetch.Ready (f : Fetch) : Prop := f.wait = false ∧ f.trap = none

/-- A vector instruction's operands are ready: the sources `x` and `y` read, the destination `dst` fixed, `u` the task after the port and
queue accesses (04 R89, R104). -/
def VReady (s : State) (t : Task) (o : VOp) (reads writes : List Nat) (a b d : Opd) (u : Task) (x y : OpVal) (dst : Dest) : Prop :=
  s.On .x t ∧ ∃ c f g, Claimed s t reads writes c ∧ (Fetch.start c).sources s.cc (widthOf o.ty.toNat) a b = (x, y, f) ∧
    f.dest d = (dst, g) ∧ g.Ready ∧ u = g.t

/-- The result of a vector instruction in flight: for each element the mask admits, the value of `f`, and the pc moved on. -/
def VWrites (i : Instr) (s : State) (u : Task) (ty lat : Nat) (dst : Dest) (act : Nat → Bool) (f : Nat → Nat) : Prop :=
  exec i s = .next (finishX s (u.launchX lat (dst.kind (widthOf ty)
    (rowOf (widthOf ty) ((List.range (1024 / widthOf ty)).map fun e => if act e then f e else 0))
    (elemMask (widthOf ty) act))))

/-- The task after the lane generators have stepped where the rounding asks for it (02 R38). -/
def Task.stepped (t : Task) (o : VOp) : Task := if t.rmode o.rnd = .sr then t.stepLanes (t.mask o.mask) else t

/-- The accumulator tiles lie in the window and the array is free; `u` is the task that holds it (07 R168, R169). -/
def ArrayFree (s : State) (t : Task) (tiles : List Nat) (hold : Nat) (u : Task) : Prop :=
  s.On .x t ∧ (∀ a ∈ tiles, a < t.win.acSize) ∧ t.xs.array = 0 ∧ u = t.onX fun x => { x with array := hold }

/-- The SEM slot of the A-strand may issue a strong instruction: no `srel` or `sacq` waits and no slot operation is under way (09 R238,
11 R280). -/
def SemOpen (s : State) (t : Task) : Prop := s.On .a t ∧ t.fenced = false ∧ t.as.outst = 0

/-! ### Walkers -/

/-- Job `j` is the walk program at the acting place, with program state `w` (10 R270). -/
def State.Walking (s : State) (j : Job) (w : Walk) : Prop := tfind s.jobs s.job = some j ∧ j.walk = some w

/-- The walker's accept queue has room and the token is not PENDING (10 R247, R254). -/
def HandOpen (s : State) (t : Task) (k : BitVec 3) (w : BitVec 2) : Prop :=
  (t.tok k.toNat).st ≠ .pending ∧ s.acceptFull (clusterOf s.cur.core) w.toNat (decide (t.cls.cur < 2)) = false

/-- A job is handed to its walker: it takes the next number, joins the queue of its class, its token becomes PENDING, and the pc moves on. -/
def Hands (i : Instr) (s : State) (t : Task) (k : BitVec 3) (j : Job) : Prop :=
  exec i s = .next (finishA
    (({ s with jobs := tins s.jobs s.nextJob j, nextJob := s.nextJob + 1 } : State).putWalker j.cluster j.w
      ((s.walker j.cluster j.w).push j.lat s.nextJob))
    (t.onA fun a => { a with toks := tset Token.zero a.toks k.toNat { st := .pending, errc := 0, done := 0, job := s.nextJob } }))

/-! ### What an instruction leaves alone -/

/-- The byte that a core's weak load for a context reads at a physical address (09 R223, R236). -/
def State.coreByte (s : State) (core ctx pa : Nat) : Byte := sectorByte (s.loadL1 core ctx (pa / 32)).1.data (pa % 32)

/-- Nothing but the acting task changes. -/
def OnlyTask (s s' : State) : Prop := ∃ u, s' = s.putHere u

/-! ### Invariants -/

/-- CLASS.CUR of every task, in a bank or saved, is never worse than its CLASS.SET; 0 is the best class (11 R295). -/
def State.ClassOk (s : State) : Prop :=
  (∀ e ∈ s.tasks, e.2.cls.cur ≤ e.2.cls.set) ∧ ∀ e ∈ s.fe.saved, e.2.task.cls.cur ≤ e.2.task.cls.set

/-- No word's own marks stand between steps: every step begins with the strand free to issue. -/
def State.Clear (s : State) : Prop := s.stall = none ∧ s.trapped = false

end Sys2Proof.Machine
end

