-- ==== Sys2Proof/Certificates/Slice0/Obligations.lean ====
section
/-! DEFINITION. The statements for the provers. -/

open Sys2Proof Sys2Proof.Machine

/-- The pairwise tree of 2^k values from place `j` on (02 R43). -/
def pairTree (h : Nat → Nat → Nat) (v : Nat → Nat) : Nat → Nat → Nat
  | 0, j => v j
  | k + 1, j => h (pairTree h v k j) (pairTree h v k (j + 2 ^ k))

/-- Element `j` of a scan after `k` levels (02 R44). -/
def scanAt (h : Nat → Nat → Nat) (v : Nat → Nat) : Nat → Nat → Nat
  | 0, j => v j
  | k + 1, j => if 2 ^ k ≤ j then h (scanAt h v k (j - 2 ^ k)) (scanAt h v k j) else scanAt h v k j

/-! ### Registers and scalar instructions (03, 05) -/

/-- 03 R56: s0 reads 0 and discards writes, and every other scalar register of a strand holds the last value written.
03 R58: g0 reads all ones and discards writes, every other mask holds what is written, and bit i enables cell i. -/
def Obligations.ScalarRegisters : Prop :=
  ((∀ (t : Task) (sd : Side), t.rd sd 0 = 0) ∧
    (∀ (t : Task) (sd : Side) (v : Word), (t.onSt sd fun st => st.setReg 0 v) = t) ∧
    (∀ (t : Task) (sd : Side) (lat : Nat) (v : Word), t.result sd 0 lat v = t) ∧
    ∀ (t : Task) (sd : Side) (r q : Reg) (v : Word), r ≠ 0 →
      (t.onSt sd fun st => st.setReg r.toNat v).rd sd q = if q = r then v else t.rd sd q) ∧
  ((∀ t : Task, t.mask 0 = BitVec.allOnes 64) ∧
    (∀ (t : Task) (v : Word), t.performPlain (.gmask 0 v) = t) ∧
    (∀ (t : Task) (g h : BitVec 3) (v : Word), g ≠ 0 →
      (t.performPlain (.gmask g.toNat v)).mask h = if h = g then v else t.mask h) ∧
    ∀ (g : Word) (e : Nat), activeAt 16 g e = g.getLsbD e)

/-- 05 R112-R115, R118: the result of every two-source instruction of the integer family and of `lea`, its latency, and the pc
moved on.
05 R114: shifts and rotations by b[5:0], and ILL 0x0E for an immediate outside 0-63.
05 R116: a bit field extracted or inserted, bit by bit, with w held as w - 1, and ILL 0x0E for a field past bit 63. -/
def Obligations.IntegerResults : Prop :=
  (∀ (s : State) (t : Task) (d a : Reg) (b : Src) (h : BitVec 3), s.here = some t →
      let x := t.rd s.cur.side a
      let y := match b with | .reg r => t.rd s.cur.side r | .imm v => v.signExtend 64
      Writes (.add d a b) s t d 1 (x + y) ∧
      Writes (.sub d a b) s t d 1 (x - y) ∧
      Writes (.mul d a b) s t d 3 (x * y) ∧
      Writes (.mulhI d a b) s t d 3 (BitVec.ofInt 64 (x.toInt * y.toInt / 2 ^ 64)) ∧
      Writes (.mulhN d a b) s t d 3 (BitVec.ofNat 64 (x.toNat * y.toNat / 2 ^ 64)) ∧
      Writes (.divI d a b) s t d 18 (if y = 0 then BitVec.allOnes 64 else BitVec.ofInt 64 (x.toInt.tdiv y.toInt)) ∧
      Writes (.divN d a b) s t d 18 (if y = 0 then BitVec.allOnes 64 else BitVec.ofNat 64 (x.toNat / y.toNat)) ∧
      Writes (.remI d a b) s t d 18 (if y = 0 then x else BitVec.ofInt 64 (x.toInt.tmod y.toInt)) ∧
      Writes (.remN d a b) s t d 18 (if y = 0 then x else BitVec.ofNat 64 (x.toNat % y.toNat)) ∧
      Writes (.and d a b) s t d 1 (x &&& y) ∧
      Writes (.or d a b) s t d 1 (x ||| y) ∧
      Writes (.xor d a b) s t d 1 (x ^^^ y) ∧
      Writes (.andn d a b) s t d 1 (x &&& ~~~y) ∧
      Writes (.minI d a b) s t d 1 (BitVec.ofInt 64 (min x.toInt y.toInt)) ∧
      Writes (.minN d a b) s t d 1 (BitVec.ofNat 64 (min x.toNat y.toNat)) ∧
      Writes (.maxI d a b) s t d 1 (BitVec.ofInt 64 (max x.toInt y.toInt)) ∧
      Writes (.maxN d a b) s t d 1 (BitVec.ofNat 64 (max x.toNat y.toNat)) ∧
      Writes (.lea d a b h) s t d 1 (BitVec.ofNat 64 (x.toNat + y.toNat * 2 ^ h.toNat))) ∧
  (∀ (s : State) (t : Task) (d a : Reg) (b : Src), s.here = some t →
      let x := t.rd s.cur.side a
      let n := match b with | .reg r => (t.rd s.cur.side r).toNat % 64 | .imm v => v.toNat
      let bad := match b with | .reg _ => False | .imm v => 63 < v.toNat
      (¬ bad →
        Writes (.shl d a b) s t d 1 (x <<< n) ∧ Writes (.shr d a b) s t d 1 (x >>> n) ∧
        Writes (.sar d a b) s t d 1 (BitVec.ofInt 64 (x.toInt / 2 ^ n)) ∧
        Writes (.rotl d a b) s t d 1 ((x <<< n) ||| (x >>> (64 - n)))) ∧
      (bad → ∀ i ∈ [Instr.shl d a b, .shr d a b, .sar d a b, .rotl d a b], exec i s = .next (ill s 0x0E))) ∧
  (∀ (s : State) (t : Task) (d a lo w : Reg), s.here = some t →
      let x := t.rd s.cur.side a
      (lo.toNat + w.toNat + 1 ≤ 64 →
        (∃ v, Writes (.bext d a lo w) s t d 1 v ∧
          ∀ i < 64, v.getLsbD i = if i ≤ w.toNat then x.getLsbD (lo.toNat + i) else false) ∧
        (∃ v, Writes (.bextI d a lo w) s t d 1 v ∧
          ∀ i < 64, v.getLsbD i = x.getLsbD (lo.toNat + min i w.toNat)) ∧
        ∃ v, Writes (.bins d a lo w) s t d 1 v ∧
          ∀ i < 64, v.getLsbD i =
            if lo.toNat ≤ i ∧ i ≤ lo.toNat + w.toNat then x.getLsbD (i - lo.toNat) else (t.rd s.cur.side d).getLsbD i) ∧
      (64 < lo.toNat + w.toNat + 1 →
        ∀ i ∈ [Instr.bext d a lo w, .bextI d a lo w, .bins d a lo w], exec i s = .next (ill s 0x0E)))

/-- 05 R114, R117: counts of leading zeros and of ones, and the constants.
05 R119-R121, R138: a comparison and the combinations write one predicate, `sel` chooses under its guard, `nop` only moves on. -/
def Obligations.ConstantAndPredicateResults : Prop :=
  (∀ (s : State) (t : Task) (d a : Reg) (imm : BitVec 48), s.here = some t →
      let x := t.rd s.cur.side a
      (∃ n, Writes (.clz d a) s t d 1 (BitVec.ofNat 64 n) ∧ n ≤ 64 ∧ x.toNat < 2 ^ (64 - n) ∧
        (n < 64 → 2 ^ (63 - n) ≤ x.toNat)) ∧
      Writes (.popc d a) s t d 1 (BitVec.ofNat 64 (((List.range 64).map fun i => if x.getLsbD i then 1 else 0).sum)) ∧
      Writes (.li d imm) s t d 1 (imm.signExtend 64) ∧
      Writes (.liN d imm) s t d 1 (imm.setWidth 64) ∧
      Writes (.lui d imm) s t d 1 (imm ++ (t.rd s.cur.side d).extractLsb' 0 16 : BitVec 64)) ∧
  (∀ (s : State) (t : Task) (p : BitVec 3) (x y g c : Guard) (d a : Reg) (b : Src), s.here = some t →
      let sd := s.cur.side
      let u := t.rd sd a
      let v := t.src sd b
      let sets (i : Instr) (r : Bool) : Prop := exec i s = .next (finish s (t.predResult sd p 1 r))
      sets (.cmp .eq p a b) (decide (u = v)) ∧ sets (.cmp .ne p a b) (decide (u ≠ v)) ∧
      sets (.cmp .ltI p a b) (decide (u.toInt < v.toInt)) ∧ sets (.cmp .geI p a b) (decide (u.toInt ≥ v.toInt)) ∧
      sets (.cmp .ltN p a b) (decide (u.toNat < v.toNat)) ∧ sets (.cmp .geN p a b) (decide (u.toNat ≥ v.toNat)) ∧
      sets (.cmp .leI p a b) (decide (u.toInt ≤ v.toInt)) ∧ sets (.cmp .gtI p a b) (decide (u.toInt > v.toInt)) ∧
      sets (.cmp .leN p a b) (decide (u.toNat ≤ v.toNat)) ∧ sets (.cmp .gtN p a b) (decide (u.toNat > v.toNat)) ∧
      sets (.cmp .tst p a b) (decide (u &&& v ≠ 0)) ∧ sets (.cmp .ntst p a b) (decide (u &&& v = 0)) ∧
      sets (.popAnd p x y) (t.guard sd x && t.guard sd y) ∧ sets (.popOr p x y) (t.guard sd x || t.guard sd y) ∧
      sets (.popXor p x y) (Bool.xor (t.guard sd x) (t.guard sd y)) ∧
      (t.guard sd g = true → Writes (.sel g d c a b) s t d 1 (if t.guard sd c then u else v)) ∧
      (t.guard sd g = false → exec (.sel g d c a b) s = .next (finish s t)) ∧
      exec .nop s = .next (finish s t))

/-- The frame of the scalar instructions (05 R112-R121): when one goes on without a trap, nothing but the acting task changes, and
of it only the destination register with its place in the scoreboard (A-strand) or in flight (X-strand), and the pc. -/
def Obligations.ScalarFrame : Prop :=
  ∀ (s s' : State) (t : Task) (d a lo w : Reg) (b : Src) (h : BitVec 3) (imm : BitVec 48) (g c : Guard),
    s.here = some t → s.trapped = false →
    ∀ i ∈ [Instr.add d a b, .sub d a b, .mul d a b, .mulhI d a b, .mulhN d a b, .divI d a b, .divN d a b, .remI d a b,
           .remN d a b, .and d a b, .or d a b, .xor d a b, .andn d a b, .shl d a b, .shr d a b, .sar d a b, .rotl d a b,
           .minI d a b, .minN d a b, .maxI d a b, .maxN d a b, .clz d a, .popc d a, .bext d a lo w, .bextI d a lo w,
           .bins d a lo w, .li d imm, .liN d imm, .lui d imm, .lea d a b h, .sel g d c a b, .nop],
      exec i s = .next s' → s'.trapped = false →
        (∃ u, s' = s.putHere u ∧
          (∀ r, r ≠ d → u.rd s.cur.side r = t.rd s.cur.side r) ∧ (∀ sd, sd ≠ s.cur.side → u.st sd = t.st sd) ∧
          { u.st s.cur.side with pc := (t.st s.cur.side).pc, regs := (t.st s.cur.side).regs } = t.st s.cur.side ∧
          { u.as with ready := t.as.ready } = t.as ∧ { u.xs with flights := t.xs.flights } = t.xs ∧
          { u with a := t.a, x := t.x, as := t.as, xs := t.xs } = t) ∧
        ∀ core ctx pa, s'.coreByte core ctx pa = s.coreByte core ctx pa

/-- 05 R123, R124, R126; 04 R103: direct branches and `loop`. A taken one moves to PC + DISP32, is charged with its target's
fetch, and leaves one cycle empty; `call` writes the link to s63.
05 R122, R123: indirect branches go to sA / 8, and a taken one whose target is no word address of the 57-bit space is ILL 0x40.
05 R125: `loopr` loops as `loop` does and turns the ring back by RRB.STEP, taken or not; with no ring it is `loop`.
05 R133, R135, R137: holds until a Device Time, the end of a hold, `end`, and `brk` with and without debugging. -/
def Obligations.BranchResults : Prop :=
  (∀ (s : State) (t : Task) (g : Guard) (disp : BitVec 32), s.here = some t →
      let sd := s.cur.side
      let target := (t.st sd).pc + disp.signExtend 64
      (t.guard sd g = true →
        exec (.br g disp) s = .next (s.putHere (t.jump sd target)) ∧
        exec (.jmpDirect g disp) s = .next (s.putHere (t.jump sd target)) ∧
        exec (.callDirect g disp) s = .next (s.putHere ((t.result sd 63 1 (((t.st sd).pc + 1) * 8)).jump sd target))) ∧
      (t.guard sd g = false →
        ∀ i ∈ [Instr.br g disp, .jmpDirect g disp, .callDirect g disp], exec i s = .next (finish s t)) ∧
      ((t.st sd).loopc ≠ 0 →
        exec (.loop disp) s =
          .next (s.putHere ((t.onSt sd fun st => { st with loopc := st.loopc - 1 }).jump sd target))) ∧
      ((t.st sd).loopc = 0 → exec (.loop disp) s = .next (finish s t)) ∧
      ∀ (u : Task) (v : Word),
        (u.jump sd v).st sd = { u.st sd with pc := v, via := some (u.st sd).pc } ∧
        (u.jump .a v).as = { u.as with gap := 1 } ∧ (u.jump .x v).xs = { u.xs with gap := 1 }) ∧
  (∀ (s : State) (t : Task) (g : Guard) (a : Reg), s.here = some t →
      let sd := s.cur.side
      let v := t.rd sd a
      let bad := v.toNat % 8 ≠ 0 ∨ 2 ^ 57 ≤ v.toNat
      (t.guard sd g = true → ¬ bad →
        exec (.jmpIndirect g a) s = .next (s.putHere (t.jump sd (BitVec.ofNat 64 (v.toNat / 8)))) ∧
        exec (.ret g a) s = .next (s.putHere (t.jump sd (BitVec.ofNat 64 (v.toNat / 8)))) ∧
        exec (.callIndirect g a) s =
          .next (s.putHere ((t.result sd 63 1 (((t.st sd).pc + 1) * 8)).jump sd (BitVec.ofNat 64 (v.toNat / 8))))) ∧
      (t.guard sd g = true → bad →
        ∀ i ∈ [Instr.jmpIndirect g a, .ret g a, .callIndirect g a], exec i s = .next (ill s 0x40)) ∧
      (t.guard sd g = false →
        ∀ i ∈ [Instr.jmpIndirect g a, .ret g a, .callIndirect g a], exec i s = .next (finish s t))) ∧
  (∀ (s : State) (t : Task) (disp : BitVec 32), s.On .x t →
      (t.who.n ≤ 32 → exec (.loopr disp) s = exec (.loop disp) s) ∧
      (32 < t.who.n → t.who.n ≤ 96 → t.xs.base.toNat < t.ring → t.xs.step.toNat ≤ t.ring →
        ∃ u, exec (.loopr disp) s = .next (s.putHere u) ∧
          (u.xs.base.toNat + t.xs.step.toNat) % t.ring = t.xs.base.toNat % t.ring ∧ u.xs.base.toNat < t.ring ∧
          (t.x.loopc ≠ 0 → u.x.pc = t.x.pc + disp.signExtend 64 ∧ u.x.loopc = t.x.loopc - 1) ∧
          (t.x.loopc = 0 → u.x.pc = t.x.pc + 1 ∧ u.x.loopc = 0))) ∧
  (∀ (s : State) (t : Task) (a : Reg) (b : Src), s.here = some t →
      let sd := s.cur.side
      let v := t.rd sd a + t.src sd b
      let held (w : Word) : Task := t.onSt sd fun st => { st with hold := some w }
      (s.dt.toNat < v.toNat → exec (.waitt a b) s = .next (finish s (held v))) ∧
      (v.toNat ≤ s.dt.toNat → exec (.waitt a b) s = .next (finish s t)) ∧
      (s.dt.toNat < (s.dt + v).toNat → exec (.waittRel a b) s = .next (finish s (held (s.dt + v)))) ∧
      ((s.dt + v).toNat ≤ s.dt.toNat → exec (.waittRel a b) s = .next (finish s t)) ∧
      (∀ w, (t.st sd).hold = some w → w.toNat ≤ s.dt.toNat →
        exec .waittHoldEnd s = .next (s.putHere (t.onSt sd fun st => { st with hold := none }))) ∧
      (∀ w, (t.st sd).hold = some w → s.dt.toNat < w.toNat → exec .waittHoldEnd s = .next s) ∧
      exec .end_ s = .next (finish s (t.onSt sd fun st => { st with ended := true })) ∧
      ((s.ctx t.who.ctx).debug = false → exec .brk s = exec .nop s) ∧
      ((s.ctx t.who.ctx).debug = true →
        ∃ u, exec .brk s = .next (s.putHere u) ∧ u.stop = some (.debug (match sd with | .a => 1 | .x => 2)) ∧
          (u.st sd).trap = { code := 0x0A, sub := 0, fatal := false } ∧ (u.st sd).trappc = (t.st sd).pc ∧
          (u.st sd).pc = (t.st sd).pc + 1))

/-- 05 R127-R130: pushes and pops of the three queues between the strands, where the queue has room or an entry that may be taken.
05 R130, R131; 08 R214: a pop of an empty queue and a push to a full one wait, unless the partner strand has ended: then they
raise QUEUE. An entry too young waits whatever the partner does, and a push or pop of the A-strand waits while its MEM slot
stalls. -/
def Obligations.QueueResults : Prop :=
  (∀ (s : State) (t : Task) (g : Guard) (disp : BitVec 32) (r : Reg), s.here = some t →
      let cc := (s.core s.cur.core).cc
      let pushed (q : Queue) (v : Word) : Queue := { q with items := q.items ++ [{ v := v, at_ := cc }] }
      let room (q : Queue) (n : Nat) : Prop := q.items.length + (if q.popped = cc + 1 then 1 else 0) < n
      let popped (rest : List QEntry) : Queue := { items := rest, popped := cc + 1 }
      (s.cur.side = .a → room t.bq 64 →
        exec (.bqpush g) s = .next (finish s { t with bq := pushed t.bq (if t.guard .a g then 1 else 0) })) ∧
      (s.cur.side = .a → t.memHeld = false → room t.aq 32 → exec (.qpush r) s = .next (finish s { t with aq := pushed t.aq (t.rd .a r) })) ∧
      (s.cur.side = .x → room t.xq 16 → exec (.qpush r) s = .next (finish s { t with xq := pushed t.xq (t.rd .x r) })) ∧
      (∀ e rest, s.cur.side = .x → t.bq.items = e :: rest → e.at_ + 2 ≤ cc → e.v ≠ 0 →
        exec (.bqbr disp) s =
          .next (s.putHere ({ t with bq := popped rest }.jump .x (t.x.pc + disp.signExtend 64)))) ∧
      (∀ e rest, s.cur.side = .x → t.bq.items = e :: rest → e.at_ + 2 ≤ cc → e.v = 0 →
        exec (.bqbr disp) s = .next (finish s { t with bq := popped rest })) ∧
      (∀ e rest, s.cur.side = .a → t.memHeld = false → t.xq.items = e :: rest → e.at_ + 2 ≤ cc →
        exec (.qpop r) s = .next (finish s ({ t with xq := popped rest }.result .a r 1 e.v))) ∧
      ∀ e rest, s.cur.side = .x → t.aq.items = e :: rest → e.at_ + 2 ≤ cc →
        exec (.qpop r) s = .next (finish s ({ t with aq := popped rest }.result .x r 1 e.v))) ∧
  (∀ (s : State) (t : Task) (g : Guard) (disp : BitVec 32) (r : Reg), s.here = some t →
      let cc := (s.core s.cur.core).cc
      let queue := trapHere s 0x0B 0
      (s.cur.side = .x → t.bq.items = [] →
        exec (.bqbr disp) s = .next (if t.a.ended then queue else s.wait 1)) ∧
      (s.cur.side = .a → t.memHeld = true → exec (.qpop r) s = .next (s.wait 1) ∧ exec (.qpush r) s = .next (s.wait 1)) ∧
      (s.cur.side = .a → t.memHeld = false → t.xq.items = [] →
        exec (.qpop r) s = .next (if t.x.ended then queue else s.wait 1)) ∧
      (s.cur.side = .x → t.aq.items = [] → exec (.qpop r) s = .next (if t.a.ended then queue else s.wait 1)) ∧
      (∀ e rest, s.cur.side = .a → t.xq.items = e :: rest → cc < e.at_ + 2 → exec (.qpop r) s = .next (s.wait 1)) ∧
      (∀ e rest, s.cur.side = .x → t.aq.items = e :: rest → cc < e.at_ + 2 → exec (.qpop r) s = .next (s.wait 1)) ∧
      (∀ e rest, s.cur.side = .x → t.bq.items = e :: rest → cc < e.at_ + 2 → exec (.bqbr disp) s = .next (s.wait 1)) ∧
      (s.cur.side = .a → 64 ≤ t.bq.items.length →
        exec (.bqpush g) s = .next (if t.x.ended then queue else s.wait 1)) ∧
      (s.cur.side = .a → t.memHeld = false → 32 ≤ t.aq.items.length →
        exec (.qpush r) s = .next (if t.x.ended then queue else s.wait 1)) ∧
      (s.cur.side = .x → 16 ≤ t.xq.items.length →
        exec (.qpush r) s = .next (if t.a.ended then queue else s.wait 1)))

/-- 05 R132; 03 R76, R77: `srget` of an assigned register gives its value, with the fields of a few written out, and of any other
ILL 0x0D.
05 R132; 03 R75, R76: what `srset` writes, the limits that raise ILL 0x0E or 0x0A with the register kept, and ILL 0x0D for a
register that the strand may not write. -/
def Obligations.SystemRegisters : Prop :=
  (∀ (s : State) (t : Task) (d : Reg) (n : BitVec 6), s.here = some t →
      let sd := s.cur.side
      (n.toNat ≤ 0x15 → Writes (.srget d n) s t d 1 (sysRead s t sd n.toNat)) ∧
      (0x15 < n.toNat → exec (.srget d n) s = .next (ill s 0x0D)) ∧
      sysRead s t sd 0x09 = (t.st sd).loopc.setWidth 64 ∧ sysRead s t sd 0x0A = t.xs.rndm.setWidth 64 ∧
      sysRead s t sd 0x0C = s.dt ∧
      sysRead s t sd 0x0B = (BitVec.ofBool t.qskip.en ++ t.qskip.exp : BitVec 9).setWidth 64 ∧
      sysRead s t sd 0x11 =
        (BitVec.ofBool (t.st sd).trap.fatal ++ (t.st sd).trap.sub ++ (t.st sd).trap.code : BitVec 17).setWidth 64 ∧
      sysRead s t sd 0x12 = (t.cancelpc.setWidth 54 ++ 0#3 : BitVec 57).setWidth 64 ∧
      sysRead s t sd 0x15 = ((t.st sd).trappc.setWidth 54 ++ 0#3 : BitVec 57).setWidth 64) ∧
  (∀ (s : State) (t : Task) (n : BitVec 6) (b : Src), s.here = some t →
      let sd := s.cur.side
      let v := t.src sd b
      let base := v.extractLsb' 0 6
      let step := v.extractLsb' 16 6
      let exp := v.extractLsb' 0 8
      (n = 9 → exec (.srset n b) s = .next (finish s (t.onSt sd fun st => { st with loopc := v.setWidth 32 }))) ∧
      (n = 8 → sd = .x → (base.toNat < t.ring ∨ base = 0 ∧ t.ring = 0) → step ≠ 0 → step.toNat ≤ max t.ring 1 →
        exec (.srset n b) s = .next (finish s (t.onX fun x => { x with base := base, step := step }))) ∧
      (n = 8 → sd = .x → ((t.ring ≤ base.toNat ∧ ¬(base = 0 ∧ t.ring = 0)) ∨ step = 0 ∨ max t.ring 1 < step.toNat) →
        exec (.srset n b) s = .next (ill s 0x0E)) ∧
      (n = 10 → sd = .x → (v.extractLsb' 0 3).toNat < 6 →
        exec (.srset n b) s = .next (finish s (t.onX fun x => { x with rndm := v.extractLsb' 0 3 }))) ∧
      (n = 10 → sd = .x → 6 ≤ (v.extractLsb' 0 3).toNat → exec (.srset n b) s = .next (ill s 0x0A)) ∧
      (n = 11 → (v.getLsbD 8 = false ∨ (-126 ≤ exp.toInt ∧ exp.toInt ≤ 0)) →
        exec (.srset n b) s = .next (finish s { t with qskip := { exp := exp, en := v.getLsbD 8 } })) ∧
      (n = 11 → v.getLsbD 8 = true → (exp.toInt < -126 ∨ 0 < exp.toInt) → exec (.srset n b) s = .next (ill s 0x0E)) ∧
      (n = 18 → sd = .a → v.toNat % 8 = 0 →
        exec (.srset n b) s = .next (finish s { t with cancelpc := (v.extractLsb' 3 54).setWidth 64 })) ∧
      (n = 18 → sd = .a → v.toNat % 8 ≠ 0 → exec (.srset n b) s = .next (ill s 0x0E)) ∧
      (n ≠ 9 → n ≠ 11 → ¬(sd = .x ∧ (n = 8 ∨ n = 10)) → ¬(sd = .a ∧ n = 18) → exec (.srset n b) s = .next (ill s 0x0D)))

/-! ### Traps (04, 16, 19, 23) -/

/-- 04 R81: a core instruction on a strand where the opcode map does not allow it raises ILL 0x07. -/
def Obligations.IllegalStrand : Prop :=
  ∀ (s : State) (t : Task) (i : Instr), s.here = some t →
    (i.legal = .access ∧ s.cur.side = .x ∨ i.legal = .execute ∧ s.cur.side = .a) → exec i s = .next (ill s 0x07)

/-- 04 R83, R99; 19 R415; 23 R452, R454: a fatal trap writes TRAPINFO and TRAPPC, leaves the strands' pcs, empties the X-strand's
flights, stops the task, writes a fault record and requests termination of the context; no byte of memory and no other task
changes.
04 R99; 05 R136; 16 R344: the traps that are not fatal write TRAPINFO and TRAPPC and nothing else of the state; BACK also leaves
the bank not ready and gives F2 the fault, and `trap` is ILL 0x41 whose record carries its code.
The field of the record for the code of `trap` is the model's choice (log 19), a message for every BACK a reading (log 25). -/
def Obligations.TrapEntry : Prop :=
  (∀ (s : State) (t : Task) (code sub : Nat), s.here = some t → code < 256 → sub < 256 → code ≠ 4 → code ≠ 8 → code ≠ 10 →
      let sd := s.cur.side
      let s' := trapHere s code sub
      s'.trapped = true ∧
      (∃ u, s'.here = some u ∧
        (u.st sd).trap = { code := BitVec.ofNat 8 code, sub := BitVec.ofNat 8 sub, fatal := true } ∧
        (u.st sd).trappc = (t.st sd).pc ∧ u.a.pc = t.a.pc ∧ u.x.pc = t.x.pc ∧ u.a.regs = t.a.regs ∧ u.as = t.as ∧
        u.xs.flights = [] ∧ u.susp = some .stopped ∧ u.who = t.who) ∧
      (s'.ctx t.who.ctx).term.isSome ∧
      (∃ r rest, s'.fen.faults = r :: rest ∧ r.kind = 1 ∧ r.code = BitVec.ofNat 8 code ∧ r.sub = BitVec.ofNat 8 sub ∧
        r.ctx = some t.who.ctx ∧ r.core = s.cur.core ∧ r.bank = s.cur.bank ∧ r.pc = (t.st sd).pc <<< 3 ∧ r.dtick = s.dt ∧
        r.task = t.who.id) ∧
      s'.fen.nfaults = s.fen.nfaults + 1 ∧
      (∀ k, k ≠ s.cur.key → tfind s'.tasks k = tfind s.tasks k) ∧
      ∀ core ctx pa, s'.coreByte core ctx pa = s.coreByte core ctx pa) ∧
  ((∀ (s : State) (t : Task) (code sub : Nat), s.here = some t → code ∈ [4, 8, 10] → sub < 256 →
      let sd := s.cur.side
      trapHere s code sub =
        { s.putHere (t.onSt sd fun st =>
            { st with trap := { code := BitVec.ofNat 8 code, sub := BitVec.ofNat 8 sub, fatal := false }, trappc := st.pc })
          with trapped := true, stall := none }) ∧
    (∀ (s : State) (t : Task) (sub va kind : Nat), s.here = some t → sub < 256 →
      let s' := takeBack s t sub va kind
      (∃ u, s'.here = some u ∧ u.a.trap = { code := 4, sub := BitVec.ofNat 8 sub, fatal := false } ∧ u.a.trappc = t.a.pc ∧
        u.a.pc = t.a.pc ∧ u.a.regs = t.a.regs ∧ u.x = t.x ∧ u.xs = t.xs ∧ u.susp = some (.back (BitVec.ofNat 8 sub))) ∧
      (s'.ctx t.who.ctx).faults = (s.ctx t.who.ctx).faults ++
        [{ sub := BitVec.ofNat 8 sub, va := va, kind := kind, core := s.cur.core, bank := s.cur.bank, id := t.who.id, chip := none,
           at_ := s.dt.toNat, saved := none, job := none }] ∧
      (s'.ctx t.who.ctx).term = (s.ctx t.who.ctx).term) ∧
    ∀ (s : State) (t : Task) (code : BitVec 16), s.here = some t →
      ∃ s', exec (.trap code) s = .next s' ∧ s'.trapped = true ∧
        (∃ u, s'.here = some u ∧ (u.st s.cur.side).trap = { code := 1, sub := 0x41, fatal := true } ∧ u.susp = some .stopped) ∧
        ∃ r rest, s'.fen.faults = r :: rest ∧ r.tcode = code ∧ r.code = 1 ∧ r.sub = 0x41)

/-! ### Vectors (06) -/

/-- 06 R145, R147; 02 R31-R38: lane-wise floating-point instructions. Each active element is rounded once under RND and SAT with
its lane's generator; latencies 3, 4 and 8.
The exact fraction of `vexp2` is the model's choice, the steps of the generators a reading: log 102 and 100. -/
def Obligations.VectorFloat : Prop :=
  ∀ (s : State) (t : Task) (o : VOp) (d a b : Opd) (u : Task) (x y : OpVal) (dst : Dest) (f : Fmt),
    fmtOf o.ty.toNat = some f →
    let ty := o.ty.toNat
    let w := widthOf ty
    let md := t.rmode o.rnd
    let act := activeAt w (t.mask o.mask)
    (VReady s t o (opdRegs a ++ opdRegs b) (opdRegs d) a b d u x y dst →
      let v := u.stepped o
      let st := v.serve w
      let p e := f.val (x.elem ty md o.sat (st e) e)
      let q e := f.val (y.elem ty md o.sat (st e) e)
      VWrites (.vadd o d a b) s v ty 3 dst act (fun e => f.round md o.sat (st e) ((p e).add md (q e))) ∧
      VWrites (.vsub o d a b) s v ty 3 dst act (fun e => f.round md o.sat (st e) ((p e).add md (q e).neg)) ∧
      VWrites (.vmul o d a b) s v ty 3 dst act (fun e => f.round md o.sat (st e) ((p e).mul (q e)))) ∧
    (VReady s t o (opdRegs a ++ opdRegs b ++ opdRegs d) (opdRegs d) a b d u x y dst →
      let v := u.stepped o
      let st := v.serve w
      VWrites (.vfma o d a b) s v ty 4 dst act (fun e => f.round md o.sat (st e)
        (Val.fma md (f.val (x.elem ty md o.sat (st e) e)) (f.val (y.elem ty md o.sat (st e) e))
          (f.val (elemAt w (v.readDest w dst) e))))) ∧
    (VReady s t o (opdRegs a ++ opdRegs b) (opdRegs d) a b d u x y dst →
      let st := u.serve w
      let p e := f.val (x.elem ty .rne o.sat (st e) e)
      let q e := f.val (y.elem ty .rne o.sat (st e) e)
      VWrites (.vmin o d a b) s u ty 3 dst act (fun e => f.round .rne o.sat (st e) ((p e).min (q e))) ∧
      VWrites (.vmax o d a b) s u ty 3 dst act (fun e => f.round .rne o.sat (st e) ((p e).max (q e)))) ∧
    (VReady s t o (opdRegs a) (opdRegs d) a .zero d u x y dst →
      let v := u.stepped o
      let st := v.serve w
      let p e := f.val (x.elem ty md o.sat (st e) e)
      VWrites (.vabs o d a) s u ty 3 dst act
        (fun e => f.round .rne o.sat (u.serve w e) (f.val (x.elem ty .rne o.sat (u.serve w e) e)).abs) ∧
      VWrites (.vexp2 o d a) s v ty 8 dst act (fun e => f.round md o.sat (st e) (exp2Val (p e))) ∧
      VWrites (.vlog2 o d a) s v ty 8 dst act (fun e => f.round md o.sat (st e) (log2Val md (p e))) ∧
      VWrites (.vrcp o d a) s v ty 8 dst act (fun e => f.round md o.sat (st e) (rcpVal (p e))) ∧
      VWrites (.vrsq o d a) s v ty 8 dst act (fun e => f.round md o.sat (st e) (rsqVal (p e))))

/-- 06 R145, R146, R154; 02 R35: lane-wise integer arithmetic and shifts. Without SAT a result is reduced modulo 2^w; with it,
clamped to the type's range.
That exact sums and products step the generators is a reading: log 100. -/
def Obligations.VectorInteger : Prop :=
  ∀ (s : State) (t : Task) (o : VOp) (d a b : Opd) (u : Task) (x y : OpVal) (dst : Dest),
    fmtOf o.ty.toNat = none →
    let ty := o.ty.toNat
    let w := widthOf ty
    let i := ityOf ty
    let md := t.rmode o.rnd
    let act := activeAt w (t.mask o.mask)
    let result (r : Int) : Nat := if o.sat then (max i.lo (min i.hi r) % 2 ^ i.w).toNat else (r % 2 ^ i.w).toNat
    (VReady s t o (opdRegs a ++ opdRegs b) (opdRegs d) a b d u x y dst →
      let v := u.stepped o
      let p' e := i.val (x.elem ty md o.sat (v.serve w e) e)
      let q' e := i.val (y.elem ty md o.sat (v.serve w e) e)
      let p e := i.val (x.elem ty .rne o.sat (u.serve w e) e)
      let q e := i.val (y.elem ty .rne o.sat (u.serve w e) e)
      let n e := y.elem ty .rne o.sat (u.serve w e) e
      VWrites (.vadd o d a b) s v ty 3 dst act (fun e => result (p' e + q' e)) ∧
      VWrites (.vsub o d a b) s v ty 3 dst act (fun e => result (p' e - q' e)) ∧
      VWrites (.vmul o d a b) s v ty 3 dst act (fun e => result (p' e * q' e)) ∧
      VWrites (.vmin o d a b) s u ty 3 dst act (fun e => result (min (p e) (q e))) ∧
      VWrites (.vmax o d a b) s u ty 3 dst act (fun e => result (max (p e) (q e))) ∧
      VWrites (.vshl o d a b) s u ty 3 dst act (fun e => result
        (if n e < i.w then p e * 2 ^ n e
         else if o.sat then (if p e < 0 then i.lo else if p e = 0 then 0 else i.hi) else 0)) ∧
      VWrites (.vshr o d a b) s u ty 3 dst act (fun e =>
        if n e < w then x.elem ty .rne o.sat (u.serve w e) e / 2 ^ n e else 0)) ∧
    (VReady s t o (opdRegs a) (opdRegs d) a .zero d u x y dst →
      VWrites (.vabs o d a) s u ty 3 dst act
        (fun e => result (Int.natAbs (i.val (x.elem ty .rne o.sat (u.serve w e) e)))))

/-- 06 R152-R154, R162-R164: selection, bit operations, the arithmetic shift, classes, order keys and moves; none rounds. -/
def Obligations.VectorBits : Prop :=
  ∀ (s : State) (t : Task) (o : VOp) (d a b : Opd) (u : Task) (x y : OpVal) (dst : Dest) (inv : Bool),
    let ty := o.ty.toNat
    let w := widthOf ty
    let act := activeAt w (t.mask o.mask)
    (VReady s t o (opdRegs a ++ opdRegs b) (opdRegs d) a b d u x y dst →
      let p e := x.elem ty .rne o.sat (u.serve w e) e
      let q e := y.elem ty .rne o.sat (u.serve w e) e
      VWrites (.vsel o d a b) s u ty 2 dst (fun _ => true) (fun e => if act e then p e else q e) ∧
      VWrites (.vand o d a b) s u ty 3 dst act (fun e => p e &&& q e) ∧
      VWrites (.vor o d a b) s u ty 3 dst act (fun e => p e ||| q e) ∧
      VWrites (.vxor o d a b) s u ty 3 dst act (fun e => p e ^^^ q e) ∧
      VWrites (.vsar o d a b) s u ty 3 dst act (fun e =>
        let v := (ITy.mk w true).val (p e)
        if q e < w then (v / 2 ^ q e % 2 ^ w).toNat else if v < 0 then 2 ^ w - 1 else 0)) ∧
    (VReady s t o (opdRegs a) (opdRegs d) a .zero d u x y dst →
      let p e := x.elem ty .rne o.sat (u.serve w e) e
      VWrites (.mmov o d a) s u ty 2 dst act p ∧
      VWrites (.vclass o d a) s u ty 2 dst act
        (fun e => match fmtOf ty with | some f => 2 ^ classBit f (p e) | none => 0) ∧
      VWrites (.vorder o inv d a) s u ty 2 dst act (fun e => orderKey ty inv (p e)))

/-- 06 R148-R151, R155-R158, R160: instructions of one source or of a shape of their own: conversion, MX blocks, comparison,
reduction and scan in the fixed tree, broadcast and permutation.
Conversions of one width with SAT, constants as MX sources and element 0 of `vscan` are readings: log 12, 15 and 101. -/
def Obligations.VectorShapes : Prop :=
  ∀ (s : State) (t : Task) (o : VOp) (d a b : Opd) (c u : Task) (x y : OpVal) (dst : Dest) (f h : Fetch) (k : BitVec 3)
    (uty : BitVec 4) (r : Reg) (op : BitVec 2) (bi : BIdx),
    s.On .x t →
    let ty := o.ty.toNat
    let w := widthOf ty
    let n := 1024 / w
    let md := t.rmode o.rnd
    let g := t.mask o.mask
    let act := activeAt w g
    let ready (sw : Nat) : Prop :=
      Claimed s t (opdRegs a) (opdRegs d) c ∧ (Fetch.start c).source s.cc sw a = (x, f) ∧ f.dest d = (dst, h) ∧ h.Ready ∧ u = h.t
    (ready (widthOf uty.toNat) →
      let ns := 1024 / widthOf uty.toNat
      let sr := md = .sr ∧ exactCvt ty uty.toNat = false
      let v := if sr then u.stepLanes g else u
      let part e := if ns ≤ n then decide (k.toNat * ns ≤ e) && decide (e < k.toNat * ns + ns) else true
      let from_ e := if ns ≤ n then e - k.toNat * ns else k.toNat * n + e
      VWrites (.vcvt o d a k uty) s v ty 3 dst (fun e => part e && act e) (fun e =>
        convert ty uty.toNat md o.sat (v.serve w e)
          (x.elem uty.toNat md o.sat (if sr then v.serve w e else u.serve (widthOf uty.toNat) (from_ e)) (from_ e)))) ∧
    (ready 32 →
      let v := if md = .sr then u.stepLanes (BitVec.allOnes 64) else u
      let st e := v.serve w (32 * k.toNat + e)
      let vals := (List.range 32).map fun e => fp32.val (x.elem 0 md false (st e) e)
      let here_ e := decide (32 * k.toNat ≤ e) && decide (e < 32 * k.toNat + 32)
      let row := rowOf w ((List.range n).map fun e => if here_ e then
        mxElem (mxOf ty) md (st (e - 32 * k.toNat)) (mxScale (mxOf ty) vals) (amax vals).isZero (vals.getD (e - 32 * k.toNat) .nan) else 0)
      let v1 := v.launchX 6 (dst.kind w row (elemMask w here_))
      exec (.vmxq o d a r k) s = .next (finishX s
        (if r = 0 then v1 else v1.launchX 6 (.sbyte r.toNat k.toNat (BitVec.ofNat 8 (mxScale (mxOf ty) vals)))))) ∧
    (ready w → ∀ row, x = .row row →
      let v := u.stepped o
      let scale := ((v.rd .x r).toNat / 2 ^ (8 * k.toNat)) % 256
      exec (.vmxd o d a r k) s = .next (finishX s (v.launchX 3 (dst.kind 32
        (rowOf 32 ((List.range 32).map fun e => if activeAt 32 g e then
          fp32.round md o.sat (v.serve 32 e) ((mxOf ty).val scale (elemAt w row (32 * k.toNat + e))) else 0))
        (elemMask 32 (activeAt 32 g)))))) ∧
    (ready w → ∀ hc, x = .const hc → ∃ row, exec (.vmxd o d a r k) s =
      .next (finishX s ((u.stepped o).launchX 3 (dst.kind 32 row (elemMask 32 (activeAt 32 g)))))) ∧
    (ready w → let m : Nat := if n = 64 then 6 else 5
      let sr := md == .sr && op.toNat == 0 && (fmtOf ty).isSome
      let v0 := (List.range n).map fun e => if act e then x.elem ty md o.sat (u.serve w e) e else redIdent ty op.toNat
      let tree := redTree (redOp ty op.toNat md o.sat) sr (fun j => w * j / 16) m 0 (v0, u.xs.gens)
      let scan := scanTree (redOp ty op.toNat md o.sat) sr (fun j => w * j / 16) n m 0 (v0, u.xs.gens)
      exec (.vred o op d a) s = .next (finishX s ((u.onX fun z => { z with gens := tree.2 }).launchX 7
        (dst.kind w (rowOf w tree.1) (elemMask w fun e => decide (e = 0))))) ∧
      let first := match fmtOf ty with | some t => t.round .rne o.sat 0 (t.val (scan.1.getD 0 0)) | none => scan.1.getD 0 0
      exec (.vscan o op d a) s = .next (finishX s ((u.onX fun z => { z with gens := scan.2 }).launchX 7
        (dst.kind w (rowOf w (scan.1.set 0 first)) (elemMask w act))))) ∧
    (ready w →
      let idx := match bi with | .imm v => v.toNat | .sreg q => (u.rd .x q).toNat % 64 % n
      exec (.vbcast o d a bi) s = .next (finishX s (u.launchX 2
        (dst.kind w (rowOf w (List.replicate n (x.elem ty .rne o.sat 0 idx))) (elemMask w act))))) ∧
    (VReady s t o (opdRegs a ++ opdRegs b) (opdRegs d) a b d u x y dst →
      exec (.vperm o d a b) s = .next (finishX s (u.launchX 4 (dst.kind w
        (rowOf w ((List.range n).map fun e => x.elem ty .rne o.sat 0 (y.elem ty .rne o.sat 0 e % n))) (elemMask w act))))) ∧
    (∀ m : BitVec 3, Claimed s t (opdRegs a ++ opdRegs b) [] c → (Fetch.start c).sources s.cc w a b = (x, y, f) → f.Ready →
      exec (.vcmp o m a b) s = .next (finishX s (if m = 0 then f.t else f.t.launchX 2 (.gmask m.toNat
        (maskOf fun i => act (i * 16 / w) &&
          vcond ty o.rnd.toNat (x.elem ty .rne o.sat 0 (i * 16 / w)) (y.elem ty .rne o.sat 0 (i * 16 / w)))))))

/-- 06 R157, R159, R161, R165-R167: histogram, iota, the lane generators, and the rearrangements of whole registers. -/
def Obligations.VectorRegisters : Prop :=
  ∀ (s : State) (t : Task) (o : VOp) (d a : Opd) (c u : Task) (x : OpVal) (dst : Dest) (f h : Fetch) (r : Reg) (m q : BitVec 6)
    (j k : Nat) (sh : BitVec 4),
    s.On .x t →
    let ty := o.ty.toNat
    let w := widthOf ty
    let act := activeAt w (t.mask o.mask)
    let all : Row := BitVec.allOnes 1024
    (Claimed s t (m.toNat :: opdRegs a) [m.toNat] c → (Fetch.start c).source s.cc 16 a = (x, f) → f.Ready →
      f.t.slotOf m.toNat = some k → ∃ rows, exec (.vhist o m q a sh) s = .next (finishX s (f.t.launchX 5 (.cells k rows))) ∧
        rows.length = 4 ∧ ∀ i < 4, ∀ col < 64, ∃ v, rows[i]? = some (q.toNat + i, v, all) ∧
          elemAt 16 v col =
            (let n := elemAt 16 (f.t.mrow k (q.toNat + i)) col +
               ((List.range 64).filter fun e => (f.t.mask o.mask).getLsbD e &&
                 x.elem 9 .rne o.sat 0 e / 2 ^ sh.toNat % 256 == 64 * i + col).length
             if o.sat then min n 65535 else n % 65536)) ∧
    (VReady s t o [] (opdRegs d) .zero .zero d u (.row 0) (.row 0) dst →
      VWrites (.viota o d .zero) s u ty 2 dst act (fun e => (ityOf ty).code o.sat e) ∧
      VWrites (.viota o d (.sreg r)) s u ty 2 dst act
        (fun e => (ityOf ty).code o.sat ((ityOf ty).val ((u.rd .x r).toNat % 2 ^ (ityOf ty).w) + e))) ∧
    (∃ v, exec (.vseed o r) s = .next (finishX s v) ∧ v.xs.gens = t.xs.gens ∧ { v.xs with seeds := t.xs.seeds } = t.xs ∧
      { v with xs := t.xs } = t ∧ v.seed.xs.seeds = none ∧ ∀ i < 64, v.seed.gen i = laneSeed ((t.rd .x r).setWidth 32) i) ∧
    (Claimed s t [] (opdRegs d) c → (Fetch.start c).dest d = (dst, h) → h.Ready →
      let v := h.t.stepLanes (h.t.mask o.mask)
      exec (.vrand o d) s = .next (finishX s (v.launchX 1 (dst.kind w
        (rowOf w ((List.range (1024 / w)).map fun e =>
          if w = 32 then (v.gen (2 * e)).toNat else (v.gen e).toNat / 2 ^ 16)) (elemMask w (activeAt w (h.t.mask o.mask))))))) ∧
    (Claimed s t [] [m.toNat] c → c.slotOf m.toNat = some k →
      exec (.mzero o m) s = .next (finishX s (c.launchX 2 (.cells k ((List.range 64).map fun i => (i, 0, all)))))) ∧
    (Claimed s t [q.toNat] [m.toNat] c → c.slotOf m.toNat = some k → c.slotOf q.toNat = some j →
      ∃ rows, exec (.mxpose o m q) s = .next (finishX s (c.launchX 16 (.cells k rows))) ∧ rows.length = 64 ∧
        ∀ i < 64, ∃ v, rows[i]? = some (i, v, all) ∧
          (w ≠ 32 → ∀ col < 64, elemAt 16 v col = elemAt 16 (c.mrow j col) i) ∧
          (w = 32 → ∀ e < 32, elemAt 32 v e = elemAt 32 (c.mrow j (32 * (i / 32) + e)) (i % 32))) ∧
    (Claimed s t (q.toNat :: opdRegs a) [m.toNat] c → (Fetch.start c).source s.cc 16 a = (x, f) → f.Ready →
      f.t.slotOf m.toNat = some k → f.t.slotOf q.toNat = some j →
      exec (.mshuf o m q a) s = .next (finishX s (f.t.launchX 8 (.cells k ((List.range 64).filterMap fun i =>
        if (f.t.mask o.mask).getLsbD i then
          some (i, (if (x.elem 9 .rne o.sat 0 i).testBit 15 then 0 else f.t.mrow j (x.elem 9 .rne o.sat 0 i % 64)), all)
        else none)))))

/-- 02 R22-R25, R30, R31, R33-R35: what a rounding into a format gives. NaN gives the canonical NaN; an infinity, under SAT, the
greatest finite value; a code's own value that code. Between two neighbouring values RNE takes the nearer, of equal ones the even
code, and the other modes theirs; above the greatest finite value a format continues by its last step, and a result beyond it
overflows by the mode. Integers clamp under SAT and wrap without it; a conversion to an integer gives 0 for NaN and the ends of
the type for infinities.
02 R43, R44; 06 R148, R163: the fixed pairwise tree and the scan, the conversions between floating-point and integer types, and
the order keys with their inverse.
07 R193; 02 R31: an `anorm` cell is +0 where the row's sum is ±0, the canonical NaN for a NaN, and for finite values with a
divisor that is not 0 the exact quotient rounded once to the nearest FP32 value: `n` is the value below it, `n + 1` the one above.
-/
def Obligations.FormatRounding : Prop :=
  ((∀ (md : Mode) (sat : Bool) (g : BitVec 32),
      fp32.round md sat g .nan = 0x7FC00000 ∧ fp16.round md sat g .nan = 0x7E00 ∧ bf16.round md sat g .nan = 0x7FC0 ∧
      e5m2.round md sat g .nan = 0x7E ∧ e4m3.round md sat g .nan = 0x7F ∧ e2m1.round md sat g .nan = 0) ∧
    (∀ (md : Mode) (g : BitVec 32) (neg : Bool), ∀ e ∈ [(fp32, 0x7F7FFFFF, 0x7F800000), (fp16, 0x7BFF, 0x7C00), (bf16, 0x7F7F, 0x7F80),
        (e5m2, 0x7B, 0x7C), (e2m1, 7, 7)],
      e.1.round md true g (.inf neg) = (if neg then e.2.1 + 2 ^ (e.1.e + e.1.f) else e.2.1) ∧
      e.1.round md false g (.inf neg) = (if neg then e.2.2 + 2 ^ (e.1.e + e.1.f) else e.2.2)) ∧
    (∀ (md : Mode) (g : BitVec 32) (neg : Bool),
      e4m3.round md true g (.inf neg) = (if neg then 0xFE else 0x7E) ∧ e4m3.round md false g (.inf neg) = 0x7F) ∧
    (∀ f ∈ [fp32, fp16, bf16, e5m2, e4m3, e2m1], ∀ (md : Mode) (sat neg : Bool) (g : BitVec 32) (m : Nat) (e : Int) (n : Nat), n ≤ f.maxCode →
      let w := 2 ^ (f.e + f.f)
      let code (k : Nat) : Nat := if neg then k + w else k
      let v := Val.fin neg m e
      let mag := Val.fin false m e
      let top := f.val f.maxCode
      let next := if n < f.maxCode then f.val (n + 1) else top.add .rne (top.add .rne (f.val (f.maxCode - 1)).neg)
      let mid := ((f.val n).add .rne next).shift (-1)
      let up (b : Bool) : Nat := if !b then code n else if n < f.maxCode then code (n + 1) else f.infCode sat neg
      f.round md sat g (f.val (code n)) = code n ∧
      ((f.val n).lt mag = true → mag.lt next = true →
        f.round .rne sat g v = up (mid.lt mag || (!mag.lt mid && n % 2 == 1)) ∧
        f.round .rna sat g v = up (!mag.lt mid) ∧
        (n < f.maxCode → f.round .rz sat g v = code n ∧ f.round .rd sat g v = up neg ∧ f.round .ru sat g v = up (!neg) ∧
          (f.round .sr sat g v = code n ∨ f.round .sr sat g v = code (n + 1)))) ∧
      (n = f.maxCode → mag.lt next = false →
        (∀ md ∈ [Mode.rne, .rna, .sr], f.round md sat g v = f.infCode sat neg) ∧ f.round .rz sat g v = code n ∧
        f.round .rd sat g v = (if neg then f.infCode sat neg else code n) ∧
        f.round .ru sat g v = (if neg then code n else f.infCode sat neg))) ∧
    (∀ md : Mode, Val.mul (.inf false) (.fin false 0 0) = .nan ∧ Val.add md (.inf false) (.inf true) = .nan ∧
      ∀ (m : Nat) (e : Int), 0 < m → Val.add md (.fin false m e) (.fin true m e) = .fin (decide (md = .rd)) 0 0) ∧
    (∀ i ∈ [ITy.mk 8 true, ITy.mk 8 false, ITy.mk 16 true, ITy.mk 16 false, ITy.mk 32 true], ∀ (sat : Bool) (v : Int),
      (i.lo ≤ v → v ≤ i.hi → i.val (i.code sat v) = v) ∧ (i.hi < v → i.val (i.code true v) = i.hi) ∧
      (v < i.lo → i.val (i.code true v) = i.lo) ∧ (i.val (i.code false v) - v) % 2 ^ i.w = 0 ∧
      ∀ (md : Mode) (g : BitVec 32), i.ofVal md sat g .nan = 0 ∧ i.val (i.ofVal md sat g (.inf false)) = i.hi ∧
        i.val (i.ofVal md sat g (.inf true)) = i.lo ∧ i.ofVal md sat g (Val.ofInt v) = i.code sat v)) ∧
  ((∀ (h : Nat → Nat → Nat) (lane : Nat → Nat) (k : Nat) (l : List Nat) (g : Tab (BitVec 32)), l.length = 2 ^ k →
      (redTree (fun _ => h) false lane k 0 (l, g)).1[0]? = some (pairTree h (fun j => l.getD j 0) k 0) ∧
      ∀ j < 2 ^ k, (scanTree (fun _ => h) false lane (2 ^ k) k 0 (l, g)).1[j]? = some (scanAt h (fun j => l.getD j 0) k j)) ∧
    (∀ l : List Nat, l.length = 64 →
      treeSum l = pairTree (fun a b => rne32 ((fp32.val a).add .rne (fp32.val b))) (fun j => l.getD j 0) 6 0) ∧
    (∀ (ty u : Nat) (md : Mode) (sat : Bool) (g : BitVec 32) (n : Nat),
      (∀ f h, fmtOf ty = some f → fmtOf u = some h → convert ty u md sat g n = f.round md sat g (h.val n)) ∧
      (∀ f, fmtOf ty = some f → fmtOf u = none → convert ty u md sat g n = f.round md sat g (Val.ofInt ((ityOf u).val n))) ∧
      (∀ h, fmtOf ty = none → fmtOf u = some h → convert ty u md sat g n = (ityOf ty).ofVal md sat g (h.val n))) ∧
    ∀ ty ∈ [0, 1, 2, 3, 4, 6, 8, 10], ∀ x < 2 ^ widthOf ty,
      let w := widthOf ty
      let key := orderKey ty false x
      key < 2 ^ w ∧ orderKey ty true key = x ∧
      ((fmtOf ty).isSome → key = if 2 ^ (w - 1) ≤ x then 2 ^ w - 1 - x else x + 2 ^ (w - 1)) ∧
      ((fmtOf ty).isNone → (key : Int) = (ityOf ty).val x + 2 ^ (w - 1))) ∧
  (∀ (o d n : Nat), n < fp32.maxCode →
      let x := fp32.val o
      let y := fp32.val d
      let r := normCell x y
      let code (k : Nat) : Nat := fp32.signed (x.sign != y.sign) k
      let at_ (v : Val) : Val := v.mul y.abs
      let mid := ((fp32.val n).add .rne (fp32.val (n + 1))).shift (-1)
      (y.isZero = true → r = 0) ∧
      (y.isZero = false → x.isNan = true ∨ y.isNan = true → r = 0x7FC00000) ∧
      ∀ s m e q k f, x = .fin s m e → y = .fin q k f → k ≠ 0 →
        ((at_ (fp32.val n)).lt x.abs = false → x.abs.lt (at_ (fp32.val n)) = false → r = code n) ∧
        ((at_ (fp32.val n)).lt x.abs = true → x.abs.lt (at_ (fp32.val (n + 1))) = true →
          r = code (if x.abs.lt (at_ mid) then n else if (at_ mid).lt x.abs then n + 1 else if n % 2 = 0 then n else n + 1)))

/-! ### The matrix engine (07) -/

/-- 07 R168, R169, R184-R193: the tile instructions other than `mma` and `mmag`, with the tiles in the window and the array free:
each holds the array for its time and puts its work in flight, register operands read at issue.
07 R168, R169, R176, R184: a tile outside the window is ILL 0x21, a busy array is an empty issue cycle, and the limits of operands
are ILL 0x42 and 0x44.
That the limits of operands come before the tiles and the array is the model's choice: log 13. -/
def Obligations.TileInstructions : Prop :=
  (∀ (s : State) (t u c : Task) (a b m x : BitVec 6) (md : ZMode) (vm : VMode) (cap : BitVec 16) (abs : Bool) (r : ARow) (k : Nat),
      let acc (h : Nat) (op : AccOp) : Out := .next (finishX s (u.launchX h (.acc op)))
      let rows (z : Task) (n : Nat) : List Row := (List.range n).map fun i => z.mrow k (x.toNat + i)
      (ArrayFree s t [a.toNat] 2 u → exec (.azero a md) s = acc 2 (.azero a.toNat md)) ∧
      (ArrayFree s t [a.toNat, b.toNat] 12 u → a ≠ b → exec (.asmx a b cap) s = acc 12 (.asmx a.toNat b.toNat cap)) ∧
      (ArrayFree s t [a.toNat, b.toNat] 4 u → exec (.arsc a b) s = acc 4 (.arsc a.toNat b.toNat)) ∧
      (ArrayFree s t [a.toNat, b.toNat] 10 u → exec (.anorm a b) s = acc 10 (.anorm a.toNat b.toNat)) ∧
      (ArrayFree s t [b.toNat, a.toNat] 6 u → exec (.astat a b abs) s = acc 6 (.astat a.toNat b.toNat abs)) ∧
      (∀ n, n = (if vm = .side then 2 else 34) → ArrayFree s t [a.toNat, b.toNat] n u →
        exec (.amov a b vm) s = acc n (.amov a.toNat b.toNat vm)) ∧
      (ArrayFree s t [a.toNat] 4 u → exec (.ascale a b x false) s = acc 4 (.ascale a.toNat ((t.rd .x b).setWidth 32))) ∧
      (ArrayFree s t [a.toNat] 4 u → Claimed s u [b.toNat] [] c → c.slotOf b.toNat = some k → x.toNat % 2 = 0 → x.toNat ≤ 62 →
        exec (.ascale a b x true) s = .next (finishX s (c.launchX 4 (.acc (.ascaleCol a.toNat (rows c 2)))))) ∧
      (ArrayFree s t [a.toNat] 4 u → Claimed s u [m.toNat] [] c → c.slotOf m.toNat = some k → x.toNat % 4 = 0 → x.toNat ≤ 60 →
        exec (.abias a m x true) s = .next (finishX s (c.launchX 4 (.acc (.abias a.toNat true (rows c 4)))))) ∧
      (ArrayFree s t [a.toNat] 4 u → Claimed s u [m.toNat] [] c → c.slotOf m.toNat = some k → x.toNat % 2 = 0 → x.toNat ≤ 62 →
        exec (.abias a m x false) s = .next (finishX s (c.launchX 4 (.acc (.abias a.toNat false (rows c 2)))))) ∧
      (arowBad r = false → ArrayFree s t [r.acc.toNat] (r.rows.toNat + 6) u → Claimed s u [] [r.m.toNat] c →
        c.slotOf r.m.toNat = some k → c.rmode r.rnd ≠ .sr →
        exec (.aread r) s = .next (finishX s (c.launchX (r.rows.toNat + 6)
          (.aread k r.acc.toNat r (if r.rnd = 6 then c.xs.rndm else r.rnd) [])))) ∧
      (arowBad r = false → ArrayFree s t [r.acc.toNat] (r.rows.toNat + 6) u → Claimed s u [] [r.m.toNat] c →
        c.slotOf r.m.toNat = some k → c.rmode r.rnd = .sr →
        ∃ runs gens, exec (.aread r) s = .next (finishX s ((c.onX fun z => { z with gens := gens }).launchX (r.rows.toNat + 6)
          (.aread k r.acc.toNat r (if r.rnd = 6 then c.xs.rndm else r.rnd) runs))) ∧ runs.length = r.rows.toNat + 1) ∧
      (arowBad r = false → ArrayFree s t [r.acc.toNat] (r.rows.toNat + 5) u → Claimed s u [r.m.toNat] [] c →
        c.slotOf r.m.toNat = some k →
        exec (.awrite r) s = .next (finishX s (c.launchX (r.rows.toNat + 5)
          (.awrite r.acc.toNat r ((List.range (r.rows.toNat + 1)).map fun j => c.mrow k (r.d.toNat + j))))))) ∧
  (∀ (s : State) (t : Task) (a b m x : BitVec 6) (cap : BitVec 16) (md : ZMode) (r : ARow) (j : MmaArgs), s.On .x t →
      (t.win.acSize ≤ a.toNat → exec (.azero a md) s = .next (ill s 0x21)) ∧
      (a.toNat < t.win.acSize → 0 < t.xs.array → s.Clear → exec (.azero a md) s = .next (s.wait 2)) ∧
      exec (.asmx a a cap) s = .next (ill s 0x42) ∧
      (arowBad r = true → exec (.aread r) s = .next (ill s 0x44) ∧ exec (.awrite r) s = .next (ill s 0x44)) ∧
      (x.toNat % 2 ≠ 0 ∨ 62 < x.toNat →
        exec (.ascale a b x true) s = .next (ill s 0x44) ∧ exec (.abias a m x false) s = .next (ill s 0x44)) ∧
      (x.toNat % 4 ≠ 0 ∨ 60 < x.toNat → exec (.abias a m x true) s = .next (ill s 0x44)) ∧
      (j.ety ∈ [5, 12, 13, 14] → j.kch.toNat % 2 = 0 → exec (.mma j) s = .next (ill s 0x42)) ∧
      (j.ta = true → (3 < j.kch.toNat ∨ 4 < j.ety.toNat ∨ j.aux = j.acc) → exec (.mma j) s = .next (ill s 0x42)) ∧
      (12 ≤ j.ety.toNat → 64 < j.srow.toNat + (j.kch.toNat + 1) / 2 → exec (.mma j) s = .next (ill s 0x42)))

/-- 07 R175-R182; 04 R101: `mma` and `mmag` hold the array for 8w cycles a chunk and end with their last chunk; the scales, the
adapters and the skip exponent are those at issue, and nothing has been popped.
The order of the conditions of an adapter tile is a reading: log 14. That the pops at offset 0 are made at the end of the issue
cycle is the model's choice: log 11. -/
def Obligations.MatrixMultiply : Prop :=
  ∀ (s : State) (t u c : Task) (m : MmaArgs) (e : Tile),
    let chunks := m.kch.toNat + 1
    let len := 8 * w2Of m.ety.toNat * chunks
    let skip := if m.q && t.qskip.en then some t.qskip.exp.toInt else none
    let job (grouped : Bool) (sa sb : List Row) (ad : List (Option Nat)) : MmaJob :=
      { args := m, grouped := grouped, skip := skip, scaleA := sa, scaleB := sb, adapters := ad, pops := [], madeA := 0, madeB := 0,
        acols := [], startA := [], startB := [], dead := none }
    (mmaBad m = false → m.ety.toNat < 12 → ArrayFree s t (if m.ta then [m.acc.toNat, m.aux.toNat] else [m.acc.toNat]) len u →
      exec (.mma m) s = .next (finishX s (u.launchX (len + 6) (.mma (job false [] [] []))))) ∧
    (mmaBad m = false → 12 ≤ m.ety.toNat → ArrayFree s t (if m.ta then [m.acc.toNat, m.aux.toNat] else [m.acc.toNat]) len u →
      Claimed s u [m.sa.toNat, m.sb.toNat] [] c → ∀ ka kb, c.slotOf m.sa.toNat = some ka → c.slotOf m.sb.toNat = some kb →
      exec (.mma m) s = .next (finishX s (c.launchX (len + 6) (.mma (job false
        ((List.range (chunks / 2)).map fun i => c.mrow ka (m.srow.toNat + i))
        ((List.range (chunks / 2)).map fun i => c.mrow kb (m.srow.toNat + i)) []))))) ∧
    (¬(m.ety = 5 ∧ chunks % 2 = 1) → ArrayFree s t [m.acc.toNat] len u → tfind t.tiles m.aux.toNat = some e →
      (∀ i < e.count, (t.row (e.first + i)).seen = .full) → 0 < e.count → (t.row e.first).ue.getLsbD 0 = false →
      (∀ k < 8, (elemAt 16 (t.row e.first).data k).testBit 14 = false) →
      (∀ k < 8, (elemAt 16 (t.row e.first).data k).testBit 15 = false →
        t.win.spSize ≤ elemAt 16 (t.row e.first).data k % 2 ^ 14 ∧ elemAt 16 (t.row e.first).data k % 2 ^ 14 < t.win.rows) →
      adapterClash t.win (adaptersOf (t.row e.first).data) = false →
      exec (.mmag m) s = .next (finishX s (u.launchX (len + 6) (.mma (job true [] [] (adaptersOf (t.row e.first).data))))))

/-- 07 R185-R193: what the tile operations do when they perform: `azero` gives +0, -∞ and +0, `amov` copies bit for bit, `arsc`,
`ascale` and `abias` change each cell by one operation rounded once, `anorm` divides by the row's sum, `astat` gives the row's
largest cell and its sum by the tree, or those of the magnitudes and the squares, and `asmx` is the softmax step of its row. No
cell operation but these changes a side register.
07 R186, R187: row j of an `aread` performs at 6 + j and that of an `awrite` at 5 + j; where each element comes from, how it is
converted or widened, and which cells or side registers it fills. -/
def Obligations.TileResults : Prop :=
  ((∀ (t : Task) (a i : Nat), i < 128 →
      let z := t.performAcc (.azero a .both)
      z.cells a i = List.replicate 64 0 ∧ z.rmax a i = 0xFF800000 ∧ z.rsum a i = 0) ∧
    (∀ (t : Task) (a i : Nat), i < 128 →
      let z := t.performAcc (.azero a .side)
      z.cells a i = t.cells a i ∧ z.rmax a i = 0xFF800000 ∧ z.rsum a i = 0) ∧
    (∀ (t : Task) (d a i : Nat), i < 128 →
      (t.performAcc (.amov d a .cells)).cells d i = t.cells a i ∧
      (t.performAcc (.amov d a .side)).rmax d i = t.rmax a i ∧ (t.performAcc (.amov d a .side)).rsum d i = t.rsum a i) ∧
    (∀ (t : Task) (o f i j : Nat), i < 128 → j < 64 →
      ((t.performAcc (.arsc o f)).cells o i)[j]? =
        (t.cells o i)[j]?.map fun c => rne32 ((fp32.val c).mul (fp32.val (t.rsum f i))) % 2 ^ 32) ∧
    (∀ (t : Task) (a i j : Nat) (v : BitVec 32) (row : Bool) (rows : List Row), i < 128 → j < 64 →
      let el (k : Nat) : Val := fp32.val (elemAt 32 (rows.getD (k / 32) 0) (k % 32))
      let ch (g : Val → Val) : Option Nat := (t.cells a i)[j]?.map fun c => rne32 (g (fp32.val c)) % 2 ^ 32
      ((t.performAcc (.ascale a v)).cells a i)[j]? = ch (fun c => c.mul (fp32.val v.toNat)) ∧
      ((t.performAcc (.ascaleCol a rows)).cells a i)[j]? = ch (fun c => c.mul (el j)) ∧
      ((t.performAcc (.abias a row rows)).cells a i)[j]? = ch (fun c => c.add .rne (el (if row then i else j)))) ∧
    (∀ (t : Task) (o d i j : Nat), i < 128 → j < 64 →
      ((t.performAcc (.anorm o d)).cells o i)[j]? =
        (t.cells o i)[j]?.map fun c => normCell (fp32.val c) (fp32.val (t.rsum d i)) % 2 ^ 32) ∧
    (∀ (t : Task) (a b : Nat) (v : BitVec 32) (row : Bool) (rows : List Row),
      ∀ op ∈ [AccOp.ascale a v, .ascaleCol a rows, .abias a row rows, .arsc a b, .anorm a b, .amov a b .cells, .azero a .cells],
        (t.performAcc op).rowmax = t.rowmax ∧ (t.performAcc op).rowsum = t.rowsum) ∧
    (∀ (t : Task) (x a i : Nat) (abs : Bool), i < 128 →
      let z := t.performAcc (.astat x a abs)
      let l := if abs then (t.cells a i).map fun c => rne32 (fp32.val c).abs else t.cells a i
      let best := l.tail.foldl (fun b c => rne32 ((fp32.val b).max (fp32.val c))) (rne32 (fp32.val (l.headD 0)))
      let sq := if abs then (t.cells a i).map fun c => rne32 ((fp32.val c).mul (fp32.val c)) else t.cells a i
      (∀ k, z.cells a k = t.cells a k) ∧ z.rsum x i = treeSum sq % 2 ^ 32 ∧ z.rmax x i = best % 2 ^ 32) ∧
    ∀ (t : Task) (a o i : Nat) (c : BitVec 16), i < 128 → a ≠ o →
      let z := t.performAcc (.asmx a o c)
      let was := t.rmax o i
      let ninf := 0xFF800000
      let ex (u v : Nat) : Nat := rne32 (exp2Val (fp32.val (rne32 ((fp32.val u).add .rne (fp32.val v).neg))))
      let x := (t.cells a i).map fun v => rne32 ((fp32.val v).mul (fp16.val c.toNat))
      let new := x.foldl (fun m v => rne32 ((fp32.val m).max (fp32.val v))) was
      let p := x.map fun v =>
        if (fp32.val v).isNan then 0x7FC00000 else if new = ninf then 0
        else if (fp32.val v).eq (fp32.val new) then 0x3F800000 else ex v new
      let f := if new = ninf ∨ (fp32.val was).eq (fp32.val new) = true then 0x3F800000 else ex was new
      z.cells a i = p.map (· % 2 ^ 32) ∧ z.rmax o i = new % 2 ^ 32 ∧ z.rmax a i = was ∧ z.rsum a i = f % 2 ^ 32 ∧
        z.rsum o i = rne32 ((fp32.val (rne32 ((fp32.val (t.rsum o i)).mul (fp32.val f)))).add .rne (fp32.val (treeSum p))) % 2 ^ 32) ∧
  ((∀ (t : Task) (pc w : Word) (lat k tile j : Nat) (r : ARow) (md : BitVec 3) (gens : List (List (BitVec 32))) (rows : List Row),
      (let x := t.areadRow tile j r (modeOf md.toNat) (gens.getD j [])
       t.performAt { pc := pc, age := 6 + j, lat := lat, kind := .aread k tile r md gens, word := w } =
         t.writeCells k (r.d.toNat + j) x.1 x.2) ∧
      t.performAt { pc := pc, age := 5 + j, lat := lat, kind := .awrite tile r rows, word := w } = t.awriteRow tile j r (rows.getD j 0)) ∧
    (∀ (t : Task) (tile j e : Nat) (r : ARow) (md : Mode) (lanes : List (BitVec 32)),
      let ty := r.ety.toNat
      let wd := widthOf ty
      let h := if r.h then 1 else 0
      let x := t.areadRow tile j r md lanes
      let g := if wd = 8 then (lanes.getD (wd * e / 16) 0).rotateLeft (16 * (e % 2)) else lanes.getD (wd * e / 16) 0
      let out (n : Nat) : Nat :=
        (match fmtOf ty with | some f => f.round md r.sat g (fp32.val n) | none => (ityOf ty).code r.sat ((ITy.mk 32 true).val n)) % 2 ^ wd
      let src (c : Nat) : Nat := (t.cells tile (r.f.toNat + j)).getD c 0
      (r.side = false → wd = 32 → e < 32 → elemAt 32 x.1 e = out (src (32 * h + e)) ∧ x.2 = BitVec.allOnes 1024) ∧
      (r.side = false → wd = 16 → e < 64 → elemAt 16 x.1 e = out (src e) ∧ x.2 = BitVec.allOnes 1024) ∧
      (r.side = false → wd = 8 → e < 128 → e / 64 = h → elemAt 8 x.1 e = out (src (e % 64)) ∧ elemAt 8 x.2 e = 255) ∧
      (r.side = false → wd = 8 → e < 128 → e / 64 ≠ h → elemAt 8 x.2 e = 0) ∧
      (r.side = true → e < 32 → elemAt 32 x.1 e = fp32.round md r.sat (lanes.getD (32 * e / 16) 0)
          (fp32.val (if r.h then t.rsum tile (32 * j + e) else t.rmax tile (32 * j + e))) % 2 ^ 32)) ∧
    ∀ (t : Task) (tile j c : Nat) (r : ARow) (v : Row), c < 64 →
      let ty := r.ety.toNat
      let wd := widthOf ty
      let h := if r.h then 1 else 0
      let z := t.awriteRow tile j r v
      let wide (n : Nat) : Nat :=
        (match fmtOf ty with | some f => rne32 (f.val n) | none => (((ityOf ty).val n) % 2 ^ 32).toNat) % 2 ^ 32
      let cell := (z.cells tile (r.f.toNat + j)).getD c 0
      (r.side = false → wd = 32 → cell = if c / 32 = h then wide (elemAt 32 v (c % 32)) else (t.cells tile (r.f.toNat + j)).getD c 0) ∧
      (r.side = false → wd = 16 → cell = wide (elemAt 16 v c)) ∧
      (r.side = false → wd = 8 → cell = wide (elemAt 8 v (64 * h + c))) ∧
      (r.side = false → z.rowmax = t.rowmax ∧ z.rowsum = t.rowsum) ∧
      (r.side = true → z.acc = t.acc ∧ ∀ e < 32,
        (if r.h then z.rsum tile (32 * j + e) else z.rmax tile (32 * j + e)) = rne32 (fp32.val (elemAt 32 v e)) % 2 ^ 32))

/-- 07 R171, R177, R179, R182; 02 R39, R40: what the chunks of a summation group of `mma` and `mmag` write: each cell takes the
exact sum of the products of its row of A and its column of B, the elements numbered in pop order, rounded once with the cell into
FP32, or for the integer types added modulo 2^32; a row block that `mmag` turns off keeps its cells, and no side register changes.
-/
def Obligations.ChunkResults : Prop :=
  (∀ (t : Task) (m : MmaJob) (cs : List Nat) (i j : Nat), i < 128 → j < 64 →
    let blk := i / 16
    let prods (c : Nat) : List (Val × Val) :=
      if skipBlock m.skip (((List.range 16).map fun r => m.aVals c (16 * blk + r)).flatten)
          (((List.range 64).map fun k => m.bVals (m.blockOf blk) c k).flatten) then []
      else (m.aVals c i).zip (m.bVals (m.blockOf blk) c j)
    (m.grouped = false ∨ (m.adapters.getD blk none).isSome →
      ((t.mmaUpdate m cs).cells m.args.acc.toNat i)[j]? =
        (t.cells m.args.acc.toNat i)[j]?.map fun x => accumulate m.args.ety.toNat x (cs.flatMap prods) % 2 ^ 32) ∧
    (m.grouped = true → m.adapters.getD blk none = none →
      (t.mmaUpdate m cs).cells m.args.acc.toNat i = t.cells m.args.acc.toNat i) ∧
    (t.mmaUpdate m cs).rowmax = t.rowmax ∧ (t.mmaUpdate m cs).rowsum = t.rowsum) ∧
  (∀ (m : MmaJob) (c i j blk κ : Nat), κ < 16 →
    let ety := m.args.ety.toNat
    let w := widthOf ety
    let el (rows : List Row) (n : Nat) : Nat := elemAt w (rows.getD (n / (1024 / w)) 0) (n % (1024 / w))
    (m.args.ta = false → (m.aVals c i)[κ]? =
      some (etyVal ety (elemAt 8 (m.scaleA.getD (c / 2) 0) i) (el (m.popped false 0 c) (128 * κ + i)))) ∧
    (m.bVals blk c j)[κ]? =
      some (etyVal ety (elemAt 8 (m.scaleB.getD (c / 2) 0) j) (el (m.popped true blk c) (64 * κ + j)))) ∧
  (∀ (ety x : Nat) (ps : List (Val × Val)),
    (ety ∈ [6, 7] → accumulate ety x ps = (((x : Int) + (ps.map fun (p : Val × Val) => (p.1.mul p.2).int).sum) % 2 ^ 32).toNat) ∧
    (ety ∈ [0, 1, 2, 3, 4, 5, 12, 13, 14] → accumulate ety x ps = rne32 ((fp32.val x).add .rne (dotVal ps)))) ∧
  ∀ (ps : List (Val × Val)) (lo : Int), lo ≤ 0 →
    ((∃ p ∈ ps, p.1.mul p.2 = .nan) → dotVal ps = .nan) ∧
    ((∀ p ∈ ps, ∃ s n e, p.1.mul p.2 = .fin s n e ∧ lo ≤ e) →
      ∃ s n e, dotVal ps = .fin s n e ∧ lo ≤ e ∧ (n = 0 → s = false) ∧
        scaled s n e lo = (ps.map fun p => match p.1.mul p.2 with | .fin s n e => scaled s n e lo | _ => 0).sum)

/-! ### Ports, tiles and the scratchpad (08) -/

/-- 08 R211, R212; 03 R71: `pset`, `parm`, `pstop` and `pstat` with the MEM slot open, and where they raise ILL 0x0E or wait.
08 R205, R206: what a pop of a load port gives: the row at the walk position, whose tag CONS empties and whose port walks on; a
freeze on an EMPTY row or an idle port, QUEUE for an idle port once the A-strand has ended, and ADDR for a row outside the window.
COUNT of an idle port is the model's choice: log 99. -/
def Obligations.PortInstructions : Prop :=
  (∀ (s : State) (t : Task) (wt : BitVec 8) (p : BitVec 4) (w : BitVec 2) (d : Reg), MemOpen s t wt →
      let q := t.port p.toNat
      let v := t.rd .a d
      let put (q : Port) : Out := .next (finishA s { t with ports := tset Port.idle t.ports p.toNat q })
      (w = 0 → psetBad p.toNat v = false → exec (.pset wt p w d) s = put { q with staged := { q.staged with w0 := v } }) ∧
      (w = 0 → psetBad p.toNat v = true → exec (.pset wt p w d) s = .next (ill s 0x0E)) ∧
      (w = 1 → exec (.pset wt p w d) s = put { q with staged := { q.staged with w1 := v } }) ∧
      (w = 2 → exec (.pset wt p w d) s = put { q with staged := { q.staged with w2 := v } }) ∧
      (w = 3 → exec (.pset wt p w d) s = put { q with staged := { q.staged with w3 := v } }) ∧
      (q.staged.startBad = true → exec (.parm wt p) s = .next (ill s 0x0E)) ∧
      (q.staged.startBad = false → q.active = none →
        exec (.parm wt p) s = put { q with active := some q.staged, pending := none, i0 := half q.staged.w3 0, i1 := half q.staged.w3 1,
                                           i2 := half q.staged.w3 2, i3 := half q.staged.w3 3, count := 0 }) ∧
      (q.staged.startBad = false → q.active ≠ none → q.pending = none →
        exec (.parm wt p) s = put { q with pending := some q.staged }) ∧
      (q.staged.startBad = false → q.active ≠ none → q.pending ≠ none → exec (.parm wt p) s = .next (s.wait 1)) ∧
      exec (.pstop wt p) s = put { q with active := none, pending := none, i0 := 0, i1 := 0, i2 := 0, i3 := 0, count := 0 } ∧
      exec (.pstat wt d p) s = .next (finishA s (t.result .a d 2
        (BitVec.ofNat 64 (q.active.isSome.toNat + 2 * q.pending.isSome.toNat + 4 * (t.xs.waits.getLsbD p.toNat).toNat +
          2 ^ 32 * q.count.toNat))))) ∧
  (∀ (t : Task) (p ic : Nat) (pc : Word),
      let q := t.port p
      let f := (Fetch.start t).pop p ic pc 0
      (q.active = none → t.a.ended = false → f.2.2.wait = true ∧ f.2.2.trap = none ∧ f.2.2.quit = none ∧ f.2.2.t = t) ∧
      (q.active = none → t.a.ended = true → f.2.2.trap = some (11, 0, pc) ∧ f.2.2.quit = some pc ∧ f.2.2.t = t) ∧
      ∀ ps, q.active = some ps →
        let r := q.i0.toNat * (half ps.w2 0).toInt + q.i1.toNat * (half ps.w2 1).toInt + q.i2.toNat * (half ps.w2 2).toInt +
          q.i3.toNat * (half ps.w2 3).toInt + (ps.w0.extractLsb' 0 14).toNat
        (r < 0 ∨ (t.win.rows : Int) ≤ r → f.2.2.trap = some (3, 1, pc)) ∧
        ∀ v : Nat, r = v → v < t.win.rows →
          (ps.w0.getLsbD 17 = false → (t.row v).seen = .empty → f.2.2.wait = true ∧ f.2.2.t = t) ∧
          ((t.row v).seen = .full → (t.row v).tag = .full → (t.row v).ue = 0 → (∀ e ∈ t.xs.touch, e.1 ≠ t.win.bankOf v) →
            f.1 = v ∧ f.2.1 = (t.row v).data ∧ f.2.2.Ready ∧ f.2.2.t.port p = q.advance ps ∧
            (f.2.2.t.row v).tag = if ps.w0.getLsbD 16 then .empty else .full))

/-- 08 R210, R213, R214: the tile table and `tfill`, for a tile number up to 255; a greater one is ILL 0x0E, as is a `tdef` of no
rows or with another bit of its descriptor set. 08 R196, R199, R214: a row that a `tfill` does: its pattern in each of its sixteen
words and the tag FULL, or its tag alone, which `tfill.full` leaves POISON; a row that is held is waited for, the fill goes on
with the next row, and no other row changes.
That `tstate` counts the tags as they stand is a reading, the cc in which a `tfill` ends the model's choice: log 16 and 106. -/
def Obligations.TileTable : Prop :=
  (∀ (s : State) (t : Task) (d : Reg) (m : MAddr), MemOpen s t m.wait →
    let n := (t.rd .a m.base + m.disp.signExtend 64).toNat
    let v := t.rd .a d
    let first := v.toNat % 2 ^ 14
    let count := v.toNat / 2 ^ 16 % 2 ^ 14
    let new : Tile :=
      { first := first, count := count, up := (List.range count).any fun i => decide ((t.row (first + i)).tag ≠ .empty) }
    let fill (e : Tile) (f : FillForm) (w : Word) : Out := .next (finishA s
      { t with as := { t.as with fill := some { form := f, pat := w, next := e.first, last := e.first + e.count } } })
    (255 < n → ∀ i ∈ [Instr.tdef d m, .tfree m, .tstate d m, .tfill d m, .tfillEmpty m, .tfillFull m],
      exec i s = .next (ill s 0x0E)) ∧
    (n ≤ 255 → count = 0 ∨ v ≠ BitVec.ofNat 64 (first + 2 ^ 16 * count) → exec (.tdef d m) s = .next (ill s 0x0E)) ∧
    (n ≤ 255 → v = BitVec.ofNat 64 (first + 2 ^ 16 * count) → 0 < count → first + count ≤ t.win.rows → tfind t.tiles n = none →
      exec (.tdef d m) s = .next (finishA s { t with tiles := tins t.tiles n new })) ∧
    (n ≤ 255 → v = BitVec.ofNat 64 (first + 2 ^ 16 * count) → 0 < count → tfind t.tiles n ≠ none →
      exec (.tdef d m) s = .next (ill s 0x45)) ∧
    (n ≤ 255 → v = BitVec.ofNat 64 (first + 2 ^ 16 * count) → 0 < count → t.win.rows < first + count → tfind t.tiles n = none →
      exec (.tdef d m) s = .next (trapHere s 3 1)) ∧
    (n ≤ 255 → exec (.tfree m) s = .next (finishA s { t with tiles := tdel t.tiles n })) ∧
    (n ≤ 255 → tfind t.tiles n = none → exec (.tstate d m) s = .next (finishA s (t.result .a d 2 0))) ∧
    (∀ e, n ≤ 255 → tfind t.tiles n = some e → e.count < 2 ^ 14 →
      let full := ((List.range e.count).filter fun i => (t.row (e.first + i)).tag = .full).length
      let psn := ((List.range e.count).filter fun i => (t.row (e.first + i)).tag = .poison).length
      let st := if full + psn = 0 then 0 else if full = e.count then 2 else if e.up then 1 else 3
      exec (.tstate d m) s = .next (finishA s (t.result .a d 2
        (BitVec.ofNat 64 (st + (if 0 < psn then 4 else 0) + 8 + 2 ^ 16 * full + 2 ^ 32 * psn))))) ∧
    (∀ e, n ≤ 255 → tfind t.tiles n = some e →
      exec (.tfill d m) s = fill e .pattern v ∧ exec (.tfillEmpty m) s = fill e .empty 0 ∧ exec (.tfillFull m) s = fill e .full 0) ∧
    (n ≤ 255 → tfind t.tiles n = none →
      ∀ i ∈ [Instr.tfill d m, .tfillEmpty m, .tfillFull m], exec i s = .next (ill s 0x0E))) ∧
  ∀ (t : Task) (f : Fill), t.as.fill = some f →
    let u := t.fillRow
    (t.reserved f.next = true → u = t) ∧
    (t.reserved f.next = false →
      (u.row f.next).tag = (match f.form with
        | .pattern => .full
        | .empty => .empty
        | .full => if (t.row f.next).tag = .poison then .poison else .full) ∧
      (f.form = .pattern → ∀ k < 16, (u.row f.next).data.extractLsb' (64 * k) 64 = f.pat) ∧
      (f.form ≠ .pattern → (u.row f.next).data = (t.row f.next).data) ∧
      (∀ v, v ≠ f.next → u.row v = t.row v) ∧
      u.as.fill = (if f.last ≤ f.next + 1 then none else some { f with next := f.next + 1 }))

/-- 08 R196, R215: scratchpad loads and stores of the A-strand, at the byte address that register and displacement give: where
they complete, where they wait for a tag, and where they trap. A store changes its bytes of its row and nothing else of any row's
data.
08 R206, R207, R217: `mld` pops its first row at issue and `mst` takes its first row at issue; the rest is in flight.
That pop 0 and write 0 come with the operands is the model's choice: log 11. -/
def Obligations.ScratchAccess : Prop :=
  (∀ (s : State) (t : Task) (g : Guard) (z : BitVec 3) (y : BitVec 2) (d : Reg) (m : MAddr), MemOpen s t m.wait →
      let a := (t.rd .a m.base + m.disp.signExtend 64).toNat
      let row := t.row (a / 128)
      let off := a % 128
      let loads := [Instr.ldf z d m, .ldx z d m]
      let stores := [Instr.ste g y d m, .stx g y d m]
      let loaded (n : Nat) : Word := extendLoad z.toNat (row.data.toNat / 2 ^ (8 * off) % 2 ^ (8 * n))
      (t.win.rows ≤ a / 128 → ∀ i ∈ loads, exec i s = .next (trapHere s 3 1)) ∧
      (a / 128 < t.win.rows → a % 2 ^ (z.toNat % 4) ≠ 0 → ∀ i ∈ loads, exec i s = .next (trapHere s 3 2)) ∧
      (a / 128 < t.win.rows → a % 2 ^ (z.toNat % 4) = 0 → row.seen = .full → row.ue.getLsbD (off / 32) = false →
        exec (.ldf z d m) s = .next (finishA s (t.result .a d 4 (loaded (2 ^ (z.toNat % 4)))))) ∧
      (a / 128 < t.win.rows → a % 2 ^ (z.toNat % 4) = 0 → row.seen = .empty → exec (.ldf z d m) s = .next (s.wait 1)) ∧
      (a / 128 < t.win.rows → a % 2 ^ (z.toNat % 4) = 0 → row.seen = .poison → exec (.ldf z d m) s = .next (trapHere s 5 2)) ∧
      (a / 128 < t.win.rows → a % 2 ^ (z.toNat % 4) = 0 → row.tag ≠ .poison → row.ue.getLsbD (off / 32) = false →
        exec (.ldx z d m) s = .next (finishA s (t.result .a d 4 (loaded (2 ^ (z.toNat % 4)))))) ∧
      (t.guard .a g = false → ∀ i ∈ stores, exec i s = .next (finishA s t)) ∧
      (t.guard .a g = true → t.win.rows ≤ a / 128 → ∀ i ∈ stores, exec i s = .next (trapHere s 3 1)) ∧
      (t.guard .a g = true → a / 128 < t.win.rows → a % 2 ^ y.toNat ≠ 0 → ∀ i ∈ stores, exec i s = .next (trapHere s 3 2)) ∧
      (t.guard .a g = true → a / 128 < t.win.rows → a % 2 ^ y.toNat = 0 → row.seen = .full → exec (.ste g y d m) s = .next (s.wait 1)) ∧
      (t.guard .a g = true → a / 128 < t.win.rows → a % 2 ^ y.toNat = 0 → row.seen = .poison → t.reserved (a / 128) = false →
        exec (.ste g y d m) s = .next (trapHere s 5 2)) ∧
      (t.guard .a g = true → a / 128 < t.win.rows → a % 2 ^ y.toNat = 0 → t.reserved (a / 128) = true →
        ∀ i ∈ stores, exec i s = .next (s.wait 1)) ∧
      (t.guard .a g = true → a / 128 < t.win.rows → a % 2 ^ y.toNat = 0 → t.reserved (a / 128) = false →
        (∃ u, exec (.stx g y d m) s = .next (finishA s u) ∧ (u.row (a / 128)).tag = row.tag ∧
          (∀ v k, k < 128 → (u.row v).data.extractLsb' (8 * k) 8 =
            if v = a / 128 ∧ off ≤ k ∧ k < off + 2 ^ y.toNat then (t.rd .a d).extractLsb' (8 * (k - off)) 8
            else (t.row v).data.extractLsb' (8 * k) 8) ∧
          { u with rows := t.rows } = t) ∧
        (row.seen = .empty → ∃ u, exec (.ste g y d m) s = .next (finishA s u) ∧ (u.row (a / 128)).tag = .full ∧
          (∀ v k, k < 128 → (u.row v).data.extractLsb' (8 * k) 8 =
            if v = a / 128 ∧ off ≤ k ∧ k < off + 2 ^ y.toNat then (t.rd .a d).extractLsb' (8 * (k - off)) 8
            else (t.row v).data.extractLsb' (8 * k) 8) ∧
          { u with rows := t.rows, touched := t.touched, tiles := t.tiles } = t))) ∧
  (∀ (s : State) (t c : Task) (mask p : BitVec 3) (q : BitVec 2) (m d n : BitVec 6) (k v : Nat) (row : Row) (f : Fetch), s.On .x t →
      (Claimed s t [] [m.toNat] c → (Fetch.start c).pop p.toNat c.xs.ic c.x.pc 0 = (v, row, f) → f.Ready → f.t.slotOf m.toNat = some k →
        exec (.mld mask m d p n) s = .next (finishX s ((f.t.launchX (2 * (n.toNat + 1))
          (.mld k d.toNat p.toNat (n.toNat + 1) (laneCells (f.t.mask mask)) 1 [(0, row)])).named (.mld mask m d p n)))) ∧
      (Claimed s t [m.toNat] [] c → (Fetch.start c).take q.toNat c.xs.ic c.x.pc = (v, f) → f.Ready → f.t.slotOf m.toNat = some k →
        exec (.mst mask q m d n) s = .next (finishX s ((f.t.launchX (2 * (n.toNat + 1))
          (.mst q.toNat (laneCells (f.t.mask mask)) ((List.range n.toNat).map fun j => f.t.mrow k (d.toNat + 1 + j)) 1
            [(0, v, f.t.mrow k d.toNat)])).named (.mst mask q m d n)))))

/-! ### Global memory (09, 16) -/

/-- 09 R220, R235; 16 R339, R342: translating a byte of a context: ADDR 0x04 above the 57-bit space, outside every extent and
where a present extent has no frame; PRIV for a permission that is missing or an A-strand access to a STRIPE; BACK for an extent
that is not present, is migrating, has no route or whose device refuses requests; else the physical address.
09 R221, R224; 23 R446, R458: a write that reaches its home in this device's L2, whose line is held or finds a way free, changes
the bytes of its mask in that sector and no other byte of any sector; a write to a line of a way under quarantine waits in its
slice; a line that leaves a full set changes no byte of any sector; and a write to host memory changes the bytes of its mask. -/
def Obligations.MemoryAccess : Prop :=
  (∀ (s : State) (ctx va : Nat) (acc : Acc) (strand : Bool),
      (2 ^ 57 ≤ va → s.xlate ctx va acc strand = .bad 3 4) ∧
      (va < 2 ^ 57 → (s.ctx ctx).lookup va = none → s.xlate ctx va acc strand = .bad 3 4) ∧
      ∀ k e, va < 2 ^ 57 → (s.ctx ctx).lookup va = some (k, e) →
        let pa := s.paOf e va
        (e.kind ≠ .stripe → pa = e.target + (va - e.vbase)) ∧
        ((e.kind ≠ .backed ∨ e.present = true) → s.unframed ctx pa = true → s.xlate ctx va acc strand = .bad 3 4) ∧
        (s.unframed ctx pa = false → (acc = .rd ∧ e.r = false ∨ acc = .wr ∧ e.w = false ∨ acc = .ex ∧ e.x = false ∨
          strand = true ∧ e.kind = .stripe) → s.xlate ctx va acc strand = .bad 6 0) ∧
        (e.r = true → e.w = true → e.x = true → (strand = true → e.kind ≠ .stripe) →
          (e.kind = .backed → e.present = false → s.xlate ctx va acc strand = .bad 4 1) ∧
          (s.unframed ctx pa = false → e.kind = .migrating → s.xlate ctx va acc strand = .bad 4 2) ∧
          (s.unframed ctx pa = false → e.kind = .backed → e.present = true → s.xlate ctx va acc strand = .ok pa e) ∧
          (s.unframed ctx pa = false → e.kind ≠ .backed → e.kind ≠ .migrating →
            s.xlate ctx va acc strand =
              if s.routed (chipOf pa) then (if s.refusedAt pa then .bad 4 2 else .ok pa e) else .bad 4 5))) ∧
  (∀ (s : State) (w : SWrite) (k : Nat),
      (s.homeOf w.owner w.sec = .here k →
        s.lineHeld w.owner (w.sec * 32) = false →
        ((tfind s.lines (k / 8)).isSome ∨ isResidencyOff (offOf (k / 8 * 256)) = true ∨ s.freeWays (l2Place (k / 8)) ≠ []) →
        (∀ i < 32, sectorByte ((s.writeHome w).readL2 k).data i =
          if w.mask.getLsbD i then sectorByte w.data i else sectorByte (s.readL2 k).data i) ∧
        (∀ j, j ≠ k → ((s.writeHome w).readL2 j).data = (s.readL2 j).data) ∧ (s.writeHome w).mem = s.mem ∧
        ((tfind (s.writeHome w).lines (k / 8)).map fun l => l.owner) = some w.owner) ∧
      (s.homeOf w.owner w.sec = .here k → s.lineHeld w.owner (w.sec * 32) = true →
        (s.writeHome w).slow = s.slow ++ [w] ∧ (s.writeHome w).l2 = s.l2 ∧ (s.writeHome w).mem = s.mem) ∧
      (∀ line, twf L2Sector.zero s.l2 = true →
        (∀ j, ((s.displaceLine line).readL2 j).data = (s.readL2 j).data) ∧ tfind (s.displaceLine line).lines line = none ∧
        ∀ j, j / 8 = line → tfind (s.displaceLine line).l2 j = none) ∧
      (s.homeOf w.owner w.sec = .host k →
        (∀ b, memByte (s.writeHome w).mem b =
          if k * 32 ≤ b ∧ b < k * 32 + 32 ∧ w.mask.getLsbD (b - k * 32) then sectorByte w.data (b - k * 32) else memByte s.mem b) ∧
        (s.writeHome w).l2 = s.l2 ∧ (Memory.wf s.mem → Memory.wf (s.writeHome w).mem)))

/-- 09 R223, R236, R237: loads. An aligned load of a readable byte address whose sector is not poisoned writes its register,
extended as the size says, 5 cc later; a misaligned one is ADDR 0x03, and a failing translation is its trap.
The 5 cc of a load that misses the L1 are the model's choice: log 5. -/
def Obligations.LoadResults : Prop :=
  ∀ (s : State) (t : Task) (strm : Bool) (sc : Scope) (z : BitVec 3) (d : Reg) (m : MAddr), MemOpen s t m.wait →
    let a := (t.rd .a m.base + m.disp.signExtend 64).toNat
    let n := 2 ^ (z.toNat % 4)
    let core := s.cur.core
    let ctx := t.who.ctx
    let loads := [Instr.ld strm z d m] ++ if t.as.outst = 0 then [Instr.lds strm sc z d m] else []
    let gives (s1 : State) (pa : Nat) (x : BitVec 256) : Out :=
      .next (finishA s1 (t.result .a d 5 (extendLoad z.toNat (x.toNat / 2 ^ (8 * (pa % 32)) % 2 ^ (8 * n)))))
    (a % n ≠ 0 → ∀ i ∈ loads, exec i s = .next (trapHere s 3 3)) ∧
    (∀ code sub, a % n = 0 → s.xlate ctx a .rd true = .bad code sub → ∀ i ∈ loads, exec i s =
      .next (if code = 4 then takeBack s t sub a 0 else trapHere s code sub)) ∧
    (∀ pa e, a % n = 0 → s.xlate ctx a .rd true = .ok pa e → s.lineHeld ctx pa = false →
      ((s.loadL1 core ctx (pa / 32)).1.bad = none →
        exec (.ld false z d m) s = gives (s.loadL1 core ctx (pa / 32)).2 pa (s.loadL1 core ctx (pa / 32)).1.data ∧
        (t.as.outst = 0 →
          exec (.lds strm .core z d m) s = gives (s.loadL1 core ctx (pa / 32)).2 pa (s.loadL1 core ctx (pa / 32)).1.data)) ∧
      ((s.readThrough core ctx (pa / 32)).bad = none →
        exec (.ld true z d m) s = gives s pa (s.readThrough core ctx (pa / 32)).data) ∧
      (t.as.outst = 0 → sc ≠ .core → (s.readBelow (clusterOf core) ctx (pa / 32)).bad = none →
        exec (.lds strm sc z d m) s = gives s pa (s.readBelow (clusterOf core) ctx (pa / 32)).data))

/-- 09 R236, R237: stores. Under a true guard, an aligned store to a writable address whose page `s1` has bound writes its bytes
(a page that cannot be bound is BACK, a late frame that is gone ADDR 0x04): the weak forms into the core's L1, the others into a
valid L1 copy and down to their scope. Under a false guard nothing is stored.
09 R222, R223, R236: what a weak store changes in memory, its line holding a way of its set or finding one free: the byte that the
storing core reads at each stored physical address is the stored byte; every other byte that any core reads, and everything below
the L1s, is as in `s1`, where the page it needs stands bound.
A write-down within the one step is the model's choice: log 6. -/
def Obligations.StoreResults : Prop :=
  (∀ (s : State) (t : Task) (strm : Bool) (sc : Scope) (g : Guard) (y : BitVec 2) (d : Reg) (m : MAddr), MemOpen s t m.wait →
      let a := (t.rd .a m.base + m.disp.signExtend 64).toNat
      let n := 2 ^ y.toNat
      let core := s.cur.core
      let ctx := t.who.ctx
      let stores := [Instr.st strm g y d m] ++ if t.as.outst = 0 then [Instr.sts strm sc g y d m] else []
      (t.guard .a g = false → ∀ i ∈ stores, exec i s = .next (finishA s t)) ∧
      (t.guard .a g = true → a % n ≠ 0 → ∀ i ∈ stores, exec i s = .next (trapHere s 3 3)) ∧
      (∀ code sub, t.guard .a g = true → a % n = 0 → s.xlate ctx a .wr true = .bad code sub →
        ∀ i ∈ stores, exec i s = .next (if code = 4 then takeBack s t sub a 1 else trapHere s code sub)) ∧
      (∀ pa e, t.guard .a g = true → a % n = 0 → s.xlate ctx a .wr true = .ok pa e → s.lineHeld ctx pa = false →
        (∀ sub, s.bindFor ctx pa e = .beyond sub → ∀ i ∈ stores, exec i s = .next (takeBack s t sub a 1)) ∧
        (s.bindFor ctx pa e = .hole → ∀ i ∈ stores, exec i s = .next (trapHere s 3 4))) ∧
      (∀ pa e s1, t.guard .a g = true → a % n = 0 → s.xlate ctx a .wr true = .ok pa e → s.lineHeld ctx pa = false →
        s.bindFor ctx pa e = .done s1 →
        let mask := spanMask (pa % 32) n
        let data := spanData (pa % 32) ((t.rd .a d).toNat % 2 ^ (8 * n))
        let u := t.wrote (chipOf pa) s.pod.chip.toNat
        let w : SWrite := { sec := pa / 32, mask := mask, data := data, owner := ctx, poison := false, port := 0 }
        exec (.st false g y d m) s = .next (finishA (s1.storeL1 core ctx (pa / 32) mask data) u) ∧
        exec (.st true g y d m) s =
          .next (finishA ((s1.passL1 core ctx (pa / 32) mask data false).sendDown (clusterOf core) .device [w]) u) ∧
        (t.as.outst = 0 → exec (.sts strm .core g y d m) s = .next (finishA (s1.storeL1 core ctx (pa / 32) mask data) u)) ∧
        (t.as.outst = 0 → sc ≠ .core → exec (.sts strm sc g y d m) s =
          .next (finishA ((s1.passL1 core ctx (pa / 32) mask data true).sendDown (clusterOf core) sc [w]) u)))) ∧
  (∀ (s s1 : State) (t : Task) (g : Guard) (y : BitVec 2) (d : Reg) (m : MAddr) (pa : Nat) (e : Entry), MemOpen s t m.wait →
      t.guard .a g = true → (t.rd .a m.base + m.disp.signExtend 64).toNat % 2 ^ y.toNat = 0 → pa % 2 ^ y.toNat = 0 →
      s.xlate t.who.ctx (t.rd .a m.base + m.disp.signExtend 64).toNat .wr true = .ok pa e → s.lineHeld t.who.ctx pa = false →
      s.bindFor t.who.ctx pa e = .done s1 →
      (pa / 256 ∈ (s1.core s.cur.core).lines (pa / 256 % 64) ∨
        ((s1.core s.cur.core).lines (pa / 256 % 64)).length < (s1.core s.cur.core).ways) →
      ∃ s', exec (.st false g y d m) s = .next s' ∧
        (∀ core ctx b, s'.coreByte core ctx b =
          if core = s.cur.core ∧ pa ≤ b ∧ b < pa + 2 ^ y.toNat then (t.rd .a d).extractLsb' (8 * (b - pa)) 8
          else s1.coreByte core ctx b) ∧
        s'.mem = s1.mem ∧ s'.l2 = s1.l2 ∧ s'.poison = s1.poison ∧ s'.clusters = s1.clusters ∧ s'.pod = s1.pod ∧ s'.ctxs = s1.ctxs ∧
        ∀ k, k ≠ s.cur.key → tfind s'.tasks k = tfind s1.tasks k)

/-- 09 R239-R242; 16 R353: hints, discards, write-downs and fences, with their slot open, their range granted, and no byte that
they write down on its way to a device without a route.
Releases, fences and write-downs done in the one step are the model's choice: log 6. -/
def Obligations.RangesAndFences : Prop :=
  ∀ (s : State) (t : Task) (strm : Bool) (sc : Scope) (d : Reg) (m : MAddr),
    let a := (t.rd .a m.base + m.disp.signExtend 64).toNat
    let n := (t.rd .a d).toNat
    let core := s.cur.core
    let cl := clusterOf core
    let ctx := t.who.ctx
    let ps := (s.pieces ctx a n).getD []
    let empty := ((s.dropL1 core ps).drainEgress cl)
    let dropped := ps.foldl (fun s p => s.dropLines ctx p.e (p.len / 65536 + 2) (s.paOf p.e p.va) p.len) empty
    let out (s1 : State) : Out := .next (finishA s1 t)
    let down (f : State) (p : Nat → Bool) (o : Out) (r : Out) : Prop := f.stuckOut ctx sc (s.downChips core p) = false → o = r
    let all : Nat → Bool := fun _ => true
    (MemOpen s t m.wait →
      (∀ pa e, s.xlate ctx a .any false = .ok pa e →
        exec (.pref false m) s = out ((s.filled ctx (pa / 32)).fillLine core ctx (pa / 256)) ∧
        exec (.pref true m) s = out (s.filled ctx (pa / 32))) ∧
      (∀ c k, s.xlate ctx a .any false = .bad c k → exec (.pref strm m) s = out s) ∧
      (n % 2 ^ 25 ≠ 0 → a < 2 ^ 57 → (s.ctx ctx).lookup a ≠ none → (s.cluster cl).hints.length < 16 →
        exec (.prefAdapter d m) s = out (s.putCluster cl { (s.cluster cl) with
          hints := (s.cluster cl).hints ++ [(ctx, t.rd .a m.base + m.disp.signExtend 64, min (n % 2 ^ 25) (2 ^ 24))] })) ∧
      (n % 2 ^ 25 ≠ 0 → 16 ≤ (s.cluster cl).hints.length → exec (.prefAdapter d m) s =
        out (s.putCluster cl { (s.cluster cl) with dropped := (s.cluster cl).dropped + 1 }))) ∧
    (StrongOpen s t m.wait →
      (n = 0 → exec (.disc d m) s = out s ∧ exec (.discp d m) s = out s) ∧
      (n ≠ 0 → n % 256 = 0 → n ≤ 2 ^ 24 → a % 256 = 0 → s.rangeBad ctx a n true = none → exec (.disc d m) s = out dropped) ∧
      (n ≠ 0 → n % 65536 = 0 → n ≤ 2 ^ 30 → a % 65536 = 0 → s.rangeBad ctx a n true = none →
        exec (.discp d m) s = out (ps.foldl (fun s p => s.discardPages ctx p) dropped)) ∧
      (n % 256 ≠ 0 ∨ 2 ^ 24 < n → exec (.disc d m) s = .next (ill s 0x0E)) ∧
      (n % 65536 ≠ 0 ∨ 2 ^ 30 < n → exec (.discp d m) s = .next (ill s 0x0E)) ∧
      (d ≠ 0 → s.rangeBad ctx a n false = none →
        let f := s.cleanL1 core sc (inLines s ps)
        let g := s.invalL1 core sc (inLines s ps)
        down f (inLines s ps) (exec (.clean sc d m) s) (out f) ∧ down g (inLines s ps) (exec (.inval sc d m) s) (out g)) ∧
      (d = 0 →
        let f := s.cleanL1 core sc all
        let g := s.invalL1 core sc all
        down f all (exec (.clean sc d m) s) (out f) ∧ down g all (exec (.inval sc d m) s) (out g)) ∧
      ((s.cleanL1 core sc all).stuckOut ctx sc (t.as.podmask ||| s.downChips core all) = false → exec (.fenceRel m.wait sc) s =
        .next (finishA (s.cleanL1 core sc all)
          (if sc = .pod ∨ sc = .system then t.onA fun x => { x with podmask := 0 } else t))) ∧
      ((s.cleanL1 core sc all).stuckOut ctx sc (t.as.podmask ||| s.downChips core all) = true →
        exec (.fenceRel m.wait sc) s = .next (s.wait 1)) ∧
      exec (.fenceAcq m.wait .core) s = out s ∧
      (sc ≠ .core →
        let g := s.invalL1 core sc (s.validL1 core)
        down g (s.validL1 core) (exec (.fenceAcq m.wait sc) s) (out g)))

/-- 09 R243-R245: bindings of regions to slots, the release that adds and the acquire that waits.
09 R223, R239: an eviction writes a line's dirty bytes as far as DEVICE scope and drops the line from the core's L1; a hint is
taken by an idle walker of its cluster, which brings the hint's lines into their home L2.
The release done in the one step and the moment of an eviction are the model's choices: log 6 and 10. -/
def Obligations.RegionBindings : Prop :=
  (∀ (s : State) (t : Task) (sc : Scope) (d b : Reg) (m : MAddr),
      let v := t.rd .a d
      let addr := t.rd .a m.base + m.disp.signExtend 64
      let new : Binding := { base := addr, len := v.extractLsb' 32 32, slot := v.setWidth 22 }
      let same (x : Binding) : Bool := x.base == addr && x.slot == new.slot
      let low : BitVec 32 := (t.rd .a b).setWidth 32
      (MemOpen s t m.wait → bindBad v = false → t.as.binds.any same = false → t.as.binds.length < 16 → addr.toNat % 256 = 0 →
        s.pieces t.who.ctx addr.toNat new.len.toNat ≠ none →
        exec (.rbind d m) s = .next (finishA s (t.onA fun x => { x with binds := x.binds ++ [new] }))) ∧
      (MemOpen s t m.wait → bindBad v = false → t.as.binds.any same = true → addr.toNat % 256 = 0 →
        s.pieces t.who.ctx addr.toNat new.len.toNat ≠ none →
        exec (.rbind d m) s = .next (finishA s (t.onA fun x => { x with binds := x.binds.map fun y => if same y then new else y }))) ∧
      (MemOpen s t m.wait → bindBad v = true → exec (.rbind d m) s = .next (ill s 0x0E)) ∧
      (MemOpen s t m.wait → bindBad v = false → t.as.binds.any same = false → 16 ≤ t.as.binds.length →
        exec (.rbind d m) s = .next (ill s 0x46)) ∧
      (MemOpen s t m.wait → addr.toNat < 2 ^ 57 → (s.ctx t.who.ctx).lookup addr.toNat ≠ none →
        exec (.runbind d m) s = .next (finishA s (t.onA fun x => { x with binds := x.binds.filter fun y => !same y }))) ∧
      (StrongOpen s t m.wait → s.idBad v = none → s.routed (idChip (v.setWidth 22)) = true →
        let id : BitVec 22 := v.setWidth 22
        let s1 := s.cleanL1 s.cur.core sc (boundTo s t id)
        let s2 := if sc = .pod ∨ sc = .system then s1.flushPeers else s1
        let u := if sc = .pod ∨ sc = .system then t.onA fun x => { x with podmask := 0 } else t
        (s1.stuckOut t.who.ctx sc (t.as.podmask ||| s.downChips s.cur.core (boundTo s t id)) = false → ∃ s3 t3, sendStrand s2 u id (.add low) = (s3, t3) ∧
          exec (.srel m.wait sc d b) s = .next (finishA s3 (t3.onA fun x => { x with outst := 1, blocked := true }))) ∧
        ∃ s3 t3, sendStrand s t id .wait = (s3, t3) ∧
          exec (.sacq m.wait sc d b) s = .next (finishA s3 (t3.onA fun x => { x with
            wait := some { kind := .sacq sc, slot := id, cond := 0, t := low, phase := .sent, pc := t.a.pc } })))) ∧
  (∀ (s : State) (core line : Nat),
      (exec (.l1Eviction core line) s = .next (s.evictLine core line) ∧
        ∀ k, k / 8 = line → (s.evictLine core line).l1 core k = none) ∧
      let cl := clusterOf s.cur.core
      let c := s.cluster cl
      ((∃ w < 4, (tget Walker.zero c.walkers w).lat = [] ∧ (tget Walker.zero c.walkers w).bulk = [] ∧
          (tget Walker.zero c.walkers w).run = []) → ∀ ctx a n rest, c.hints = (ctx, a, n) :: rest →
        exec .hintServe s = .next ((s.putCluster cl { c with hints := rest }).hintLines ctx
          ((a.toNat + n - 1) / 256 - a.toNat / 256 + 1) (a.toNat / 256 * 256))) ∧
      (c.hints = [] → exec .hintServe s = .next s) ∧
      ((∀ w < 4, (tget Walker.zero c.walkers w).run ≠ []) → exec .hintServe s = .next s))

/-! ### Walkers (10) -/

/-- 10 R247, R250-R256, R259, R260, R269, R270: the instructions that hand a walker work: with the record inside its limits, the
token not PENDING and room in the queue, the job takes the record's registers and the token becomes PENDING.
10 R257, R264, R273; 03 R73: landing entries, tokens waited for, cleared and read, and permits given to a walk program.
Which condition comes before a stall, and what `tokw.clr` leaves, are readings, the accept queue of a walk the model's choice: log
17, 18 and 109. -/
def Obligations.WalkerHandoff : Prop :=
  (∀ (s : State) (t : Task) (c : CpyArgs) (sig : Bool) (rg : Reg) (scratch waite : Bool) (j : BitVec 2) (mask : BitVec 12)
      (a : WalkArgs),
      MemOpen s t c.wait → rg = c.rg →
      let r (n : Nat) : Word := t.rd .a (BitVec.ofNat 6 (c.rg.toNat + n))
      let base (kind : JobKind) : Job := newJob s t c.k c.w kind
      let job (kind : JobKind) : Job :=
        { base kind with rec0 := r 0, rec1 := r 1, ext0 := (r 2).toNat % 2 ^ 32, ext1 := (r 2).toNat / 2 ^ 32, rec3 := r 3, rec4 := r 4,
                         rec5 := r 5 }
      let copy (g : Bool) : JobKind := .copy c.kind c.waite c.srcw c.srcc g
      let fresh : Walk :=
        { pc := a.entry.toNat, stack := ((List.range a.npar.toNat).map r).reverse, loops := [], rets := [], stage := [], permits := 0,
          chain := if a.chen then some a.chain.toNat else none, tokd := false, launch := none }
      let bad := recordBad t c.rg (kindSrcG c.kind) (kindDstG c.kind)
      (HandOpen s t c.k c.w →
        (bad = false → Hands (.cpy c false) s t c.k (job (copy false))) ∧
        (bad = false → (r 5).toNat < 2 ^ 22 → Hands (.cpy c true) s t c.k (job (copy true))) ∧
        (recordBad t c.rg true (!scratch) = false → (r 5).toNat % 4 = 0 →
          Hands (.cpyg c.wait c.k rg scratch c.w waite) s t c.k (job (.gather scratch waite))) ∧
        (mask ≠ 0 → recordBad t c.rg true false = false →
          Hands (.cpym c.wait c.k rg c.w waite j mask) s t c.k
            { job (.multi j.toNat mask waite) with recvs := receivers s.cur.core mask }) ∧
        ((r 0).toNat % 4 = 0 → (r 1).toNat < 2 ^ 17 → (r 1).toNat % 256 + (r 1).toNat / 256 + 1 ≤ 256 →
          Hands (.wload c.wait c.k rg c.w) s t c.k
            { base .load with rec0 := r 0, rec1 := BitVec.ofNat 64 ((r 1).toNat % 256), ext0 := (r 1).toNat / 256 + 1, ext1 := 1 }) ∧
        (a.wait = c.wait → a.k = c.k → a.rg = c.rg → a.w = c.w → a.npar.toNat ≤ 6 →
          Hands (.walk a) s t c.k { base .walk with walk := some fresh })) ∧
      (bad = false → (t.tok c.k.toNat).st ≠ .pending → (s.walker (clusterOf s.cur.core) c.w.toNat).timed.length < 32 →
        s.anyOutside (clusterOf s.cur.core) c.w.toNat (s.walker (clusterOf s.cur.core) c.w.toNat) = false →
        let x := s.walker (clusterOf s.cur.core) c.w.toNat
        let held : Job := { job (copy false) with st := .timed, t := r 5 }
        exec (.cpyt c) s = .next (finishA
          (({ s with jobs := tins s.jobs s.nextJob held, nextJob := s.nextJob + 1 } : State).putWalker (clusterOf s.cur.core) c.w.toNat { x with timed := x.timed ++ [s.nextJob] })
          (t.bindTok c.k s.nextJob))) ∧
      (bad = true → exec (.cpy c sig) s = .next (ill s 0x0E) ∧ exec (.cpyt c) s = .next (ill s 0x0E)) ∧
      (bad = false → (t.tok c.k.toNat).st = .pending → exec (.cpy c false) s = .next (s.wait 1) ∧ exec (.cpyt c) s = .next (s.wait 1))) ∧
  (∀ (s : State) (t : Task) (wt : BitVec 8) (rg d : Reg) (j : BitVec 2) (k : BitVec 3) (n : BitVec 16), MemOpen s t wt →
      let a := t.rd .a (BitVec.ofNat 6 (rg.toNat + 0))
      let b := t.rd .a (BitVec.ofNat 6 (rg.toNat + 1))
      let x := t.tok k.toNat
      (a.toNat < 2 ^ 14 → b.toNat < 2 ^ 22 → exec (.permitLand wt rg j) s =
        .next (finishA s (t.onA fun z => { z with lands := tins z.lands j.toNat { base := a.setWidth 14, slot := b.setWidth 22 } }))) ∧
      (2 ^ 14 ≤ a.toNat ∨ 2 ^ 22 ≤ b.toNat → exec (.permitLand wt rg j) s = .next (ill s 0x0E)) ∧
      exec (.permitUnland wt j) s = .next (finishA s (t.onA fun z => { z with lands := tdel z.lands j.toNat })) ∧
      exec (.tokw wt false) s = .next (finishA s t) ∧
      (∃ u, exec (.tokw wt true) s = .next (finishA s u) ∧ { u with as := t.as } = t ∧ { u.as with toks := t.as.toks } = t.as ∧
        ∀ i < 8, u.tok i = if wt.getLsbD i then Token.zero else t.tok i) ∧
      (x.st ≠ .pending → exec (.tokst wt k d) s = .next (finishA s (t.result .a d 2
        (BitVec.ofNat 64 ((match x.st with | .idle => 0 | .pending => 1 | .ok => 2 | .err => 3 + 16 * x.errc.toNat) +
          2 ^ 16 * x.done.toNat))))) ∧
      (∀ y, x.st = .pending → tfind s.jobs x.job = some y → exec (.tokst wt k d) s = .next (finishA s (t.result .a d 2
        (BitVec.ofNat 64 (1 + 2 ^ 16 * (y.rows % 2 ^ 32)))))) ∧
      (x.st ≠ .pending → exec (.permit wt k n) s = .next (finishA s t)) ∧
      ∀ y w, x.st = .pending → tfind s.jobs x.job = some y → y.walk = some w → exec (.permit wt k n) s =
        .next (finishA (s.putJob x.job { y with walk := some { w with permits := min (w.permits + n.toNat) (2 ^ 32 - 1) } }) t))

/-- 10 R248, R255, R259, R263: the events of a copy: a timed one falls due and joins its queue; a row of 128 bytes goes from
global memory to its scratchpad row, which becomes FULL; once the copy's writes have performed its signal is sent, and once that
has performed the token takes its outcome and the job leaves.
The row as the unit of a movement and DONE of `wload` and `cpym` are the model's choices: log 27, 107 and 108. -/
def Obligations.CopyEvents : Prop :=
  ∀ (s : State) (j : Job), tfind s.jobs s.job = some j →
    let x := s.walker j.cluster j.w
    (j.st = .timed → (j.t = 0 ∨ s.job ∈ x.timed) → j.t.toNat ≤ s.dt.toNat → (x.queue j.lat).length < 8 →
      ((s.dueFor j.cluster j.w j.lat).any fun e => dueBefore e (j.t.toNat, s.job)) = false →
      exec .cpytDue s = .next ((((s.putWalker j.cluster j.w ((x.without s.job).push j.lat s.job)).putJob s.job
        { j with st := .queued })).reissued j.core j.bank j.id)) ∧
    (s.dt.toNat < j.t.toNat → exec .cpytDue s = .next s) ∧
    (∀ (t : Task) (waite srcw srcc sig : Bool) (l : List (BitVec 256)) (a b : Nat),
      j.kind = .copy .gs waite srcw srcc sig → j.st = .running → (s.ctx j.ctx).term = none → j.recvs = [] → j.part = [] → j.buf = [] →
      j.err = none → j.ext0 = 128 → j.got = j.rows → j.put = j.rows → j.rows < j.ext1 → s.task j.core j.bank = some t → t.who.id = j.id →
      (a : Int) = j.rec0.toNat + j.rows * j.rec3.toInt → (b : Int) = j.rec1.toNat + j.rows * j.rec4.toInt → s.rowConds j j.rows = [] →
      s.linesHeld j.ctx (sectorsOf a 128) = false → s.readSecs (some j.cluster) j.ctx j.snap (sectorsOf a 128) = .ok l → l.length = 4 →
      let v := b / 128
      v < t.win.rows → t.reserved v = false → (waite = true → (t.row v).seen ≠ .full) →
      ∃ s' j' u, exec .copyRow s = .next s' ∧ tfind s'.jobs s.job = some j' ∧ j'.rows = j.rows + 1 ∧
        j'.st = (if j.rows + 1 = j.ext1 then .done else .running) ∧ s'.task j.core j.bank = some u ∧ (u.row v).tag = .full ∧
        (∀ i < 4, some ((u.row v).data.extractLsb' (256 * i) 256) = l[i]?) ∧ (∀ w, w ≠ v → u.row w = t.row w) ∧
        s'.mem = s.mem ∧ s'.l2 = s.l2 ∧ ∀ q, q ≠ j.core * 2 + j.bank → tfind s'.tasks q = tfind s.tasks q) ∧
    (j.st = .done → s.flushPeers.stuckOut j.ctx .pod j.chips = false →
      let s1 := s.flushPeers.putJob s.job { j with st := .ending }
      (j.sig = false → j.walk = none → s.signalsOut s.job = false →
        exec .tokenComplete s = .next ((s1.onTaskId j.id fun t => t.endTok s.job j).dropJob s.job)) ∧
      (j.sig = true → idCore (j.rec5.setWidth 22) < 768 → idChip (j.rec5.setWidth 22) = s.pod.chip.toNat →
        exec .tokenComplete s = .next (s1.jobSignal s.job j (j.rec5.setWidth 22) 1))) ∧
    (j.st = .done → s.flushPeers.stuckOut j.ctx .pod j.chips = true → exec .tokenComplete s = .next s) ∧
    (j.st = .ending → s.signalsOut s.job = true → exec .tokenComplete s = .next s.flushPeers) ∧
    (j.st = .ending → j.walk = none → s.signalsOut s.job = false →
      exec .tokenComplete s = .next ((s.flushPeers.onTaskId j.id fun t => t.endTok s.job j).dropJob s.job)) ∧
    ∀ (t : Task) (k : Nat), k < 8 → t.susp = none → tget Token.zero t.as.toks k = { st := .pending, errc := 0, done := 0, job := s.job } →
      (t.endTok s.job j).tok k = match j.err with
        | none => { st := .ok, errc := 0, done := BitVec.ofNat 32 j.rows, job := s.job }
        | some c => { st := .err, errc := c, done := BitVec.ofNat 32 j.rows, job := s.job }

/-- 10 R271: the stack words of a walk program, with their operands on a stack of at most 8: what each leaves on it, and the pc
moved on.
10 R270, R271: loops, calls, permits, launches, signals, the token and the end of a walk program, and the limits that are WALK
0x01, 0x04, 0x05 and 0x06.
10 R271: a launch carried out: `fetch` fills the staging buffer with the bytes read, `send` moves a row of it to the scratchpad
and sets it FULL, `write` stores bytes of it and is over once they have performed at their homes, which the cluster's earlier
writes reach before it (the model's reading of 09 R224: log 24).
What an error in the source of `fetch` does is a reading: log 94. -/
def Obligations.WalkerControl : Prop :=
  (∀ (s : State) (j : Job) (w : Walk) (x y : Word) (r : List Word) (v : BitVec 15) (u : BitVec 10), s.Walking j w → w.stack.length ≤ 8 →
      let leaves (i : Instr) (l : List Word) : Prop :=
        exec i s = .next (s.putJob s.job { j with walk := some { w with stack := l, pc := w.pc + 1 } })
      let trap (i : Instr) : Prop := exec i s = .next (walkTrap s j 3)
      (w.stack.length < 8 → leaves (.walkerLit v) (v.setWidth 64 :: w.stack)) ∧
      (w.stack.length = 8 → trap (.walkerLit v)) ∧
      (w.stack = x :: r →
        leaves (.walkerLitx u) (((x <<< 10) ||| u.setWidth 64) :: r) ∧ leaves .walkerDrop r ∧
        (r.length < 7 → leaves .walkerDup (x :: x :: r)) ∧ (r.length = 7 → trap .walkerDup)) ∧
      (w.stack = y :: x :: r →
        leaves .walkerSwap (x :: y :: r) ∧ (r.length < 6 → leaves .walkerOver (x :: y :: x :: r)) ∧ leaves .walkerAdd ((x + y) :: r) ∧
        leaves .walkerSub ((x - y) :: r) ∧ leaves .walkerMul ((x * y) :: r) ∧ leaves .walkerShl ((x <<< (y.toNat % 64)) :: r) ∧
        leaves .walkerAnd ((x &&& y) :: r)) ∧
      (w.stack = [] → trap (.walkerLitx u) ∧ trap .walkerDrop ∧ trap .walkerDup) ∧
      (w.stack.length < 2 → trap .walkerSwap ∧ trap .walkerOver ∧ trap .walkerAdd ∧ trap .walkerSub ∧ trap .walkerMul ∧
        trap .walkerShl ∧ trap .walkerAnd)) ∧
  (∀ (s : State) (j : Job) (w : Walk) (x y : Word) (r : List Word) (v : BitVec 10), s.Walking j w →
      let goes (i : Instr) (w' : Walk) : Prop := exec i s = .next (s.putJob s.job { j with walk := some w' })
      let trap (i : Instr) (k : Nat) : Prop := exec i s = .next (walkTrap s j k)
      (w.stack = x :: r →
        (x = 0 → goes (.walkerLoop v) { w with stack := r, pc := w.pc + v.toNat + 1 }) ∧
        (x ≠ 0 → w.loops.length < 4 → goes (.walkerLoop v) { w with stack := r, loops := (x, w.pc + 1) :: w.loops, pc := w.pc + 1 }) ∧
        (x ≠ 0 → 4 ≤ w.loops.length → trap (.walkerLoop v) 4) ∧
        exec (.walkerSignal v) s = .next ((s.putJob s.job { j with walk := some { w with stack := r, pc := w.pc + 1 } }).jobSignal s.job j
          (x.setWidth 22) (v.setWidth 32))) ∧
      (∀ c start rest, w.loops = (c, start) :: rest →
        (c ≠ 1 → goes .walkerEndl { w with loops := (c - 1, start) :: rest, pc := start }) ∧
        (c = 1 → goes .walkerEndl { w with loops := rest, pc := w.pc + 1 })) ∧
      (w.loops = [] → trap .walkerEndl 4) ∧
      (w.stack = y :: x :: r →
        (y.toNat % 32 = 0 → 32 ≤ y.toNat → y.toNat ≤ 4096 → x.toNat % 32 = 0 → 32 * v.toNat + y.toNat ≤ 32768 →
          goes (.walkerFetch v) { w with stack := r, pc := w.pc + 1, launch := some (.fetch v.toNat x.toNat y.toNat) } ∧
          goes (.walkerWrite v) { w with stack := r, pc := w.pc + 1, launch := some (.write v.toNat x.toNat y.toNat) }) ∧
        (y.toNat % 32 ≠ 0 ∨ y.toNat < 32 ∨ 4096 < y.toNat ∨ x.toNat % 32 ≠ 0 ∨ 32768 < 32 * v.toNat + y.toNat →
          exec (.walkerFetch v) s = .next (walkTrap s j 6) ∧ exec (.walkerWrite v) s = .next (walkTrap s j 6)) ∧
        (y ≠ 0 → y.toNat ≤ 32 → 32 * v.toNat + 128 * y.toNat ≤ 32768 →
          goes (.walkerSend v) { w with stack := r, pc := w.pc + 1, launch := some (.send v.toNat x.toNat y.toNat) })) ∧
      (v ≠ 0 → v.toNat ≤ w.permits → goes (.walkerAwait v) { w with permits := w.permits - v.toNat, pc := w.pc + 1 }) ∧
      (v ≠ 0 → w.permits < v.toNat → exec (.walkerAwait v) s = .next s) ∧ (v = 0 → trap (.walkerAwait v) 6) ∧
      (w.rets.length < 4 → v.toNat ≤ 255 → goes (.walkerCall v) { w with rets := (w.pc + 1) :: w.rets, pc := v.toNat }) ∧
      (4 ≤ w.rets.length → trap (.walkerCall v) 4) ∧ (w.rets.length < 4 → 255 < v.toNat → trap (.walkerCall v) 5) ∧
      (∀ a rest, w.rets = a :: rest → goes .walkerRet { w with rets := rest, pc := a }) ∧ (w.rets = [] → trap .walkerRet 4) ∧
      (∀ c, w.chain = some c → goes .walkerHalt { w with pc := c, chain := none, loops := [], rets := [] }) ∧
      (w.chain = none → exec .walkerHalt s = .next (s.putJob s.job { j with st := .done })) ∧
      (w.tokd = true → (v = 0 ∨ 8 ≤ v.toNat ∧ v.toNat ≤ 15) → goes (.walkerTok v) { w with pc := w.pc + 1 }) ∧
      (w.tokd = false → (v = 0 ∨ 8 ≤ v.toNat ∧ v.toNat ≤ 15) → s.signalsOut s.job = true → exec (.walkerTok v) s = .next s) ∧
      (w.tokd = false → (v = 0 ∨ 8 ≤ v.toNat ∧ v.toNat ≤ 15) → s.signalsOut s.job = false → exec (.walkerTok v) s =
        .next ((s.putJob s.job { j with walk := some { w with pc := w.pc + 1, tokd := true } }).onTaskId j.id fun t =>
          t.endTok s.job { j with err := if v = 0 then none else some (v.setWidth 4) })) ∧
      (v ≠ 0 → (v.toNat < 8 ∨ 15 < v.toNat) → trap (.walkerTok v) 1)) ∧
  (∀ (s : State) (j : Job) (w : Walk), s.Walking j w → j.st = .running → (s.ctx j.ctx).term = none →
      let after (s : State) (w' : Walk) : State := s.putJob s.job { j with rows := j.rows + 1, walk := some { w' with launch := none } }
      let staged (o n : Nat) : List Byte := (List.range n).map fun k => tget 0 w.stage (32 * o + k)
      (∀ o a n l, w.launch = some (.fetch o a n) → s.readRange (some j.cluster) j.ctx a n = .bytes l →
        ∃ st, exec .walkerLaunchDone s = .next (after s { w with stage := st }) ∧
          ∀ k, tget 0 st k = if 32 * o ≤ k ∧ k < 32 * o + l.length then l.getD (k - 32 * o) 0 else tget 0 w.stage k) ∧
      (∀ o a n s1, w.launch = some (.write o a n) → (s.drainEgress j.cluster).writeRange j.ctx a (staged o n) = .ok s1 →
        let chips := j.chips ||| (s.placesOf j.ctx (sectorsOf a n)).2
        (s1.flushPeers.stuckOut j.ctx .pod chips = false → exec .walkerLaunchDone s = .next (s1.flushPeers.putJob s.job
          { j with chips := chips, rows := j.rows + 1, walk := some { w with launch := none } })) ∧
        (s1.flushPeers.stuckOut j.ctx .pod chips = true → exec .walkerLaunchDone s = .next (s1.flushPeers.putJob s.job
          { j with chips := chips, walk := some { w with launch := some .wrote } }))) ∧
      (∀ o row m t, w.launch = some (.send o row m) → s.task j.core j.bank = some t → t.who.id = j.id → row + m ≤ t.win.rows → t.reserved row = false → 1 ≤ m →
        ∃ s' u, exec .walkerLaunchDone s = .next s' ∧ s'.task j.core j.bank = some u ∧ (u.row row).tag = .full ∧
          (∀ k < 128, (u.row row).data.extractLsb' (8 * k) 8 = tget 0 w.stage (32 * o + k)) ∧ ∀ v, v ≠ row → u.row v = t.row v) ∧
      (w.launch = none → exec .walkerLaunchDone s = .next s))

/-! ### Semaphores and tasks (11, 18) -/

/-- 11 R275, R278-R280, R284: atomics: with the slot open, a true guard and a good id, the operation is sent and counted, and a
result register waits for its reply; a false guard does nothing; a bad id traps, and 16 R340: a device without a route is BACK
0x05.
11 R277, R280: where a strand's operation goes: into the inbox of the slot's file, due 2 cc later when the file is the core's own,
else in the next tick.
That an operation for another file may perform in the next tick is the model's choice: log 130. Which chips are in the pod, and an
s0 that is never owed, are readings: log 20 and 23. -/
def Obligations.AtomicInstructions : Prop :=
  (∀ (s : State) (t : Task) (a : SArgs), SemOpen s t →
      let low (r : Reg) : BitVec 32 := (t.rd .a r).setWidth 32
      let id : BitVec 22 := (t.rd .a a.s).setWidth 22
      let all := [Instr.sadd a, .sfadd a, .sfaddLive a, .scas a, .sset a]
      let sends (i : Instr) (op : SemOp) (dest : Bool) : Prop :=
        ∃ s1 u, sendStrand s t id op = (s1, u) ∧ exec i s = .next (finishA s1 (u.onA fun x =>
          { x with outst := x.outst + 1, awaited := if dest && a.d != 0 then a.d.toNat :: x.awaited else x.awaited }))
      (t.guard .a a.g = false → ∀ i ∈ all, exec i s = .next (finishA s t)) ∧
      (t.guard .a a.g = true → 2 ^ 22 ≤ (t.rd .a a.s).toNat → ∀ i ∈ all, exec i s = .next (ill s 0x0E)) ∧
      (t.guard .a a.g = true → (t.rd .a a.s).toNat < 2 ^ 22 → 768 ≤ (t.rd .a a.s).toNat / 64 % 1024 →
        ∀ i ∈ all, exec i s = .next (trapHere s 3 5)) ∧
      (t.guard .a a.g = true → s.idBad (t.rd .a a.s) = none → s.routed (idChip id) = false →
        ∀ i ∈ all, exec i s = .next (takeBackFor s t 5 id.toNat 1 (some (idChip id)))) ∧
      (t.guard .a a.g = true → s.idBad (t.rd .a a.s) = none → s.routed (idChip id) = true →
        sends (.sadd a) (.add (low a.o)) false ∧ sends (.sfadd a) (.fadd a.d.toNat (low a.o)) true ∧
        sends (.sfaddLive a) (.faddLive a.d.toNat (low a.o)) true ∧ sends (.scas a) (.cas a.d.toNat (low a.d) (low a.o)) true ∧
        sends (.sset a) (.set (low a.o)) false)) ∧
  (∀ (s : State) (t : Task) (id : BitVec 22) (op : SemOp), idChip id = s.pod.chip.toNat →
      let n := id.toNat / 64 % 1024
      let own := n = s.cur.core
      ∃ s1, sendStrand s t id op = (s1, t) ∧ (∀ k, k ≠ n → s1.core k = s.core k) ∧ s1.tasks = s.tasks ∧ s1.mem = s.mem ∧
        ∃ m, (s1.core n).inbox = (s.core n).inbox ++ [m] ∧ m.slot = id.toNat % 64 ∧ m.op = op ∧ m.ctx = t.who.ctx ∧ m.id = t.who.id ∧
          m.own = decide own ∧ m.due = if own then (s.core n).cc + 2 else s.dt.toNat + 1)

/-- 11 R276, R277, R279: an operation that its file performs: the slot of the acting context takes the value that the operation
gives it, and no other slot of any core changes. A slot of another context keeps its value.
11 R279, R280: the reply of an operation: its task writes the old value into the result register, zero-extended, counts one
operation less, and every other register is as before. -/
def Obligations.SlotPerforms : Prop :=
  (∀ (s : State) (m : SemMsg) (rest : List SemMsg),
      let n := s.cur.core
      let x := s.sem n m.slot
      nextSem (s.core n).cc s.dt.toNat (s.core n).served (s.core n).inbox = some (m, rest) → (s.ctx m.ctx).term = none →
      ∃ s', exec .slotOperation s = .next s' ∧ (s'.core n).inbox = rest ∧ (s'.core n).served = m.slot :: (s.core n).served ∧
        (∀ k j, (k, j) ≠ (n, m.slot) → s'.sem k j = s.sem k j) ∧
        (x.owner ≠ m.ctx → s'.sem n m.slot = x) ∧
        (x.owner = m.ctx → m.ctx ≠ 0 → s'.sem n m.slot = { x with v :=
          match m.op with
          | .add v => x.v + v
          | .fadd _ v => x.v + v
          | .faddLive _ v => if x.v = 0xFFFFFFFF ∨ x.v + v = 0xFFFFFFFF then x.v else x.v + v
          | .cas _ c v => if x.v = c then v else x.v
          | .set v => v
          | .mset v => v
          | _ => x.v })) ∧
  (∀ (s : State) (t : Task) (m : SemMsg) (d : Nat) (v : BitVec 32), s.task m.core m.bank = some t → t.who.id = m.id → 0 < d → d < 64 →
      t.as.mskip = none →
      ∃ u, (s.semDone m (some (d, v)) false).task m.core m.bank = some u ∧ u.as.outst = t.as.outst - 1 ∧ ¬ d ∈ u.as.awaited ∧
        (∀ r : Reg, u.rd .a r = if r.toNat = d then v.setWidth 64 else t.rd .a r) ∧ u.x = t.x ∧ u.a.pc = t.a.pc)

/-- 11 R281-R284: multiple sets, waits and declarations: `swait` and `swaitv` send their compare and wait; `ssetm` sends one
operation to each target.
11 R281: the conditions of a wait and their STALE value.
11 R282: a refused wait is sent again once 256 ticks have passed, and not before.
How the waits of other devices' slots are answered is a reading: log 37. -/
def Obligations.WaitInstructions : Prop :=
  (∀ (s : State) (t : Task) (g : Guard) (r o : Reg) (c p : BitVec 3) (mask : BitVec 12) (cluster : BitVec 6) (all : Bool), SemOpen s t →
      let v := t.rd .a r
      let id : BitVec 22 := v.setWidth 22
      let low : BitVec 32 := (t.rd .a o).setWidth 32
      let waits (i : Instr) (k : WaitKind) : Prop := ∃ s1 u, sendStrand s t id .wait = (s1, u) ∧
        exec i s = .next (finishA s1 (u.onA fun x =>
          { x with wait := some { kind := k, slot := id, cond := c, t := low, phase := .sent, pc := t.a.pc } }))
      (s.idBad v = none → s.routed (idChip id) = true → waits (.swait c p r o) (.swait p) ∧ waits (.swaitv c p r o) (.swaitv p)) ∧
      (t.guard .a g = false → exec (.ssetm g r o mask cluster all) s = .next (finishA s t)) ∧
      (t.guard .a g = true → mask = 0 → exec (.ssetm g r o mask cluster all) s = .next (ill s 0x0E)) ∧
      (t.guard .a g = true → mask ≠ 0 → v.extractLsb' 6 10 = 0 → v.toNat < 2 ^ 22 → v.toNat / 65536 = s.pod.chip.toNat →
        let ids := (if all then List.range 64 else [cluster.toNat]).flatMap fun q => (List.range 12).filterMap fun k =>
          if mask.getLsbD k then some (BitVec.ofNat 22 (v.toNat / 65536 * 65536 + (q * 12 + k) * 64 + v.toNat % 64)) else none
        exec (.ssetm g r o mask cluster all) s =
          .next (finishA (ids.foldl (fun s id => (sendStrand s t id (.mset low)).1) s) (t.onA fun x => { x with outst := ids.length }))) ∧
      (v.toNat < 2 ^ 22 → exec (.sdecl true r) s = .next (finishA s (t.onA fun x => { x with decls := x.decls.filter (· ≠ id) }))) ∧
      (s.idBad v = none → idChip id = s.pod.chip.toNat → (s.sem (idCore id) (idSlot id)).owner = t.who.ctx → ¬ id ∈ t.as.decls →
        t.as.decls.length < 4 → exec (.sdecl false r) s = .next (finishA s (t.onA fun x => { x with decls := x.decls ++ [id] }))) ∧
      (s.idBad v = none → idChip id ≠ s.pod.chip.toNat → s.routed (idChip id) = true → ¬ id ∈ t.as.decls → t.as.decls.length < 4 →
        ∃ s1 u, sendStrand s t id .declare = (s1, u) ∧ exec (.sdecl false r) s =
          .next (finishA s1 (u.onA fun x => { x with decls := x.decls ++ [id], outst := x.outst + 1 }))) ∧
      ∀ k : BitVec 2, exec (.prio k) s = .next (finishA s { t with cls := { t.cls with set := max k.toNat t.cls.ceil } })) ∧
  (∀ (x t : BitVec 32),
      (slotHolds 0 x t = decide ((x - t).toNat < 2 ^ 31)) ∧ (slotHolds 1 x t = decide (x = t)) ∧ (slotHolds 2 x t = decide (x ≠ t)) ∧
      (slotHolds 3 x t = let d := (x.toNat / 2 ^ 16 + 2 ^ 16 - t.toNat % 2 ^ 16) % 2 ^ 16; decide (1 ≤ d ∧ d < 2 ^ 15)) ∧
      (∀ c, c ≠ 3 → slotStale c x t = false) ∧
      slotStale 3 x t = decide (2 ≤ (x.toNat / 2 ^ 16 + 2 ^ 16 - t.toNat % 2 ^ 16) % 2 ^ 16)) ∧
  (∀ (s : State) (t : Task) (w : SlotWait) (k : Nat), s.here = some t → s.cur.bank < 2 → t.as.wait = some w → w.phase = .refused k →
      (k + 256 ≤ s.dt.toNat → ∃ s1 u, sendStrand s (t.onA fun a => { a with wait := some { w with phase := .sent } }) w.slot .wait = (s1, u) ∧
        exec .remoteWaitRetry s = .next (s1.putHere u)) ∧
      (s.dt.toNat < k + 256 → exec .remoteWaitRetry s = .next s))

/-- 11 R286-R294; 18 R403, R408: `enq`, the splits, `yield`, `bchk` and `retire`, with no cancellation pending and their limits
met.
18 R403, R408: a cancellation pending at a cancellation point is taken there, at `bchk` on either strand: TRAPINFO is CANCEL with
its cause, TRAPPC the word, the A-strand goes on at CANCELPC and the X-strand ends.
When a condition of `split.any` is compared is a reading (log 26), as is the A-strand that had ended (log 111); when CANCEL shows
is the model's choice: log 56. -/
def Obligations.TaskInstructions : Prop :=
  (∀ (s : State) (t : Task) (m sj o : Reg) (stage : BitVec 4) (cls : BitVec 2) (hasCls : Bool) (kw : BitVec 8)
      (l : Launch), SemOpen s t → t.cancel = none →
      let mask := t.rd .a m
      let v := t.rd .a sj
      let id : BitVec 22 := v.setWidth 22
      let carried := ((List.range 64).filter fun j => mask.getLsbD j).map fun j => (j, t.rd .a (BitVec.ofNat 6 j))
      let record (jn : Option (BitVec 22)) (e : Option Nat) : Record :=
        { pc := (l.stage stage.toNat).aentry, vals := carried, parent := t.who.id, stage := stage.toNat,
          set := if hasCls then max cls.toNat t.cls.ceil else t.cls.set, depth := t.who.depth + 1, join := jn, decls := [],
          mem := t.mem, cond := none, entry := e }
      let good := mask.getLsbD 0 = false ∧ carried.length ≤ 16 ∧ stage.toNat ≤ t.who.last
      (good → t.who.depth < 7 → tfind s.fe.launches t.who.launch = some l → ∀ e, l.entryFor stage.toNat (t.who.depth + 1) = some e →
        (exec (.enq m 0 stage cls hasCls false) s =
          .next (finishA (s.putLaunch t.who.launch { l with recs := l.recs ++ [record none e] }) t)) ∧
        (s.idBad v = none → exec (.enq m sj stage cls hasCls true) s =
          .next (finishA (s.putLaunch t.who.launch { l with recs := l.recs ++ [record (some id) e] }) t))) ∧
      (good → 7 ≤ t.who.depth → exec (.enq m 0 stage cls hasCls false) s = .next (ill s 0x47)) ∧
      (¬ stage.toNat ≤ t.who.last → exec (.enq m sj stage cls hasCls false) s = .next (ill s 0x0E)) ∧
      (mask.getLsbD 0 = false → carried.length ≤ 16 → t.x.ended = true → t.xs.flights = [] → t.xs.array = 0 →
        tfind s.fe.launches t.who.launch = some l →
        let r : Record :=
          { pc := t.a.pc + 1, vals := carried, parent := t.who.id, stage := t.who.stage, set := t.cls.set, depth := t.who.depth,
            join := t.who.join, decls := t.as.decls, mem := t.mem, cond := none, entry := none }
        let past : Task := { t with a := { t.a with ended := true }, who := { t.who with join := none }, retiring := true }
        exec (.splitAny m sj o 0 false 0) s = .next (finishA ((s.putLaunch t.who.launch (l.addSplit r)).pointAt s.cur.core) past) ∧
        ∀ c : BitVec 3, c.toNat < 4 → s.idBad v = none → s.routed (idChip id) = true →
          let w : SlotWait := { kind := .split, slot := id, cond := c, t := (t.rd .a o).setWidth 32, phase := .sent, pc := t.a.pc }
          exec (.splitAny m sj o c true 0) s = .next (finishA
            (sendFrom ((s.putLaunch t.who.launch (l.addSplit { r with cond := some w })).pointAt s.cur.core) t .record id .wait)
            (past.onA fun x => { x with outst := x.outst + 1 }))) ∧
      (t.tokWait kw = true → t.as.wait = none → exec (.splitHere sj o 0 false kw) s =
        .next (finishA (s.pointAt s.cur.core) { t with susp := some (.split kw) })) ∧
      (t.tokWait kw = false → t.as.wait = none → exec (.splitHere sj o 0 false kw) s =
        .next (finishA (s.pointAt s.cur.core) { t with susp := none, point := true })) ∧
      exec .yield s = .next (finishA (s.pointAt s.cur.core) { t with point := true, yielded := true }) ∧
      exec .bchk s = .next (finishA s t) ∧
      (∃ u, exec (.retire false) s = .next (finishA (s.pointAt s.cur.core) u) ∧ u.a.ended = true ∧ u.x.ended = true ∧ u.retiring = true) ∧
      ∃ u, exec (.retire true) s = .next ((finishA (s.pointAt s.cur.core) u).retireTree t.who.launch t.who.id) ∧ u.a.ended = true ∧ u.x.ended = true) ∧
  ((∀ (s : State) (t : Task) (sub : BitVec 8) (o sj : Reg) (c : BitVec 3) (w : Bool) (kw : BitVec 8) (m : Reg), SemOpen s t →
      t.cancel = some sub → t.cancelpc ≠ 0 →
      ∀ i ∈ [Instr.yield, .bchk, .splitHere sj o c w kw, .splitAny m sj o c w kw],
        ∃ s' u, exec i s = .next s' ∧ s'.here = some u ∧ u.a.pc = t.cancelpc ∧ u.a.trap = { code := 8, sub := sub, fatal := false } ∧
          u.a.trappc = t.a.pc ∧ u.x.ended = true ∧ u.cancel = none ∧ u.a.regs = t.a.regs ∧ s'.mem = s.mem) ∧
    (∀ (s : State) (t : Task), s.On .x t →
      (t.cancel = none → exec .bchk s = .next (finishX s t)) ∧
      ∀ sub, t.cancel = some sub → t.cancelpc ≠ 0 →
        ∃ s' u, exec .bchk s = .next s' ∧ s'.here = some u ∧ u.a.pc = t.cancelpc ∧ u.a.trap = { code := 8, sub := sub, fatal := false } ∧
          u.a.trappc = t.x.pc ∧ u.x.ended = true ∧ u.xs = t.xs ∧ u.cancel = none ∧ u.a.regs = t.a.regs))

/-! ### System, stream, sampler, group, checkpoint and debug words (15-19) -/

/-- 15 R330; 16 R360; 17 R370, R371, R377-R379; 18 R400, R408: `gpset`, `gpget`, `xlq`, `sslack`, `srung`, the pins, `eqpush`,
`bpost` and `bstat`.
18 R382, R383: `samp`: a misaligned descriptor is ADDR 0x03, one outside every extent ADDR 0x04; it waits for its token; else it
binds the token PENDING, does its release and reads SPECDEPTH.CUR, each once, and hands its request to the engine with the fewest
queued, waiting in its slot while that engine has 32.
The 5 cc of the replies, the moment at which a sampler request is read and the tick of a post are the model's choices: log 5, 57
and 125. -/
def Obligations.SystemInstructions : Prop :=
  (∀ (s : State) (t : Task) (n : BitVec 6) (d a b : Reg) (x : Bool), SemOpen s t →
      let gives (i : Instr) (lat : Nat) (v : Word) : Prop := exec i s = .next (finishA s (t.result .a d lat v))
      let k := gpIndex t n b x
      (∀ q, s.queue t.who.queue = some q → gives (.gpget d n b x) 5 (tget 0 q.gp k)) ∧
      exec (.gpset n a b x) s = .next (finishA (s.onQueue t.who.queue fun q => { q with gp := tset 0 q.gp k (t.rd .a a) }) t) ∧
      gives (.xlq d a false) 4 (s.xlqAddr t.who.ctx (t.rd .a a)) ∧ gives (.xlq d a true) 4 (s.ctx t.who.ctx).xlqRes ∧
      (t.mem.stream = none → gives (.sslack d a false) 5 (BitVec.ofInt 64 (-(2 ^ 63))) ∧ gives (.srungPin d a) 5 1 ∧
        gives (.srungUnpin d a) 5 1 ∧ gives (.eqpush d a b) 5 1 ∧ ((t.rd .a a).toNat < 256 → gives (.srung d a) 5 1)) ∧
      (∀ st id, t.mem.stream = some id → tfind s.streams id = some st → st.ctx = t.who.ctx →
        gives (.sslack d a false) 5 (BitVec.ofInt 64 (st.slack s.dt.toNat)) ∧
        (∀ f, st.pushStatus (t.rd .a a) (t.rd .a b) = (0, f) → st.descs.length < 64 → t.as.fill = none →
          ∃ s' st', exec (.eqpush d a b) s = .next s' ∧ tfind s'.streams id = some st' ∧ st'.descs.length = st.descs.length + 1 ∧
            ∃ u, s'.here = some u ∧ u.a.pc = t.a.pc + 1) ∧
        (∀ c f, c ≠ 0 → st.pushStatus (t.rd .a a) (t.rd .a b) = (c, f) → gives (.eqpush d a b) 5 (BitVec.ofNat 64 c)) ∧
        (∀ e, (st.kv.find? fun e => e.frame % 65536 == (t.rd .a a).toNat % 65536) = some e → e.anchor = true →
          ∃ s' st', exec (.srungUnpin d a) s = .next s' ∧ tfind s'.streams id = some st' ∧ (∀ g ∈ st'.kv, g.frame = e.frame → g.area = e.area →
            g.anchor = false) ∧ ¬ e.frame ∈ st'.pins) ∧
        (∀ e, (st.kv.find? fun e => e.frame % 65536 == (t.rd .a a).toNat % 65536) = some e → e.anchor = false →
          (st.kv.filter fun g => g.anchor).length < 8 → (st.kv.filter fun g => g.anchor).length < st.desc.wcap - 1 →
          ∃ s' st', exec (.srungPin d a) s = .next s' ∧ tfind s'.streams id = some st' ∧ e.frame ∈ st'.pins)) ∧
      (∀ st id f, t.mem.stream = some id → tfind s.streams id = some st → st.ctx = t.who.ctx → s.frameOf t = some f → f.interp = false →
        (t.rd .a a).toNat = f.last + 1 → f.last + 1 ≤ f.steps → f.last + 1 < 256 →
        ∃ s' st', exec (.srung d a) s = .next s' ∧ tfind s'.streams id = some st' ∧ st' = st.boundary f (f.last + 1) s.dt.toNat) ∧
      exec (.bpost d a) s = .next (finishA { s with posts := s.posts ++
          [{ core := s.cur.core, bank := s.cur.bank, id := t.who.id, tick := s.dt.toNat, d := d.toNat, hash := t.rd .a a }] }
        (t.onA fun z => { z with outst := z.outst + 1, awaited := if d = 0 then z.awaited else d.toNat :: z.awaited })) ∧
      (t.mem.group = none → gives (.bstat d 0 false) 5 3) ∧
      (∀ key g, t.mem.group = some key → tfind s.groups key = some g → g.ctx = t.who.ctx →
        gives (.bstat d 0 false) 5 (g.word (some t.mem.index)))) ∧
  (∀ (s : State) (t : Task) (k : BitVec 3) (a : Reg), SemOpen s t →
      let v := (t.rd .a a).toNat
      let c := (s.ctx t.who.ctx).lookup v
      let fresh : Prop := v % 64 = 0 ∧ v < 2 ^ 57 ∧ c ≠ none ∧ (t.tok k.toNat).st ≠ .pending
      let asked (h : Hand) : SampReq :=
        { core := s.cur.core, bank := s.cur.bank, id := t.who.id, ctx := t.who.ctx, k := k, job := h.job, addr := t.rd .a a, spec := h.spec,
          lat := h.lat, sib := t.mem.group.map fun g => (g, t.mem.index), launch := t.who.launch, started := false, held := false, got := [],
          stage := 0 }
      (t.as.samp = none →
        (v % 64 ≠ 0 → exec (.samp k a) s = .next (trapHere s 3 3)) ∧
        (v % 64 = 0 → (2 ^ 57 ≤ v ∨ c = none) → exec (.samp k a) s = .next (trapHere s 3 4)) ∧
        (v % 64 = 0 → v < 2 ^ 57 → c ≠ none → (t.tok k.toNat).st = .pending → exec (.samp k a) s = .next (s.wait 1)) ∧
        (fresh →
          let h : Hand :=
            { engine := s.leastEngine, job := s.nextJob, spec := (s.ctx t.who.ctx).specCur.toNat, lat := decide (t.cls.cur < 2) }
          (∀ e < 8, s.queued h.engine ≤ s.queued e ∧ (e < h.engine → s.queued h.engine < s.queued e)) ∧
          ∃ s' u, exec (.samp k a) s = .next s' ∧ s'.here = some u ∧ s'.nextJob = s.nextJob + 1 ∧
            (u.tok k.toNat) = { st := .pending, errc := 0, done := 0, job := s.nextJob } ∧ u.a.regs = t.a.regs ∧
            (s.queued h.engine < 32 → s'.engine h.engine = s.engine h.engine ++ [asked h] ∧ u.a.pc = t.a.pc + 1 ∧ u.as.samp = none) ∧
            (32 ≤ s.queued h.engine → s'.sorrel = s.sorrel ∧ u.a.pc = t.a.pc ∧ u.as.samp = some h))) ∧
      ∀ h, t.as.samp = some h →
        (s.queued h.engine < 32 → exec (.samp k a) s = .next
          (finishA (s.putEngine h.engine (s.engine h.engine ++ [asked h])) (t.onA fun x => { x with samp := none }))) ∧
        (32 ≤ s.queued h.engine → exec (.samp k a) s = .next (s.putHere t).keep))

/-- 19 R419-R424: `ckpt.size`, a buffer too small for `ckpt`, an image stored, and the debugger's words; without debugging those
are PRIV.
The 5 cc of the replies are the model's choice (log 5), the place of `ckpt` in its group a reading (log 64). -/
def Obligations.DebugInstructions : Prop :=
  ∀ (s : State) (t : Task) (d a b : Reg), SemOpen s t →
    let gives (i : Instr) (v : Word) : Prop := exec i s = .next (finishA s (t.result .a d 5 v))
    let len := ((s.launchOf t).imgLay (t.ckptState d)).length
    let va := (t.rd .a a).toNat
    let g := s.target (some t.who.ctx) ((t.rd .a a).setWidth 32)
    gives (.ckptSize d) (BitVec.ofNat 64 len) ∧
    (s.copying t = false → t.settled = true →
      (va % 64 ≠ 0 → exec (.ckpt d a b) s = .next (trapHere s 3 3)) ∧
      (va % 64 = 0 → (t.rd .a b).toNat < len → gives (.ckpt d a b) 2) ∧
      ∀ s1, va % 64 = 0 → len ≤ (t.rd .a b).toNat →
        s.storeBytes s.cur.core t.who.ctx (cutBytes (ckptImage s (s.launchOf t) (t.ckptState d)).length va
          (ckptImage s (s.launchOf t) (t.ckptState d))) = .ok s1 →
        ∃ u : Task, exec (.ckpt d a b) s = .next (finishA s1 (u.result .a d 5 0)) ∧ { u with as := t.as } = t) ∧
    ((s.ctx t.who.ctx).debug = false → ∀ i ∈ [Instr.dbgSt d a, .dbgRd d a b, .dbgWr d a b, .dbgHalt a, .dbgGo a],
      exec i s = .next (trapHere s 6 0)) ∧
    ((s.ctx t.who.ctx).debug = true →
      gives (.dbgSt d a) (s.dbgStatus g) ∧ gives (.dbgRd d a b) (s.dbgRead g (dbgOff t b)) ∧
      exec (.dbgWr d a b) s = .next (finishHere (s.dbgStore g (dbgOff t b) (t.rd .a d))) ∧
      exec (.dbgHalt a) s = .next (finishHere (s.dbgStop g)) ∧ exec (.dbgGo a) s = .next (finishHere (s.dbgResume g)))

/-! ### Commands (15-19, 23, 25) -/

/-- 15 R316, R317: a reserved bit of a command's head that is not zero is STATUS 6, whatever the command.
15 R318: a command whose work has ended writes its completion record, when it asks for one, and leaves its queue; a launch that is
over completes with status 0 once the cores that ran it have written down their L1s. -/
def Obligations.CommandHeads : Prop :=
  (∀ (s : State) (c : Cmd), cmdHeadBad c = true →
      ∀ i ∈ [Instr.launch c, .replay c, .setgp c, .specdepth c, .fenceIb c, .wait c, .signal c, .slotfree c, .mapload c, .mapset c,
             .reserve c, .latepool c, .migrate c, .streamOpen c, .streamClose c, .streamUpdate c, .decode c, .groupOpen c, .groupClose c,
             .debug c, .ctxreset c, .attest c],
        exec i s = .next (s.ended 6)) ∧
  (∀ (s : State) (q : Nat) (x : CQueue) (r : Running), s.queue q = some x → x.run = some r →
      let sc := if scopeOk r.cmd.scope then cmdScope r.cmd else Scope.device
      (∀ k l, r.status = none → r.launch = some k → tfind s.fe.launches k = some l →
        let s1 := l.ran.foldl (fun s n => s.cleanL1 n sc fun _ => true) s
        (s.launchOver k = false → exec (.commandCompletion q) s = .next s) ∧
        (s.launchOver k = true → s1.stuckOwn sc x.ctx = false → r.cmd.caddr = 0 →
          exec (.commandCompletion q) s =
            .next (({ s1 with fe := { s1.fe with launches := tdel s1.fe.launches k } } : State).putQueue q (x.leave 0)))) ∧
      ∀ st, r.status = some st → r.launch = none → (st = 0x10 ∨ s.stuckOwn sc x.ctx = false) →
      (r.cmd.caddr = 0 → exec (.commandCompletion q) s = .next (s.putQueue q (x.leave st))) ∧
      (∀ s1, r.cmd.caddr ≠ 0 →
        s.writeRange x.ctx r.cmd.caddr.toNat (natBytes 8 r.cmd.seq.toNat ++ natBytes 8 st) = .ok s1 →
        exec (.commandCompletion q) s = .next ((if sc = .device then s1 else s1.flushPeers).putQueue q (x.leave st))))

/-- 15 R317, R331-R334; 18 R398; 19 R421: the commands of the front end, with their fields in order and their buffers read: what
each does, and its status.
15 R325, R326: a launch that starts: its ceiling is CEIL raised to BULK on a bulk queue, its class LAT that of the queue, its mask
and phase those of the command and the queue.
The checks of a LAUNCH done in one step are the model's choice (log 6), their order and the empty prefetch of FENCE_IB readings
(log 40, 46); bytes 20 to 23 of SLOTFREE and bits [31:23] of its entries are the model's choices (log 146, 131). -/
def Obligations.FrontEndCommands : Prop :=
  (∀ (s : State) (c : Cmd) (x : CQueue), s.queue s.fe.curq = some x → cmdHeadBad c = false →
      let n := x.ctx
      let tail := c.w5 = 0 ∧ c.w6 = 0 ∧ c.w7 = 0
      let reads (va k : Nat) (l : List Byte) : Prop := s.linesHeld n (sectorsOf va k) = false ∧ s.readRange none n va k = .bytes l
      (tail → c.a.toNat ≤ 63 →
        exec (.setgp c) s = .next ((s.onQueue s.fe.curq fun q => { q with gp := tset 0 q.gp c.a.toNat c.b }).ended 0)) ∧
      (tail → 63 < c.a.toNat → exec (.setgp c) s = .next (s.ended 6)) ∧
      (tail → c.a.toNat ≤ 15 → c.b = 0 →
        exec (.specdepth c) s = .next ((s.putCtx n { (s.ctx n) with specPend := c.a.setWidth 4 }).ended 0)) ∧
      (tail → c.a = 0 → c.b = 0 → exec (.fenceIb c) s = .next (s.ended 0) ∧ exec (.signal c) s = .next (s.ended 0)) ∧
      (∀ l, tail → c.a.toNat % 8 = 0 → reads c.a.toNat 8 l →
        exec (.wait c) s = .next (if c.b.toNat ≤ bytesNat l then s.ended 0 else s)) ∧
      (∀ l, tail → c.a.toNat % 8 = 0 → 0 < c.b.toNat → c.b.toNat ≤ 4096 → reads c.a.toNat (8 * c.b.toNat) l →
        let es := (bytesWords c.b.toNat l).map slotEntry
        (es.any fun e => e.rel || decide (768 ≤ e.core) || !s.inPod e.chip) = false → s.servedAny es = false → s.freeable es = true →
        ∃ s' : State, exec (.slotfree c) s = .next (s'.ended 0) ∧ s'.tasks = s.tasks ∧ s'.mem = s.mem ∧
          ∀ e ∈ es, e.chip = s.pod.chip.toNat → s'.sem e.core e.slot = Sem.zero ∧ e.slot ∈ (s'.core e.core).served) ∧
      (∀ l, tail → c.a.toNat % 8 = 0 → 0 < c.b.toNat → c.b.toNat ≤ 4096 → reads c.a.toNat (8 * c.b.toNat) l →
        let es := (bytesWords c.b.toNat l).map slotEntry
        (es.any fun e => e.rel || decide (768 ≤ e.core) || !s.inPod e.chip) = false → s.servedAny es = true →
        exec (.slotfree c) s = .next s) ∧
      (∀ l g, c.w6 = 0 → c.w7 = 0 → let count := c.b.toNat % 2 ^ 32; let np := c.b.toNat / 2 ^ 32
        0 < count → count ≤ 4096 → np ≤ 4096 → reads c.w5.toNat (8 * np) l → (bytesWords np l).any (patchBad count) = false →
        reads c.a.toNat 64 g →
        ∃ (s' : State) (y : CQueue) (r : Replay), exec (.replay c) s = .next s' ∧ s'.queue s.fe.curq = some y ∧ y.run = none ∧ y.replay = some r ∧ r.graph = c.a ∧
          r.count = count ∧ r.next = 0 ∧ r.patches = bytesWords np l ∧ r.snap = x.gp ∧ (s'.ctx n).specCur = (s.ctx n).specPend) ∧
      (∀ m, c.w7 = 0 → s.memberOf s.fe.curq x c = some m → s.imageChk n c.a.toNat c.b = .fine → s.siblingOver m = false →
        exec (.launch c) s = .next (s.startLaunch s.fe.curq x m c)) ∧
      (∀ m, c.w7 = 0 → s.memberOf s.fe.curq x c = some m → s.siblingOver m = true → exec (.launch c) s = .next (s.ended 0)) ∧
      (c.w7 = 0 → s.memberOf s.fe.curq x c = none → exec (.launch c) s = .next (s.ended 6)) ∧
      (∀ m st, c.w7 = 0 → s.memberOf s.fe.curq x c = some m → s.siblingOver m = false → s.imageChk n c.a.toNat c.b = .bad st →
        exec (.launch c) s = .next (({ s with fresh := s.fresh + 1 } : State).ended st)) ∧
      (tail → c.a = 1 → c.b = 0 → exec (.debug c) s = .next ((s.putCtx n { (s.ctx n) with debug := true }).ended 0)) ∧
      (tail → c.a = 0 → c.b = 0 → exec (.debug c) s = .next (((s.putCtx n { (s.ctx n) with debug := false }).debugOff n).ended 0))) ∧
  (∀ (s : State) (q : Nat) (x : CQueue) (m : Member) (c : Cmd),
      ∃ l : Launch, tfind (s.startLaunch q x m c).fe.launches s.fe.nextLaunch = some l ∧
        l.ceil = max (c.ceil.toNat % 4) (2 * x.bulk.toNat) ∧ l.lat = !x.bulk ∧ l.ctx = x.ctx ∧ l.queue = q ∧ l.mask = c.b ∧
        l.phase = x.phase ∧ l.mem = m)

/-- 16 R335-R337, R349, R355, R356, R358; 23 R467, R470; 25 R481: the commands of the physical function, and `attest`: the maps,
the reservation (a context that has ended takes no P before a reset), the late frames, a migration and its end, the reset of a
context, and the report of a nonce in bytes 16-23 of the command.
The order of the statuses is a reading (log 35), the destination's answer to a migration a free value (log 36), what a refused one
leaves a reading (log 127); the statuses of a MIGRATE of no movable extent or to its own chip, the own chip as a PEER target,
entries with VALID 0 and the report's unlisted bytes are the model's: log 151, 149, 150 and 139. -/
def Obligations.TableCommands : Prop :=
  ∀ (s : State) (c : Cmd) (x : CQueue), s.queue s.fe.curq = some x → cmdHeadBad c = false →
    let n := x.ctx
    let ctx := cmdCtx c
    let tail := c.w5 = 0 ∧ c.w6 = 0 ∧ c.w7 = 0
    let named := tail ∧ x.pf = true ∧ 1 ≤ ctx ∧ ctx ≤ 15
    let z := s.ctx ctx
    let reads (va k : Nat) (l : List Byte) : Prop := s.linesHeld n (sectorsOf va k) = false ∧ s.readRange none n va k = .bytes l
    let k := bits c.a 16 16
    let bare (t : Tab Entry) : Tab Entry := t.map fun e => (e.1, { e.2 with fmap := 0 })
    let idle : Prop := (∀ e ∈ s.tasks, e.2.who.ctx ≠ ctx) ∧ (∀ e ∈ s.fe.saved, e.2.task.who.ctx ≠ ctx) ∧
      (∀ e ∈ s.fe.launches, e.2.ctx = ctx → e.2.recs = [] ∧ e.2.wait = [] ∧ e.2.cond = []) ∧
      ∀ e ∈ s.fe.queues, e.2.ctx = ctx → e.2.outer = none ∧ (e.1 = s.fe.curq ∨ e.2.run = none)
    (∀ t : Tab Entry, bare ((s.newTable ctx t).ctx ctx).table = bare t) ∧
    (∀ l t, named → bits c.a 8 8 = 0 → bits c.a 32 32 = 0 → 1 ≤ k → k ≤ 4096 → c.b.toNat % 32 = 0 → reads c.b.toNat (32 * k) l →
      s.anyUnready (bytesWords (4 * k) l) = false → s.entriesOf 0 (bytesWords (4 * k) l) = some t → anyOverlap (t.map (·.2)) = false →
      (idle → exec (.mapload c) s = .next ((s.newTable ctx t).ended 0)) ∧
      (¬ idle → exec (.mapload c) s = .next (s.ended 0x21))) ∧
    (∀ l e, named → bits c.a 8 8 = 0 → bits c.a 32 32 = 0 → k ≤ 4095 → c.b.toNat % 32 = 0 → reads c.b.toNat 32 l →
      s.anyUnready (bytesWords 4 l) = false → s.entriesOf k (bytesWords 4 l) = some [(k, e)] →
      anyOverlap ((tins z.table k e).map (·.2)) = false →
      (idle ∨ liveChange (tfind z.table k) (some e) = true → exec (.mapset c) s = .next ((s.newTable ctx (tins z.table k e)).ended 0)) ∧
      (¬ idle → liveChange (tfind z.table k) (some e) = false → exec (.mapset c) s = .next (s.ended 0x21))) ∧
    (named → bits c.a 8 8 = 0 → bits c.a 40 24 = 0 → k ≤ 8192 → c.b = 0 →
      (s.otherResv ctx + k ≤ s.pageLimit → z.resident ≤ k → exec (.reserve c) s = .next ((s.putCtx ctx { z with
        resv := if z.ended then 0 else k, timeout := if bits c.a 32 8 = 0 then 100 else bits c.a 32 8,
        pool := if k = 0 then [] else z.pool }).ended 0)) ∧
      (s.pageLimit < s.otherResv ctx + k ∨ k < z.resident → exec (.reserve c) s = .next (s.ended 0x22))) ∧
    (∀ l, named → bits c.a 8 8 = 0 → bits c.a 32 32 = 0 → 1 ≤ k → k ≤ 4096 → reads c.b.toNat (8 * k) l →
      let fs := (bytesWords k l).map BitVec.toNat
      (fs.any fun f => s.unready f 65536) = false → (fs.any fun f => !s.poolFrame f) = false → z.pool.length + k ≤ 4096 →
      exec (.latepool c) s = .next ((s.putCtx ctx { z with pool := z.pool ++ fs }).ended 0)) ∧
    (∀ e, named → bits c.a 8 8 ≤ 63 → bits c.a 8 8 ≠ s.pod.chip.toNat → k ≤ 4095 → 1 ≤ bits c.a 32 8 → bits c.a 32 8 ≤ 15 →
      bits c.a 40 24 = 0 → tfind z.table k = some e → ¬ (ctx, k) ∈ s.pod.moving → e.kind = .unbacked → s.routed (bits c.a 8 8) = true →
      ∃ (s' : State) (e' : Entry), exec (.migrate c) s = .next s' ∧ (ctx, k) ∈ s'.pod.moving ∧ tfind (s'.ctx ctx).table k = some e' ∧ e'.kind = .migrating ∧
        e'.vbase = e.vbase ∧ e'.target = e.target) ∧
    (∀ e, named → bits c.a 8 8 ≤ 63 → bits c.a 8 8 ≠ s.pod.chip.toNat → k ≤ 4095 → 1 ≤ bits c.a 32 8 → bits c.a 32 8 ≤ 15 →
      bits c.a 40 24 = 0 → tfind z.table k = some e → (ctx, k) ∈ s.pod.moving →
      ∃ (s' : State) (st : Nat) (e' : Entry), exec (.migrate c) s = .next (s'.ended st) ∧ (st = 0 ∨ st = 0x23) ∧ ¬ (ctx, k) ∈ s'.pod.moving ∧
        tfind (s'.ctx ctx).table k = some e' ∧ (st = 0 → e'.kind = .peer ∧ chipOf e'.target = bits c.a 8 8) ∧
        (st = 0x23 → e.kind = .migrating → e'.kind = .unbacked)) ∧
    (tail → x.pf = true → c.b = 0 → 1 ≤ c.a.toNat → c.a.toNat ≤ 15 →
      exec (.ctxreset c) s = .next ((s.resetCtx c.a.toNat (some s.fe.curq)).ended 0) ∧
        (s.resetCtx c.a.toNat (some s.fe.curq)).ctx c.a.toNat = Ctx.zero) ∧
    (x.pf = false → ∀ i ∈ [Instr.mapload c, .mapset c, .reserve c, .latepool c, .migrate c, .ctxreset c], exec i s = .next (s.ended 6)) ∧
    (∀ nonce s1, c.a = 0 → c.w5.toNat % 64 = 0 → 3885 ≤ c.w6.toNat → c.w6.toNat < 2 ^ 32 → c.w7 = 0 → reads c.b.toNat 32 nonce →
      s.linesHeld n (sectorsOf c.w5.toNat (s.report n nonce).length) = false →
      s.writeRange n c.w5.toNat (s.report n nonce) = .ok s1 → exec (.attest c) s = .next (s1.ended 0))

/-- 17 R363-R366, R381; 18 R397, R399, R405: streams opened, updated and closed, pictures decoded, groups opened and closed. An
open checks its fields, then attaches its slots one after another, undoes them after a refusal, and gives the group its GID.
How a refused attach is undone is the model's choice (log 61). What a picture decodes to is a free value (log 7 and 55), when a
decoder reads a reading (log 124). -/
def Obligations.StreamAndGroupCommands : Prop :=
  ∀ (s : State) (c : Cmd) (x : CQueue), s.queue s.fe.curq = some x → cmdHeadBad c = false →
    let n := x.ctx
    let k := streamId c
    let reads (va m : Nat) (l : List Byte) : Prop := s.linesHeld n (sectorsOf va m) = false ∧ s.readRange none n va m = .bytes l
    (∀ l e, streamCmdBad s c true = false → tfind s.streams k = none → reads c.b.toNat 640 l →
      let d := sdescOf (listRd l)
      d.bad s n (flagsBad (listRd l)) = false → s.streamQueueBad n d.queue = false → s.encoderFor d = some e →
      ∃ (s' : State) (st : Stream), exec (.streamOpen c) s = .next (s'.ended 0) ∧ tfind s'.streams k = some st ∧ st.ctx = n ∧ st.desc = d ∧ st.next = 0 ∧
        st.rung = d.rstart ∧ st.enc = e ∧ st.frames = [] ∧ st.kv = []) ∧
    (streamCmdBad s c true = false → tfind s.streams k ≠ none → exec (.streamOpen c) s = .next (s.ended 0x30)) ∧
    (∀ st, streamCmdBad s c false = false → s.ownStream k = some st → st.frames = [] → st.tick = none →
      ∃ s' : State, exec (.streamClose c) s = .next (s'.ended 0) ∧ tfind s'.streams k = none) ∧
    (∀ st, streamCmdBad s c false = false → s.ownStream k = some st → st.frames ≠ [] →
      ∃ s' : State, exec (.streamClose c) s = .next s' ∧ tfind s'.streams k = some { st with closing := true }) ∧
    (∀ l st, streamCmdBad s c true = false → s.ownStream k = some st → reads c.b.toNat 640 l →
      let d := sdescOf (listRd l)
      d.bad s st.ctx (flagsBad (listRd l)) = false → d.fixed = st.desc.fixed →
      exec (.streamUpdate c) s = .next (({ s with streams := tins s.streams k { st with update := some d } } : State).ended 0)) ∧
    (∀ l, c.w7 = 0 → c.b.extractLsb' 40 24 = 0 → (c.b.extractLsb' 32 8).toNat ≤ 2 → reads c.a.toNat (c.b.toNat % 2 ^ 32) l →
      tfind s.decoders s.fe.curq = none → (s.decoders.filter fun e => !e.2.held).length < 4 →
      let o : BlockJob := { key := s.fresh, stage := 0, tick := s.dt.toNat, held := false, src := l }
      exec (.decode c) s = .next { s with fresh := s.fresh + 1, decoders := tins s.decoders s.fe.curq o }) ∧
    (∀ o, c.w7 = 0 → c.b.extractLsb' 40 24 = 0 → (c.b.extractLsb' 32 8).toNat ≤ 2 → tfind s.decoders s.fe.curq = some o → o.stage = 0 →
      let codec := (c.b.extractLsb' 32 8).toNat
      let lost := match Config.decoded o.key codec o.src with
        | none => true
        | some p => decide (p.w = 0 ∨ p.h = 0 ∨ 3840 < p.w ∨ 2160 < p.h ∨ (p.deep = true ∧ codec = 2))
      (lost = true → exec (.decode c) s = .next (s.ended 0x33)) ∧
      ∀ p s1 s2, lost = false → Config.decoded o.key codec o.src = some p → s.blockPut n 0 c.w6.toNat (p.work.take (6 * p.w * p.h)) = .made s1 →
        s1.blockPut n 0 c.w5.toNat (pictureTiles p p.deep) = .made s2 → exec (.decode c) s = .next (s2.ended 0)) ∧
    (∀ l, let gid := bits c.a 0 16
     let m := bits c.a 16 8
     let ids := pfxIds (bits c.a 32 16) l
     let pst := bits c.w7 0 32
     let aq := bits c.a 24 8
     let opens0 := tins s.opens s.fe.curq (Attach.mk gid aq m (ids.map (BitVec.ofNat 22)) 0 0 false)
     bits c.a 56 8 = 0 → bits c.w7 32 32 = 0 →
     (tfind s.opens s.fe.curq = none → gid < 1024 → s.groupOf gid = none → 1 ≤ m → m ≤ 32 → bits c.a 32 16 ≤ 256 →
       2 ≤ bits c.a 48 8 → bits c.a 48 8 ≤ 4 → c.b.toNat % 64 = 0 → c.w5.toNat % 65536 = 0 → c.w6.toNat % 4 = 0 → 1 ≤ pst → pst ≤ 65536 →
       s.aqBad n aq = false → s.rangeOut n c.w5.toNat (65536 * pst * m) = false → s.areaBad n c.b.toNat 320 = false →
       s.opening s.fe.curq gid aq = false → reads c.w6.toNat (4 * bits c.a 32 16) l → (∀ v ∈ ids, s.pfxBad n v = false) →
       exec (.groupOpen c) s = .next { s with fresh := s.fresh + 1, opens := opens0 }) ∧
     (tfind s.opens s.fe.curq = none → gid < 1024 → s.groupOf gid ≠ none → exec (.groupOpen c) s = .next (s.ended 0x40)) ∧
     ∀ a, tfind s.opens s.fe.curq = some a →
       (a.out ≠ 0 → exec (.groupOpen c) s = .next s) ∧
       (∀ id, a.out = 0 → a.undo = false → a.ids[a.made]? = some id → idChip id = s.pod.chip.toNat →
         ∃ (s' : State) (x : SemMsg), exec (.groupOpen c) s = .next s' ∧ tfind s'.opens s.fe.curq = some { a with out := 1 } ∧
           (s'.core (idCore id)).inbox = (s.core (idCore id)).inbox ++ [x] ∧ x.slot = idSlot id ∧ x.ctx = n ∧
           x.op = .faddLive 0 (BitVec.ofNat 32 a.n) ∧ x.src = .attach s.fe.curq ∧ s'.groups = s.groups) ∧
       (a.out = 0 → a.undo = false → a.made = a.ids.length →
         ∃ (s' : State) (key : Nat) (g : Group), exec (.groupOpen c) s = .next (s'.ended 0) ∧ tfind s'.groups key = some g ∧ key % 1024 = gid ∧
           g.ctx = n ∧ g.n = m ∧ g.record = c.b ∧ g.sibs = List.replicate m Sib.zero ∧ g.winner = none ∧ g.slots = a.ids) ∧
       (a.out = 0 → a.undo = true → a.made = 0 → exec (.groupOpen c) s = .next (s.ended 0x42)) ∧
       (a.out = 0 → a.undo = true → a.made ≠ 0 → ∃ s' : State, exec (.groupOpen c) s = .next s' ∧
         tfind s'.opens s.fe.curq = some { a with out := a.made, made := 0 } ∧
         s' = (a.ids.take a.made).foldl (fun s id => s.attachOp s.fe.curq (.add (0 - BitVec.ofNat 32 a.n)) id)
           { s with opens := tins s.opens s.fe.curq { a with out := a.made, made := 0 } })) ∧
    (∀ (a : Attach) (d : Nat) (v : BitVec 32), a.undo = false →
      a.answered (some (d, v)) = if v = 0xFFFFFFFF then { a with out := 0, undo := true } else { a with out := 0, made := a.made + 1 }) ∧
    (∀ key g, c.w5 = 0 → c.w6 = 0 → c.w7 = 0 → bits c.a 16 48 = 0 → c.b = 0 → bits c.a 0 16 < 1024 → s.groupOf (bits c.a 0 16) = some (key, g) →
      g.ctx = n → g.closed = none → ¬ s.fe.curq ∈ g.closing →
      ∃ (s' : State) (g' : Group), exec (.groupClose c) s = .next s' ∧ tfind s'.groups key = some g' ∧ s.fe.curq ∈ g'.closing ∧ g'.closed = none)

/-! ### Events of tasks, groups, streams and the sampler (11, 15-19) -/

/-- 11 R291; 15 R323-R328; 19 R417: a waiting record enters its queue when an entry that its depth may take is free, before a
later one of its stage; a bank that may be taken is empty, its cluster on, and beside it stands no exclusive task and none with
which it would need more than 112 registers; a launch that holds its cores places what it dispatches first, a record or a state,
into the first bank that the order of R326 allows, where it stands with its pc, its registers and the windows of that bank, taking
registers of a halted task beside it alone; a saved task that is ready is restored into such a bank; and the stage balancer moves
a core of a launch to another stage of it at most.
What a launch holds while it waits and the banks it may take are readings: log 48 and 49. -/
def Obligations.TaskPlacement : Prop :=
  ∀ (s : State) (n k : Nat) (l : Launch),
    let stood (s' : State) (p : Nat × Nat × Bool) (v : Saved) : Prop := ∃ u : Task, s'.task p.1 p.2.1 = some u ∧
      u.who.ctx = v.task.who.ctx ∧ u.who.launch = v.task.who.launch ∧ u.a.pc = v.task.a.pc ∧ u.a.regs = v.task.a.regs ∧ u.x = v.task.x ∧
      u.acc = v.task.acc ∧ u.rows = v.task.rows ∧ u.win = (l.stage v.task.who.stage).windows p.2.1 ∧
      ∀ m, m ≠ p.1 * 2 + p.2.1 → tfind s'.tasks m = tfind s.tasks m ∨
        (m = p.1 * 2 + (1 - p.2.1) ∧ ∃ o o' : Task, tfind s.tasks m = some o ∧ o.susp.isSome = true ∧ o.evict.isSome = true ∧
          tfind s'.tasks m = some o' ∧ { o' with xs := { o'.xs with slots := o.xs.slots }, evict := o.evict } = o)
    (∀ (stage : Nat) (pre post : List Record) (r : Record) (e : Option Nat), tfind s.fe.launches n = some l → l.wait = pre ++ r :: post →
      r.stage = stage → (∀ q ∈ pre, q.stage = stage → l.entryFor stage q.depth = none) → l.entryFor stage r.depth = some e →
      exec (.recordAdmission n stage) s =
        .next (s.putLaunch n { l with recs := l.recs ++ [{ r with entry := e }], wait := pre ++ post })) ∧
    (∀ stage, ∀ p ∈ s.places l stage, s.task p.1 p.2.1 = none ∧ (s.cluster (clusterOf p.1)).on = true ∧
      ∀ u : Task, s.task p.1 (1 - p.2.1) = some u → u.who.excl = false ∧ (l.stage stage).excl = false ∧
        (l.stage stage).n + (if u.leaving then 0 else u.who.n) ≤ 112) ∧
    (let g := s.grantAll
     tfind g.fe.launches n = some l → (g.ctx l.ctx).term = none → g.fen.frozen = false → l.gang = false → l.granted = true →
      ∀ j ks p ps, (match g.fe.pick with | some j => [j] | none => g.stageOrder n l) = j :: ks → g.places l j = p :: ps →
        (∀ r : Record, g.nextFor n l j = some (.rec_ r) →
          exec (.taskDispatch n) s = .next (g.placeRecord p.1 p.2.1 p.2.2 n l r) ∧
          ∃ (u : Task) (y : Launch), (g.placeRecord p.1 p.2.1 p.2.2 n l r).task p.1 p.2.1 = some u ∧ u.who.id = s.fe.nextTask ∧ u.who.ctx = l.ctx ∧
            u.who.launch = n ∧ u.who.stage = r.stage ∧ u.who.depth = r.depth ∧ u.who.join = r.join ∧ u.a.pc = r.pc ∧
            u.a.regs = r.vals.foldl (fun m e => tset 0 m e.1 e.2) [] ∧ u.win = (l.stage r.stage).windows p.2.1 ∧
            tfind (g.placeRecord p.1 p.2.1 p.2.2 n l r).fe.launches n = some y ∧ y.recs = l.recs.erase r) ∧
        (∀ (i : Nat) (v : Saved), g.nextFor n l j = some (.state i) → tfind g.fe.saved i = some v → v.launch = n →
          v.task.who.pin = none →
          exec (.taskDispatch n) s = .next (g.placeSaved p.1 p.2.1 p.2.2 i v) ∧ stood (g.placeSaved p.1 p.2.1 p.2.2 i v) p v)) ∧
    (∀ (v : Saved) (p : Nat × Nat × Bool) (ps : List (Nat × Nat × Bool)), tfind s.fe.saved k = some v → tfind s.fe.launches v.launch = some l →
      v.ready = true → v.halt = none → l.granted = true → (s.ctx l.ctx).term = none → s.fen.frozen = false → v.task.who.pin = none →
      s.places l v.stage = p :: ps →
      exec (.taskRestore k) s = .next (s.placeSaved p.1 p.2.1 p.2.2 k v) ∧ stood (s.placeSaved p.1 p.2.1 p.2.2 k v) p v) ∧
    ∃ s', exec .stageBalancer s = .next s' ∧ s'.tasks = s.tasks ∧ s'.mem = s.mem ∧
      ∀ m x, tfind s.fe.launches m = some x → ∃ y, tfind s'.fe.launches m = some y ∧ y.cores.map Prod.fst = x.cores.map Prod.fst

/-- 11 R292, R295; 03 R52; 19 R410-R413, R416: a task whose strands have ended and whose work is done leaves its bank, which
becomes empty; the picker changes the issuing bank exactly where it prefers the standby; a save first asks the task to stop, and
once it has stopped, with what it issued complete, its state leaves the bank for the save area.
19 R412, R413: the plain writes that the stop of a bank leaves in its shadow have their NEW values: once their perform cycle is
the coming one, they are in the registers, and the shadow has no entry of them.
The save in one step is the model's choice: log 6. -/
def Obligations.TaskBanks : Prop :=
  (∀ (s : State) (t : Task), s.here = some t →
      (t.drained = true → t.who.join = none →
        ∃ s', exec .taskRetirement s = .next s' ∧ s'.here = none ∧ (∀ m, m ≠ s.cur.key → tfind s'.tasks m = tfind s.tasks m) ∧
          ((s.core s.cur.core).l1 = [] → s'.mem = s.mem) ∧ (s'.core s.cur.core).switching = true) ∧
      (s.prefers s.cur.core = true → ∃ s', exec .bankSwitch s = .next s' ∧ (s'.core s.cur.core).bank = 1 - (s.core s.cur.core).bank ∧
        (s'.core s.cur.core).switching = false ∧ s'.mem = s.mem) ∧
      (s.prefers s.cur.core = false → ∃ s', exec .bankSwitch s = .next s' ∧ (s'.core s.cur.core).bank = (s.core s.cur.core).bank ∧
        (s'.core s.cur.core).switching = false ∧ s'.tasks = s.tasks) ∧
      (t.susp = none → t.stop = none → t.retiring = false → exec .taskSave s = .next (s.putHere { t with stop := some .halted })) ∧
      (t.susp = some .halted → t.settled = true → s.jobs = [] →
        ∃ s' v, exec .taskSave s = .next s' ∧ s'.here = none ∧ (∀ m, m ≠ s.cur.key → tfind s'.tasks m = tfind s.tasks m) ∧
          tfind s'.fe.saved s.fe.nextSaved = some v ∧ (let u := ({ t with susp := none } : Task).reachStop
            v.task.a = u.a ∧ v.task.x = u.x ∧ v.task.acc = u.acc ∧ v.task.rows = u.rows ∧ v.task.xs.mrows = u.xs.mrows ∧ v.task.aq.items.map QEntry.v = t.aq.items.map QEntry.v ∧
            v.task.xq.items.map QEntry.v = t.xq.items.map QEntry.v ∧ v.task.bq.items.map QEntry.v = t.bq.items.map QEntry.v ∧
            ∀ q ∈ [v.task.aq, v.task.xq, v.task.bq], (∀ e ∈ q.items, e.at_ = 0) ∧ q.popped = 0) ∧
          v.ready = true ∧ v.launch = t.who.launch ∧ v.from_ = some s.cur.core) ∧
      exec .shadowEntryPerform s = .next (s.putHere t.reachStop)) ∧
  (∀ (t : Task) (f : Flight) (r : Nat) (v : Word), t.xs.flights = [f] → f.kind = .sreg r v →
      (f.lat ≤ f.age + 1 → t.reachStop.xs.flights = [] ∧ (0 < r → r < 64 → t.reachStop.rd .x (BitVec.ofNat 6 r) = v)) ∧
      (f.age + 1 < f.lat → t.reachStop.xs.flights = [f] ∧ ∀ q, t.reachStop.rd .x q = t.rd .x q))

/-- 16 R344, R345, R350, R351: an allocating access binds its page: RESIDENT on the lowest free frame while its context has room,
else LATE on the head of the pool, zeroed, where its extent allows it, else BACK 0x03, or 0x04 on an empty pool; residency given
to a page is that access; F2 resolves every pending fault whose condition no longer stands; and a fault older than its context's
timeout terminates it. -/
def Obligations.BackingEvents : Prop :=
  ∀ (s : State) (ctx va k : Nat) (e : Entry) (s1 : State),
    (∀ page : Nat, let c := s.ctx ctx
      c.extentOf page = some e →
      let held (f : Nat) : Prop := ∃ x ∈ s.ctxs, ∃ y ∈ x.2.pages, y.2 = .resident f
      let free (f : Nat) : Prop := f < 12288 ∧ ¬ held f ∧ s.withdrawn f = false
      let room : Prop := c.resident < c.resv ∧ (e.rcap = 0 ∨ c.residentIn e < e.rcap)
      (∀ f, room → free f → (∀ g < f, ¬ free g) → ∃ s2 : State, s.allocPage ctx page = .done s2 ∧ s2.page ctx page = .resident f ∧
        (∀ q, q ≠ page → s2.page ctx q = s.page ctx q) ∧ (s2.ctx ctx).pool = c.pool) ∧
      ((¬ room ∨ ∀ f, ¬ free f) →
        (e.late = false → s.allocPage ctx page = .beyond 3) ∧
        (e.late = true → c.pool = [] → s.allocPage ctx page = .beyond 4) ∧
        ∀ p rest, e.late = true → c.pool = p :: rest → (∀ x ∈ c.pool, ¬ x ∈ s.nv.retired) →
          (s.noFrame p = false → s.noFrame (p + 65535) = false → ∃ s2 : State, s.allocPage ctx page = .done s2 ∧
            s2.page ctx page = .late p ∧ (∀ q, q ≠ page → s2.page ctx q = s.page ctx q) ∧ (s2.ctx ctx).pool = rest ∧
            (s2.ctx ctx).late = c.late + 1 ∧ (∀ b, p ≤ b → b < p + 65536 → memByte s2.mem b = 0) ∧
            ∀ i, p / 32 ≤ i → i < p / 32 + 2048 → tfind s2.l2 i = none) ∧
          (s.noFrame p = true ∨ s.noFrame (p + 65535) = true → s.allocPage ctx page = .hole))) ∧
    ((s.ctx ctx).lookup va = some (k, e) → s.bindFor ctx (s.paOf e va) e = .done s1 → exec (.residencyAllocate ctx va) s = .next s1) ∧
    ((∀ f ∈ (s.ctx ctx).faults, s.stillBack ctx f = true) → ∃ s', exec (.backfaultResolved ctx) s = .next s' ∧ s'.ctx ctx = s.ctx ctx ∧
      s'.tasks = s.tasks ∧ s'.jobs = s.jobs) ∧
    (∀ (f : BFault) (t : Task) (sub : BitVec 8), (s.ctx ctx).faults = [f] → s.stillBack ctx f = false → f.job = none → f.sub = sub →
      s.task f.core f.bank = some t → t.who.id = f.id → t.susp = some (.back sub) →
      ∃ s', exec (.backfaultResolved ctx) s = .next s' ∧ (s'.ctx ctx).faults = [] ∧
        s'.task f.core f.bank = some { t with susp := none, point := true }) ∧
    (∀ f : BFault, (s.ctx ctx).faults.find? (fun f => decide ((s.ctx ctx).timeout * 1300000 ≤ s.dt.toNat - f.at_)) = some f → ∃ r : FaultRec,
      r.code = 4 ∧ r.sub = BitVec.ofNat 8 f.sub.toNat ∧ r.task = f.id ∧ r.core = f.core ∧ r.bank = f.bank ∧
      exec (.backfaultTimeout ctx) s = .next (s.terminate ctx r)) ∧
    ((∀ f ∈ (s.ctx ctx).faults, s.dt.toNat - f.at_ < (s.ctx ctx).timeout * 1300000) → exec (.backfaultTimeout ctx) s = .next s)

/-- 18 R401, R404-R406: Shallot applies the first post of those whose context it does not hold and replies to its task; a release
of a cancelled sibling of which nothing is left starts at its tick, once; a group whose siblings have all ended closes, with an
add of 0xFFFFFFFF on each prefix slot for each POSTED sibling, and its record is published once these adds have performed, after
which the GID is free; a group in which one still runs stays open.
18 R400, R401: the outcome of a post: a member index beyond the group is status 1, a closed group or a cancelled sibling 3, a
second post 2; an accepted post makes the sibling POSTED with its hash and tick, and the first quorum makes its hash the winner;
the word returned is the status, the votes of the hash after the post from bit 8 on, and from bit 16 on the group's state, 2
CLOSED, 1 DECIDED or 0 OPEN.
When a sibling is tested and how long its release takes are the model's choices: log 62 and 63. -/
def Obligations.GroupEvents : Prop :=
  (∀ (s : State),
      (s.posts = [] → exec .ballotApply s = .next s) ∧
      (∀ (p : Post) (t : Task), firstPost s.openPosts = some p → s.task p.core p.bank = some t → t.who.id = p.id →
        let s1 : State := { s with posts := s.posts.erase p }
        (t.mem.group = none → exec .ballotApply s = .next (s1.onTaskId p.id fun t => t.postReply p 1)) ∧
        ∀ key, t.mem.group = some key → let r := s1.applyPost p key t.mem.index
          exec .ballotApply s = .next (r.2.onTaskId p.id fun t => t.postReply p r.1)) ∧
      (∀ (gid i key : Nat) (g : Group) (b : Sib), s.groupOf gid = some (key, g) → g.sibs[i]? = some b → s.shallotHeld g.ctx = false →
        (b.st ≠ .cancelled ∨ b.release.isSome = true ∨ s.sibBusy key i = true → exec (.siblingRelease gid i) s =
          .next (s.putGroup key { g with sibs := g.sibs.set i { b with test := false } })) ∧
        (b.st = .cancelled → b.release = none → s.sibBusy key i = false →
          ∃ s' b', exec (.siblingRelease gid i) s = .next s' ∧ tfind s'.groups key = some { g with sibs := g.sibs.set i b' } ∧
            b'.release = some s.dt.toNat ∧ b'.st = .cancelled)) ∧
      (∀ (gid key : Nat) (g : Group), s.groupOf gid = some (key, g) → g.closed = none → (s.ctx g.ctx).term = none →
        s.shallotHeld g.ctx = false → s.addsOut g.ctx = false →
        (g.finished s.dt.toNat = false → exec (.groupRecord gid) s = .next s) ∧
        (g.finished s.dt.toNat = true → let g1 := { g with closed := some s.dt.toNat }
          ∃ s1 : State, exec (.groupRecord gid) s = .next (if s1.addsOut g.ctx then s1 else s1.publishGroup key g1) ∧
            tfind s1.groups key = some g1 ∧ s1.tasks = s.tasks ∧ s1.mem = s.mem ∧
            ((∀ v ∈ g.slots, idChip v = s.pod.chip.toNat) → ∀ n, (s1.core n).inbox.length = (s.core n).inbox.length +
              (g.sibs.countP fun b => b.st == .posted) * (g.slots.countP fun v => idCore v == n)))) ∧
      (∀ (gid key : Nat) (g : Group), s.groupOf gid = some (key, g) → (s.ctx g.ctx).term = none →
        (s.addsOut g.ctx = true → exec (.groupRecord gid) s = .next s) ∧
        (s.addsOut g.ctx = false → g.closed.isSome = true → s.shallotHeld g.ctx = false →
          exec (.groupRecord gid) s = .next (s.publishGroup key g))) ∧
      ∀ (key : Nat) (g : Group) (a b : State), g.stage = 0 → s.blockPut g.ctx 0 (g.record.toNat + 8) g.bytes = .made a →
        a.blockPut g.ctx 0 g.record.toNat (natBytes 8 g.seq.toNat) = .made b →
        tfind (s.publishGroup key g).groups key = none ∧
          (s.publishGroup key g).mem = (if g.gscope = 3 ∨ g.gscope = 4 then b.flushPeers else b).mem) ∧
  (∀ (s : State) (p : Post) (key i : Nat) (g : Group) (b : Sib), tfind s.groups key = some g →
      let votes (g : Group) : Nat := g.sibs.countP fun b => decide (b.st = .posted ∧ b.hash = p.hash)
      let word (st : Nat) (g : Group) : Nat :=
        st + 2 ^ 8 * votes g + 2 ^ 16 * (if g.closed ≠ none then 2 else if g.winner ≠ none then 1 else 0)
      (g.sibs[i]? = none → s.applyPost p key i = (word 1 g, s)) ∧
      (g.sibs[i]? = some b → g.closed.isSome = true ∨ b.st = .cancelled → s.applyPost p key i = (word 3 g, s)) ∧
      (g.sibs[i]? = some b → g.closed = none → b.st = .posted → s.applyPost p key i = (word 2 g, s)) ∧
      (g.sibs[i]? = some b → g.closed = none → b.st = .running →
        let g1 := { g with sibs := g.sibs.set i { b with st := .posted, hash := p.hash, tick := p.tick } }
        (g.winner.isSome = true ∨ votes g1 ≤ g.n / 2 → s.applyPost p key i = (word 0 g1, s.putGroup key g1)) ∧
        (g.winner = none → g.n / 2 < votes g1 → let g2 := { g1 with winner := some (p.hash, p.tick) }
          s.applyPost p key i = (word 0 g2, (s.putGroup key g2).cancelRunning key g2 1))))

/-- 17 R367-R369, R371, R376: before its tick no frame starts; a frame whose ring slot the host has not freed is passed over, with
COUNT 0, and one whose deadline has passed is too, with its record written; the frame after it, if it is due, is looked at for the
same tick; another starts, with the stream's next number, the queue's PHASE advanced and its graph run as a REPLAY; the encoder
reads one tile of the lowest frame that is not complete and CREDIT gains 1; of a whole frame the reference store and the
bitstream, cut at SLOTBYTES, are written, and it is complete; then its record, with START, DONE, ENDSLACK and its flags, and SEQ
are written, and it leaves.
18 R382, R394, R395: an engine without a request does nothing; where none is held, the one that it runs next is a latency-class
one, else the first; one whose descriptor cannot be read ends with the record of BADREQ or DATAERR where its RESULT can be read
and written, else with ERRC 5 and no record; one that is read is served: with its result area outside it ends with ERRC 5, outside
its limits with BADREQ, and else with what its pipeline gives; and the record's bytes and then SEQ are written before the token
takes its outcome.
The bytes of the codecs are free values (log 7, 55); that the ring slot is tested before the deadline is a reading (log 31), as
are the next frame's turn in the same tick (log 133) and a descriptor of which a part cannot be read (log 132). -/
def Obligations.StreamEvents : Prop :=
  (∀ (s : State) (k : Nat) (st : Stream), tfind s.streams k = some st → st.tick = none →
      let d := st.desc
      let u := s.dt.toNat
      let slot (n : Nat) := n % d.rslots
      let slack (n : Nat) : List Byte := natBytes 8 (BitVec.ofInt 64 ((d.due n : Int) - u)).toNat
      (∀ x : CQueue, s.queue d.queue = some x → u < d.start st.next → exec (.frameStart k) s = .next s) ∧
      (∀ (x : CQueue) (l : List Byte), s.queue d.queue = some x → st.closing = false → st.begun = none → s.fen.frozen = false → s.chardHeld k st = false →
        (s.ctx st.ctx).term = none → x.run = none → x.outer = none → x.error = false → d.start st.next ≤ u →
        s.readRange none st.ctx d.ring 8 = .bytes l →
        let past (ovr : Nat) : Stream := { st with
          next := st.next + 1, count := 0, early := [], descs := st.descs.filter fun e => e.frame != st.next, overrun := ovr, held := false,
          tick := if d.start (st.next + 1) ≤ u then some u else none }
        let passed (s : State) (ovr : Nat) : State :=
          let s1 := s.putStream k (past ovr)
          if d.start (st.next + 1) ≤ u then { s1 with turn := .event { cur := s1.cur, job := s1.job, i := .frameStart k } :: s1.turn } else s1
        (bytesNat l + d.rslots ≤ st.next → exec (.frameStart k) s = .next (passed s (st.overrun + 1))) ∧
        (st.next < bytesNat l + d.rslots → d.due st.next ≤ u →
          let rec_ := natBytes 8 st.next ++ natBytes 4 0 ++ [1] ++ natBytes 1 st.rung ++ [0, 0] ++ natBytes 8 0 ++ natBytes 8 u ++ slack st.next ++ natBytes 16 0
          ∀ a b : State, s.blockPut st.ctx 0 (d.ring + 64 + 64 * slot st.next + 8) rec_ = .made a →
          a.blockPut st.ctx 0 (d.ring + 64 + 64 * slot st.next) (natBytes 8 (st.next + 1)) = .made b →
          exec (.frameStart k) s = .next (passed (b.released d) st.overrun)) ∧
        (st.next < bytesNat l + d.rslots → u < d.due st.next → ∃ (b : Stream) (f : Frame), exec (.frameStart k) s = .next (s.startFrame k b f x) ∧
          f.n = st.next ∧ f.start = u ∧ f.last = 0 ∧ b.frames = st.frames ∧ b.ctx = st.ctx ∧
          ∀ a, s.blockPut b.ctx 0 b.desc.wtab (b.wtab.flatMap fun w => natBytes 8 w.toNat) = .made a →
            ∃ (z : Stream) (y : CQueue) (r : Running), tfind (s.startFrame k b f x).streams k = some z ∧ z.next = st.next + 1 ∧
              z.frames = st.frames ++ [f] ∧ z.early = [] ∧ (s.startFrame k b f x).queue d.queue = some y ∧ y.phase = x.phase + 1 ∧
              tget 0 y.gp 56 = BitVec.ofNat 64 st.next ∧ y.run = some r ∧ r.op = 2 ∧ r.status = none ∧ r.launch = none ∧
              r.frame = some (k, BitVec.ofNat 64 st.next))) ∧
      (∀ (f : Frame) (fs : List Frame) (e : TDesc), st.live = f :: fs → st.descs.find? (fun e => e.frame == f.n) = some e →
        let vas := sectorsOf (d.eqbase + 12288 * e.slot) 12288
        (s.ctx st.ctx).term = none → s.encHeld st = false → s.linesHeld st.ctx vas = false → firstCond (s.secConds st.ctx .rd vas) = none →
        exec (.encoderTileRead k) s = .next (((s.dropTile st e.slot).putStream k
            { st with frames := st.frames.map fun g => if g.n == f.n then { f with read := f.read + 1 } else g, descs := st.descs.erase e }).sendSem
            { src := .block (19 + st.enc), core := 0xFFFF, bank := 0, id := 0, pc := 0, ctx := st.ctx, slot := 0, op := .add 1, own := false, due := 0 }
            d.credit)) ∧
      (∀ (f : Frame) (fs : List Frame), st.live = f :: fs → (st.whole f = false → exec (.frameComplete k) s = .next s) ∧
        (st.whole f = true → s.encodesFirst k st f = false → (s.ctx st.ctx).term = none → f.out = none →
          let codec := [k, f.n, s.fresh]
          let out := Config.bitstream codec
          ∀ a b : State,
            ({ s with fresh := s.fresh + 1 } : State).blockPut st.ctx 0 d.refb ((Config.references codec).take (6 * d.area)) = .made a →
            a.blockPut st.ctx 0 (d.ring + 8192 + d.slotbytes * slot f.n) (out.take d.slotbytes) = .made b →
            ∃ y : Stream, exec (.frameComplete k) s = .next (b.putStream k y) ∧ y.next = st.next ∧ y.trunc = decide (d.slotbytes < out.length) ∧
              y.count = (if (d.rise : Int) < (d.due f.n : Int) - u ∧ f.dropped = false then st.count + 1 else 0) ∧
              y.frames = st.frames.map fun g => if g.n == f.n then
                { f with out := some { key := s.fresh, stage := 2, tick := u, held := false, src := [] }, after := st.trunc } else g)) ∧
      (∀ (f : Frame) (fs : List Frame) (o : BlockJob), st.frames = f :: fs → f.out = some o → o.stage = 2 → o.held = false → st.held = false →
        s.chardHeld k st = false → (s.ctx st.ctx).term = none →
        let out := Config.bitstream [k, f.n, o.key]
        let rec_ := natBytes 8 f.n ++ natBytes 4 (min out.length d.slotbytes) ++ [if d.slotbytes < out.length then 2 else 0] ++ natBytes 1 f.rung ++
          natBytes 1 f.steps ++ natBytes 1 ((if f.interp then 1 else 0) + if f.n % d.keyint = 0 ∨ f.after = true then 2 else 0) ++
          natBytes 8 f.start ++ natBytes 8 o.tick ++ natBytes 8 (BitVec.ofInt 64 ((d.due f.n : Int) - o.tick)).toNat ++ natBytes 16 0
        ∀ a b : State, s.blockPut st.ctx 0 (d.ring + 64 + 64 * slot f.n + 8) rec_ = .made a →
          a.blockPut st.ctx 0 (d.ring + 64 + 64 * slot f.n) (natBytes 8 (f.n + 1)) = .made b →
          s.chardRecord k st = (b.released d).putStream k { st with frames := fs })) ∧
  (∀ (s : State) (e : Nat),
      (s.engine e = [] → exec (.samplerRequest e) s = .next s) ∧
      (∀ r ∈ s.sampNext e, r ∈ s.engine e) ∧
      (∀ r rs, s.engine e = r :: rs → (∀ q ∈ s.engine e, q.held = false) →
        ∃ q, s.sampNext e = [q] ∧ (q.lat = true ∨ (q = r ∧ ∀ p ∈ s.engine e, p.lat = false))) ∧
      (∀ r : SampReq, s.sampNext e = [r] → (s.ctx r.ctx).term = none → r.got = [] →
        let went := { r with started := true }
        (∀ d : List Byte, s.readRange none r.ctx r.addr.toNat 128 = .bytes d → exec (.samplerRequest e) s =
          .next (s.sampServe e went { old := [], got := [.bytes d], out := SampOut.zero } d)) ∧
        (∀ code sub va, code ≠ 4 → s.readRange none r.ctx r.addr.toNat 128 = .bad code sub va →
          exec (.samplerRequest e) s = .next (s.sampUnread e went { old := [], got := [.bad], out := SampOut.zero } .bad))) ∧
      (∀ (r : SampReq) (m m1 : SampMem) (d : List Byte), r.got = [] →
        let x := sampDesc (listRd d)
        let deff := min x.d r.spec
        (s.areaBad r.ctx x.result (68 + 4 * deff) = true → s.sampServe e r m d = s.sampEnd e r (some 5) 0) ∧
        (s.areaBad r.ctx x.result (68 + 4 * deff) = false →
          (sampDescBad (listRd d) = true → s.sampServe e r m d = s.sampRecord e r x deff m (some .bad)) ∧
          (sampDescBad (listRd d) = false → (s.sampRun r.ctx x deff).run.run m = (.ok (), m1) →
            s.sampServe e r m d = s.sampRecord e r x deff m1 none) ∧
          (sampDescBad (listRd d) = false → (s.sampRun r.ctx x deff).run.run m = (.error .noToken, m1) →
            s.sampServe e r m d = s.sampRecord e r x deff m1 (some .noToken)))) ∧
      ∀ (r : SampReq) (x : SampDesc) (deff : Nat) (m : SampMem) (a b : State), r.stage = 0 →
        let bit (c : Bool) (v : Nat) : Nat := if c then v else 0
        let flags := bit m.out.oov 1 + bit (deff < x.d) 2 + bit m.out.nans 4 + bit m.out.rej 8
        let rec_ := [0] ++ natBytes 1 m.out.a ++ natBytes 1 deff ++ natBytes 1 flags ++ natBytes 4 0 ++ natBytes 4 m.out.toks.length ++
          natBytes 4 m.out.pos ++ natBytes 40 0 ++ m.out.toks.flatMap (natBytes 4)
        s.blockPut r.ctx r.id (x.result + 8) rec_ = .made a → a.blockPut r.ctx r.id x.result (natBytes 8 (x.step + 1).toNat) = .made b →
        ∃ s' : State, s.sampRecord e r x deff m none = s' ∧ s'.mem = (if x.scope = 3 ∨ x.scope = 4 then b.flushPeers else b).mem ∧
          s'.engine e = (b.engine e).filter (fun q => q.job ≠ r.job) ∧
          ∀ (core bank : Nat) (t : Task), b.task core bank = some t → t.who.id = r.id → ∃ u, s'.task core bank = some u ∧
            ∀ y : Token, y.st = .pending → y.job = r.job → ∀ q < 8, t.tok q = y →
              u.tok q = { st := .ok, errc := 0, done := BitVec.ofNat 32 m.out.toks.length, job := r.job })

/-- 18 R388-R393: the sampler's pipeline. A NaN logit is excluded and an infinity becomes the largest finite value; SCALE rounds
each product; the argmax is the largest x, the lowest token on ties, and each weight is the rounded power of 2 of the rounded
product of R389; top-k keeps the tokens that fewer than K tokens precede; DRAW returns the first token at which the running sum of
the weights passes T, else the last; the generator is that of R391; and a draft is accepted, rejected, or out of vocabulary as
R393 says.
The order in which a NaN stands, which only a bias can bring, is a reading: log 59. -/
def Obligations.SamplerPipeline : Prop :=
  (∀ (ty n : Nat), let f := if ty = 0 then fp32 else if ty = 1 then fp16 else bf16
    (f.val n = .nan → logit ty n = none) ∧ (f.val n = .inf false → logit ty n = some 0x7F7FFFFF) ∧
    (f.val n = .inf true → logit ty n = some 0xFF7FFFFF)) ∧
  (∀ (r : Rd) (l : List Kept), (stScale (some r) l).map Kept.t = l.map Kept.t ∧
    (stScale (some r) l).map Kept.x = l.map fun k => fp32.round .rne true 0 ((fp32.val k.x).mul (fp32.val (r 16 4)))) ∧
  (∀ (l : List Kept), l.Pairwise (fun a b => a.t < b.t) → l ≠ [] → ∃ m ∈ l, argmax l = some m ∧
    (∀ c ∈ l, under m.x c.x = false ∧ (c.t < m.t → under c.x m.x = true)) ∧
    (weights l).map (fun k => (k.t, k.x)) = l.map (fun k => (k.t, k.x)) ∧
    (weights l).map Kept.e = l.map fun k =>
      fp32.round .rne true 0 (exp2Val (fp32.val (prod32 (sub32 k.x m.x) 0x3FB8AA3B)))) ∧
  (∀ (r : Rd) (l : List Kept), l.Pairwise (fun a b => a.t < b.t) → 1 ≤ r 16 4 → r 20 4 = 0 → r 24 4 = 0 → ∀ k ∈ l,
    let ahead (c : Kept) : Bool := under k.x c.x || (!under c.x k.x && decide (c.t < k.t))
    (k ∈ stFilter (some r) l ↔ l.countP ahead < r 16 4 ∨ l.length ≤ r 16 4)) ∧
  (∀ (lim : Nat) (pre post : List Kept) (k : Kept),
    let upto (l : List Kept) : Nat := l.foldl (fun c k => add32 c k.e) 0
    ((∀ a b, pre = a ++ b → a ≠ [] → less lim (upto a) = false) → (post = [] ∨ less lim (upto (pre ++ [k])) = true) →
      drawAt lim 0 (pre ++ k :: post) = k.t)) ∧
  (∀ (x : SampDesc) (l : List Kept), (∀ m, argmax l = some m → drawTok x true l = m.t) ∧
    drawTok x false l = drawAt (fp32.round .rne true 0 ((sampU x 63).mul (fp32.val (sumE l)))) 0 l) ∧
  (∀ (seed ctr : Word), let w := 2 ^ 64
    let z0 := (seed.toNat + (ctr.toNat + 1) * 0x9E3779B97F4A7C15) % w
    let z1 := ((z0 ^^^ (z0 / 2 ^ 30)) * 0xBF58476D1CE4E5B9) % w
    let z2 := ((z1 ^^^ (z1 / 2 ^ 27)) * 0x94D049BB133111EB) % w
    sampGen seed ctr = (z2 ^^^ (z2 / 2 ^ 31)) / 2 ^ 40) ∧
  (∀ (s : State) (ctx : Nat) (x : SampDesc) (bs : List Rd) (greedy : Bool) (t j : Nat) (q : Val) (r : List (Nat × Val)) (l : List Kept)
    (m m1 : SampMem), (s.sampRow ctx x bs j).run.run m = (.ok l, m1) →
    let drawn (tok : Nat) (rej oov : Bool) : SampMem :=
      { m1 with out := { m1.out with toks := m1.out.toks ++ [tok], rej := rej, oov := oov, pos := if rej then j else 0 } }
    let p := match l.find? fun k => k.t == t with | none => 0 | some k => quot32 k.e (sumE l)
    let ok : Bool := if greedy then (argmax l).any fun k => k.t == t else ((sampU x j).mul q).lt (fp32.val p)
    ((s.verify ctx x bs greedy [] j).run.run m = (.ok (), drawn (drawTok x greedy l) false false)) ∧
    (x.vb ≤ t → (s.verify ctx x bs greedy ((t, q) :: r) j).run.run m = (.ok (), drawn (drawTok x greedy l) true true)) ∧
    (t < x.vb → ok = false → (s.verify ctx x bs greedy ((t, q) :: r) j).run.run m =
      (.ok (), drawn (drawTok x greedy (l.filter fun k => k.t ≠ t)) true false)) ∧
    (t < x.vb → ok = true → (s.verify ctx x bs greedy ((t, q) :: r) j).run.run m =
      (s.verify ctx x bs greedy r (j + 1)).run.run
        { m1 with out := { m1.out with toks := m1.out.toks ++ [t], a := m1.out.a + 1 } }))

/-! ### Events and requests of the device (15, 16, 23, 25) -/

/-- 23 R445-R448, R457: a scrub that meets no error changes nothing, and what it finds is handled as an access's error is; a
corrected error changes no value of the memory, of the L2 or of a task; an uncorrectable error of a clean L1 sector drops it, with
a record and no termination; one of a dirty sector makes it POISON and ends its owner; a scratchpad error stands in its sector of
its row.
23 R458: a quarantine lists its way: with F3 alive and no page on the way's frames, the way is listed once; a fifth way of a slice
is not.
How an error comes about and where a scrubber stands are the model's choices: log 77, 91 and 136. -/
def Obligations.ErrorEvents : Prop :=
  (∀ (s : State) (p : ErrPlace) (slice pa core bank row : Nat),
      ((∀ e ∈ s.latent, s.inWay slice s.patrolAt e.2 = false) → exec (.l2PatrolScrub slice) s = .next s) ∧
      ((∀ e ∈ s.latent, ∀ a, e.2 = .dram a → a / 32 ≠ pa / 32) → exec (.memoryScrub pa) s = .next s) ∧
      (∀ c, s.latent = [(c, p)] →
        (s.inWay slice s.patrolAt p = true → exec (.l2PatrolScrub slice) s = exec (.errorHandling c p) s) ∧
        (∀ a, p = .dram a → a / 32 = pa / 32 → exec (.memoryScrub pa) s = exec (.errorHandling c p) s)) ∧
      (∀ c, ∃ s1, exec (.errorHandling c p) s = .next s1 ∧ s1.latent = s.latent.filter fun e => e.2 ≠ p) ∧
      (∃ s', exec (.errorHandling true p) s = .next s' ∧ s'.mem = s.mem ∧ s'.l2 = s.l2 ∧ s'.poison = s.poison ∧ s'.tasks = s.tasks ∧
        s'.cores = s.cores ∧ s'.ctxs = s.ctxs) ∧
      (∀ x : Sector, s.l1 core (pa / 32) = some x → s.ctxs.Pairwise (fun a b => a.1 < b.1) →
        (x.dirty = 0 → x.poison = false → ∃ s', exec (.errorHandling false (.l1 core pa)) s = .next s' ∧ s'.l1 core (pa / 32) = none ∧
          s'.fen.nfaults = s.fen.nfaults + 1 ∧ ∀ c, (s'.ctx c).term = (s.ctx c).term) ∧
        (x.dirty ≠ 0 → x.owner ≠ 0 → (s.ctx x.owner).term = none → ∃ s', exec (.errorHandling false (.l1 core pa)) s = .next s' ∧
          s'.l1 core (pa / 32) = some { x with poison := true } ∧ (s'.ctx x.owner).term = some (s.fen.nfaults + 1))) ∧
      (∀ (t : Task) (sec : Nat), sec < 4 → s.task core bank = some t →
        ∃ s', exec (.errorHandling false (.scratch core bank row sec)) s = .next s' ∧
          s'.task core bank = some { t with rows := tins t.rows row { t.row row with ue := (t.row row).ue ||| (1#4 <<< sec) } } ∧ s'.fen = s.fen)) ∧
  (∀ (s : State) (slice way : Nat), slice < 64 → way < 16 → s.fen.alive.getLsbD 3 = true → ¬ (slice, way) ∈ s.nv.quarantined →
      ((s.nv.quarantined.filter fun e => e.1 == slice).length < 4 → ∃ s', exec (.wayQuarantine slice way) s = .next s' ∧
        s'.nv = { s.nv with quarantined := s.nv.quarantined ++ [(slice, way)] } ∧ s'.tasks = s.tasks) ∧
      (4 ≤ (s.nv.quarantined.filter fun e => e.1 == slice).length → ∃ s', exec (.wayQuarantine slice way) s = .next s' ∧ s'.nv = s.nv ∧
        s'.mem = s.mem ∧ s'.l2 = s.l2))

/-- 23 R452, R463, R467, R469, R470: a termination under way does its first three steps once, which leave no task of the context,
and ACTION[0] of its record is set; it ends with F3 alive once no write of its first step is held, as none is where no queue of
the context runs a command and it has no stream and no group: the context has no task, no table, no slot and no reservation,
counts as ended, and the other contexts keep their tables and, with nothing on its way from a cluster, their pages; without a
termination nothing happens. That it waits for held writes is the model's reading, log 115.
23 R460, R462, R467: a context is reset: its registers, mailbox and MSI-X entries are those of reset, no task or slot of it is
left, what it held alone is zero, and the tables of the other contexts and, with nothing on its way from a cluster, their pages
are as before; for context 0 the function alone is reset.
What a termination leaves of commands and which frames a reset wipes are readings: log 67 and 68. -/
def Obligations.ContextEnds : Prop :=
  (∀ (s : State) (c : Nat),
      ((s.ctx c).term = none → exec (.contextTermination c) s = .next s) ∧
      let first := if (s.ctx c).begun then s.endCentral c else s.endFirst c none
      ((s.ctx c).begun = false → (∀ e ∈ (s.endFirst c none).tasks, e.2.who.ctx ≠ c) ∧ ((s.endFirst c none).ctx c).begun = true) ∧
      ((∀ e ∈ s.fe.queues, e.2.ctx = c → e.2.run = none ∧ e.2.outer = none) → (∀ e ∈ s.streams, e.2.ctx ≠ c) → (∀ e ∈ s.groups, e.2.ctx ≠ c) →
        first.endHeld c = false) ∧
      (∀ n, (s.ctx c).term = some n → s.fen.alive.getLsbD 3 = false → exec (.contextTermination c) s = .next first) ∧
      (∀ n, (s.ctx c).term = some n → s.fen.alive.getLsbD 3 = true → first.endHeld c = true →
        ∃ s', exec (.contextTermination c) s = .next s' ∧ s'.tasks = first.tasks ∧ s'.ctxs = first.ctxs ∧
          s'.fen.faults = first.fen.faults.modify (first.fen.nfaults - n) fun r => { r with action := r.action ||| 1 }) ∧
      (∀ n, (s.ctx c).term = some n → s.fen.alive.getLsbD 3 = true →
        first.endHeld c = false →
        ∃ s', exec (.contextTermination c) s = .next s' ∧ (s'.ctx c).term = none ∧ (s'.ctx c).table = [] ∧ (s'.ctx c).faults = [] ∧
          (s'.ctx c).resv = 0 ∧ (s'.ctx c).pages = [] ∧ (s'.ctx c).ended = true ∧ s'.tasks = first.tasks ∧
          (c ≠ 0 → ∀ n j, (s'.sem n j).owner ≠ c) ∧
          ∀ d, d ≠ c → (s'.ctx d).table = (s.ctx d).table ∧ ((∀ k, (s.cluster k).egress = []) → (s'.ctx d).pages = (s.ctx d).pages))) ∧
  (∀ (s : State) (c : Nat), 0 < c → c ≤ 15 →
      ∃ s', exec (.contextReset c) s = .next s' ∧ s'.ctx c = Ctx.zero ∧ s'.box c = Mbox.zero ∧ (∀ e ∈ s'.tasks, e.2.who.ctx ≠ c) ∧
        (∀ n j, (s'.sem n j).owner ≠ c) ∧ (∀ e ∈ s'.fen.table, e.1 / 2 ≠ c) ∧
        (∀ a, s.holdsAlone c a = true → memByte s'.mem a = 0) ∧
        (∀ d, d ≠ c → (s'.ctx d).table = (s.ctx d).table ∧ ((∀ k, (s.cluster k).egress = []) → (s'.ctx d).pages = (s.ctx d).pages)) ∧
        ∃ s'', exec (.contextReset 0) s = .next s'' ∧ s''.box 16 = Mbox.zero ∧ s''.ctxs = s.ctxs ∧ s''.tasks = s.tasks ∧ s''.mem = s.mem ∧
          ∀ e ∈ s''.fen.table, e.1 / 2 ≠ 16)

/-- 00 R6; 15 R315; 23 R460, R462, R464: a doorbell of the function's own queue moves TAIL where at most SIZE commands stand and
TAIL does not move back, and puts the queue in error otherwise; another function's write, one of another width and one with high
bits set are discarded; MBOUT_HEAD, MBIN_TAIL and the inbound ring take what is written; a misaligned register write does nothing;
a vector that was sent while it was masked is held pending and sent when it is unmasked; a read gives a register's current value
with its reserved fields zero. That context 0's virtual function is present in every state of the life cycle is the model's
reading, log 112. -/
def Obligations.RegisterWrites : Prop :=
  ∀ (s : State) (fn q off width : Nat) (v : Word) (x : CQueue),
    let low : BitVec 32 := v.setWidth 32
    let legal := width = 64 ∧ v.toNat < 2 ^ 32 ∧ (fn = vfOf x.ctx ∨ (fn = 0 ∧ x.pf = true)) ∧ (fn = 0 ∨ fn = 16 ∨ (fn ≤ 15 ∧ s.nv.lcs = 2))
    (s.queue q = some x → legal → (low - x.head).toNat ≤ x.size → (low - x.tail).toNat < 2 ^ 31 →
      exec (.doorbell fn q width v) s = .next (s.putQueue q { x with tail := low })) ∧
    (s.queue q = some x → legal → x.size < (low - x.head).toNat ∨ 2 ^ 31 ≤ (low - x.tail).toNat →
      exec (.doorbell fn q width v) s = .next (s.failQueue q 2 x)) ∧
    (s.queue q = some x → ¬ legal → exec (.doorbell fn q width v) s = .next s) ∧
    (s.queue q = some x → q < 64 → legal → s.readBar fn (0x2000 + 8 * q) = x.head ++ x.tail) ∧
    (∃ z : BitVec 46, s.readBar 0 0x1000 = z ++ BitVec.ofBool s.fen.hostmode ++ BitVec.ofBool s.fen.frozen ++ s.fen.hung ++ s.fen.alive ∧ z = 0) ∧
    s.readBar 0 0x1008 = ((0 : BitVec 40) ++ s.fen.rcvsts ++ s.fen.rcvarg ++ s.fen.rcvop : Word) ∧
    (s.present fn = true →
      s.readBar fn 0x3000 = (s.box fn).outTail.setWidth 64 ∧ s.readBar fn 0x3008 = (s.box fn).outHead.setWidth 64 ∧
      s.readBar fn 0x3010 = (s.box fn).inTail.setWidth 64 ∧ s.readBar fn 0x3018 = (s.box fn).inHead.setWidth 64 ∧
      exec (.mboutHead fn v) s = .next (s.flushBox fn { (s.box fn) with outHead := low }) ∧
      ((low - (s.box fn).inHead).toNat ≤ 16 → (low - (s.box fn).inTail).toNat < 2 ^ 31 →
        exec (.mbinTail fn v) s = .next (s.putBox fn { (s.box fn) with inTail := low })) ∧
      (off % 8 ≠ 0 → exec (.registerWrite fn off v) s = .next s) ∧
      (∀ k, k < 128 → exec (.registerWrite fn (0x3800 + 8 * k) v) s =
        .next (s.putBox fn { (s.box fn) with inRing := tset 0 (s.box fn).inRing k v })) ∧
      exec (.registerWrite fn 0x3020 v) s = .next (s.putBox fn { (s.box fn) with ie := v.getLsbD 0 })) ∧
    (∀ vec e, s.msixEntry fn vec = e →
      (e.masked = true → (s.msi fn vec 1).fen.msix = s.fen.msix ∧ ((s.msi fn vec 1).msixEntry fn vec) = { e with pending := true }) ∧
      (e.masked = false → (s.msi fn vec 1).fen.msix = s.fen.msix ++ [(fn, vec)]) ∧
      (e.pending = true → (s.putMsix fn vec { e with masked := false }).fen.msix = s.fen.msix ++ [(fn, vec)] ∧
        ((s.putMsix fn vec { e with masked := false }).msixEntry fn vec) = { e with masked := false, pending := false })) ∧
    (s.present fn = false → exec (.mboutHead fn v) s = .next s ∧ exec (.mbinTail fn v) s = .next s ∧ exec (.registerWrite fn off v) s = .next s)

/-- 15 R313, R314; 23 R461: the queue requests: QRESET ends a queue's error with its ring discarded, QCREATE takes the lowest free
queue, QDESTROY removes an idle queue, each with its reply; a virtual function's QRESET or QDESTROY of another context's queue is
a request that it does not admit.
19 R421; 23 R454, R461; 25 R482, R483: the other requests: a fault record read, an unknown request answered with all ones, a debug
request of a context without debugging answered with 0 and one of another carried out, and life-cycle requests, with the token
that some need; a wipe that has completed brings the new state, and no task, slot, line of the L2 or byte of device memory is
left.
The lowest free queue, the reply for a queue of another function, SRC of an unknown request, the 0 for a context without
debugging, the moves that need no token and what a wipe leaves are the model's: log 98, 82, 83, 66, 86 and 87. -/
def Obligations.MailboxRequests : Prop :=
  (∀ (s : State) (q : Nat) (x : CQueue),
      let m := s.fen.msg
      (s.namedQueue = some (q, x) → x.error = true → exec .qreset s =
        .next ((s.putQueue q { x with error := false, head := x.tail }).reply 4 1 0 0)) ∧
      (s.namedQueue = some (q, x) → x.error = false → exec .qreset s = .next (s.reply 4 1 1 0)) ∧
      (s.namedQueue = none → exec .qreset s = .next (s.reply 4 1 1 0) ∧ exec .qdestroy s = .next (s.reply 6 1 1 0)) ∧
      (s.namedQueue = some (q, x) → x.run = none → x.outer = none → x.stream = none → (∀ g ∈ s.groups, g.2.aq ≠ some q) →
        exec .qdestroy s = .next (({ s with fe := { s.fe with queues := tdel s.fe.queues q } } : State).reply 6 1 0 0)) ∧
      (s.namedQueue = some (q, x) → x.run.isSome = true → exec .qdestroy s = .next (s.reply 6 1 1 0)) ∧
      (q < 64 → s.queue q = none → (∀ k, k < q → (s.queue k).isSome = true) →
        let ctx := if s.fen.serving = 0 then (m.p1.extractLsb' 0 8).toNat else ctxOf s.fen.serving
        let cls := (m.p1.extractLsb' 8 8).toNat
        let size := (m.p1.extractLsb' 32 32).toNat
        (ctx < 16 → cls < 2 → m.p2.toNat % 4096 = 0 → (∃ k, k < 11 ∧ size = 2 ^ (k + 6)) → ∃ y, exec .qcreate s =
            .next ((s.putQueue q y).reply 5 1 0 (BitVec.ofNat 64 q)) ∧ y.ctx = ctx ∧ y.size = size ∧ y.ring = m.p2 ∧ y.head = 0 ∧ y.tail = 0 ∧
            y.bulk = decide (cls = 1) ∧ y.pf = decide (s.fen.serving = 0) ∧ y.error = false ∧ y.run = none) ∧
        (¬ (ctx < 16 ∧ cls < 2 ∧ m.p2.toNat % 4096 = 0 ∧ ∃ k, k < 11 ∧ size = 2 ^ (k + 6)) → exec .qcreate s = .next (s.reply 5 1 1 0))) ∧
      ((∀ k, k < 64 → (s.queue k).isSome = true) → exec .qcreate s = .next (s.reply 5 1 1 0)) ∧
      ∀ (fn : Nat) (y : CQueue), let b := s.box fn
        (b.front.1 = 4 ∨ b.front.1 = 6) → fn ≠ 0 → s.queue (b.front.2.p1.extractLsb' 0 8).toNat = some y → b.inHead ≠ b.inTail →
        s.fen.alive.getLsbD 1 = true → s.nv.lcs ≠ 4 → (s.boot.phase = 2 ∨ s.boot.phase = 3) → s.present fn = true →
        ∃ (s1 : State) (i : Instr), s.takeRequest fn = some (s1, i) ∧ s1.fen.serving = fn ∧ s1.fen.msg = b.front.2 ∧
          i = if y.ctx ≠ ctxOf fn then .unknownMailboxRequest else if b.front.1 = 4 then .qreset else .qdestroy) ∧
  (∀ (s : State),
      let m := s.fen.msg
      let i := (m.p1.extractLsb' 0 16).toNat
      (∀ r : FaultRec, i < 1024 → s.recordIn i = some r → exec .fltread s = .next (s.post s.fen.serving 0x30 { r.msg with seq := m.seq })) ∧
      (1024 ≤ i ∨ s.recordIn i = none → exec .fltread s = .next (s.reply 0x30 3 1 0)) ∧
      (∃ (s1 : State) (src : BitVec 8), exec .unknownMailboxRequest s = .next (s1.deliver s.fen.serving s.fen.msgtype
        { Msg.zero with src := src, seq := m.seq, status := 0xFFFFFFFF }) ∧ src.toNat < 8 ∧ s1.fen = s.fen) ∧
      (s.fen.serving ≠ 0 → s.target (some (ctxOf s.fen.serving)) (m.p1.extractLsb' 32 32) = none → (s.ctx (ctxOf s.fen.serving)).debug = false →
        exec .dbgreq s = .next (s.reply 0x21 7 0 0)) ∧
      (let g := s.target (if s.fen.serving = 0 then none else some (ctxOf s.fen.serving)) (m.p1.extractLsb' 32 32)
       let ctx := match g with | some (.bank _ t) => t.who.ctx | some (.saved _ v) => v.task.who.ctx | none => ctxOf s.fen.serving
       let o := (m.p2.extractLsb' 0 32).toNat
       (s.ctx ctx).debug = true →
        (m.p1.extractLsb' 0 8 = 0 → exec .dbgreq s = .next (s.reply 0x21 7 0 (s.dbgStatus g))) ∧
        (m.p1.extractLsb' 0 8 = 1 → exec .dbgreq s = .next (s.reply 0x21 7 0 (s.dbgRead g o))) ∧
        (m.p1.extractLsb' 0 8 = 2 → exec .dbgreq s = .next ((s.dbgStore g o m.p3).reply 0x21 7 0 0)) ∧
        (m.p1.extractLsb' 0 8 = 3 → exec .dbgreq s = .next ((s.dbgStop g).reply 0x21 7 0 0)) ∧
        (m.p1.extractLsb' 0 8 = 4 → exec .dbgreq s = .next ((s.dbgResume g).reply 0x21 7 0 0))) ∧
      (s.boot.wiping = none → let go : State := { s with boot := { s.boot with wiping := some ((m.p1.extractLsb' 0 8).toNat, m.seq) } }
        (lcsRule s.nv.lcs (m.p1.extractLsb' 0 8).toNat = some false → exec .lcreq s = .next go) ∧
        (lcsRule s.nv.lcs (m.p1.extractLsb' 0 8).toNat = some true →
          let token := s.hostBytes m.p2.toNat (m.p3.extractLsb' 0 32).toNat
          let no (st : BitVec 32) : Out := .next (s.reply 0x11 5 st (BitVec.ofNat 64 s.nv.lcs))
          (m.p2 = 0 → exec .lcreq s = no 1) ∧
          (m.p2 ≠ 0 → m.p2.toNat % 8 ≠ 0 ∨ 2 ^ 50 < m.p2.toNat + 3437 ∨ token.length ≠ 3437 → exec .lcreq s = no 2) ∧
          (m.p2 ≠ 0 → m.p2.toNat % 8 = 0 → m.p2.toNat + 3437 ≤ 2 ^ 50 → exec .lcreq s =
            if s.tokenGood token (m.p1.extractLsb' 0 8).toNat then .next go else no 2)) ∧
        (lcsRule s.nv.lcs (m.p1.extractLsb' 0 8).toNat = none → exec .lcreq s = .next (s.reply 0x11 5 1 (BitVec.ofNat 64 s.nv.lcs))) ∧
        exec .lifecycleWipeDone s = .next s) ∧
      (∀ (target : Nat) (seq : BitVec 16), s.boot.wiping = some (target, seq) →
        ∃ s', exec .lifecycleWipeDone s = .next s' ∧ s'.nv.lcs = target ∧ s'.boot.wiping = none ∧ s'.tasks = [] ∧ s'.jobs = [] ∧ s'.l2 = [] ∧ s'.lines = [] ∧
          (∀ a, chipOf a = s.pod.chip.toNat → isHostOff (offOf a) = false → memByte s'.mem a = 0) ∧
          (∀ n j, s'.sem n j = { v := 0, owner := 0 }) ∧ s'.nv.count = s.nv.count + 1))

/-- 23 R463-R466; 25 R478, R482: the watchdog and recovery: a core that hangs is no longer alive and dispatch freezes; host-driven
mode is entered, and left only with every core alive and, as the model reads 25 R478 (log 148), no thermal trip; cores restart
from a recovery image whose signatures verify; a fault record and 64 bytes of device memory are read, those of a frame map as log
122 has them; in SCRAPPED every operation is refused; the operations report their status.
The STS values of operation 2 and whether a signature verifies are the model's: log 78 and 79. -/
def Obligations.RecoveryOperations : Prop :=
  ∀ (s : State) (k : Nat) (crash : Bool),
    (k < 8 → s.fen.alive.getLsbD k = true → ∃ s', exec (.watchdogHang k crash) s = .next s' ∧ s'.fen.alive.getLsbD k = false ∧
      s'.fen.hung.getLsbD k = true ∧ s'.fen.frozen = true ∧ (∀ j, j ≠ k → s'.fen.alive.getLsbD j = s.fen.alive.getLsbD j) ∧
      s'.fen.nfaults = s.fen.nfaults + 1 ∧ s'.tasks = s.tasks ∧ s'.mem = s.mem) ∧
    (s.fen.alive.getLsbD k = false → exec (.watchdogHang k crash) s = .next s) ∧
    exec .enterHostDrivenMode s = .next { s with fen := { s.fen with hostmode := true, rcvsts := 0 } } ∧
    (s.fen.alive = 0xFF → s.fen.tripped = false → ∃ s', exec .leaveHostDrivenMode s = .next s' ∧ s'.fen = { s.fen with frozen := false, hostmode := false, rcvsts := 0 } ∧
      s'.tasks = s.tasks) ∧
    (s.fen.alive ≠ 0xFF ∨ s.fen.tripped = true → exec .leaveHostDrivenMode s = .next { s with fen := { s.fen with rcvsts := 2 } }) ∧
    (s.boot.images[8]? = none → exec .restartFennelCores s = .next { s with fen := { s.fen with rcvsts := 3 } }) ∧
    (∀ i, s.boot.images[8]? = some i → ∃ s', exec .restartFennelCores s = .next s' ∧ s'.tasks = s.tasks ∧ s'.mem = s.mem ∧
      (imageSigned i = false → s' = { s with fen := { s.fen with rcvsts := 3 } }) ∧
      (imageSigned i = true → s'.fen.rcvsts = 0 ∧ s'.fen.alive = s.fen.alive ||| s.fen.rcvarg)) ∧
    (∀ v : Word, s.nv.lcs = 4 → exec (.registerWrite 0 0x1008 v) s =
      .next { s with fen := { s.fen with rcvop := v.setWidth 8, rcvarg := v.extractLsb' 8 8, rcvsts := 2 } }) ∧
    (s.queue s.fen.rcvarg.toNat = none → exec .runOneCommand s = .next { s with fen := { s.fen with rcvsts := 2 } }) ∧
    (∀ x : CQueue, s.queue s.fen.rcvarg.toNat = some x → s.fen.hostmode = true → x.error = false → x.run = none → x.outer = none →
      (s.ctx x.ctx).term = none → ∃ s1 : State, exec .runOneCommand s = .next { s1 with fen := { s1.fen with rcvsts := 0 } } ∧
        s.begin_ s.fen.rcvarg.toNat x { x with host := true } s.rcvCommand (fun _ => true) = .moved s1) ∧
    (∀ r : FaultRec, s.recordIn ((s.rcv 0).toNat % 1024) = some r → ∃ s', exec .readFaultRecord s = .next s' ∧
      (∀ j, j < 6 → s'.rcv j = r.words.getD j 0) ∧ s'.fen.rcvsts = 0 ∧ s'.mem = s.mem) ∧
    (s.recordIn ((s.rcv 0).toNat % 1024) = none → ∃ s', exec .readFaultRecord s = .next s' ∧
      (∀ j, j < 6 → s'.rcv j = 0) ∧ s'.fen.rcvsts = 0 ∧ s'.mem = s.mem) ∧
    (∃ s', exec .readDeviceMemory s = .next s' ∧ s'.mem = s.mem ∧ s'.l2 = s.l2 ∧
      ((s.rcv 0).toNat % 64 ≠ 0 → s'.fen = { s.fen with rcvsts := 2 }) ∧
      (s.inFrame (s.rcv 0).toNat = false → s'.fen = { s.fen with rcvsts := 2 }) ∧
      ((s.rcv 0).toNat % 64 = 0 → s.inFrame (s.rcv 0).toNat = true → s'.fen.rcvsts = 0 ∧ ∀ k, k < 8 →
        let sector := s.readL2 ((s.rcv 0).toNat / 32 + k / 4)
        (∀ w, s.frameMapWord ((s.rcv 0).toNat + 8 * k) = some w → s'.rcv k = w) ∧
        (s.frameMapWord ((s.rcv 0).toNat + 8 * k) = none → sector.bad = none → s'.rcv k = sector.data.extractLsb' (64 * (k % 4)) 64)))

/-- 25 R474-R478, R486: in full service an operating point is a multiple of 25 MHz from 600 to 1300; a raise brings the voltage up
before the clock and a lowering takes the clock down before the voltage, each at a cc boundary; a reading of 110 °C caps the
island at 600 MHz and one below 105 °C ends that; at 125 °C every island stops, and a limit newly reached is told on the I3C
sideband (the model's reading: log 118); a droop stretches the clock until it has ended, and the supply's reading lies below the
limit of 5 % until then; at a power boundary, which is one of DT in full service, the counts start again and an island at 100 °C
or above is to go down by 100 MHz.
16 R339; 23 R455, R467; 25 R484-R488, R491: PTM_SYNC adds one tick or omits one, at most once in 4096; resets keep only the
non-volatile store; firmware, package training, links and full service take the device through its phases: nine images whose two
signatures verify and whose versions are not below the fused minimum run, and any other load is BOOTFAIL; full service begins once
every package and port is decided or 2^35 ticks have passed.
Which islands F4 changes, the clock under a droop, what comes from outside, the reserved cores, the cut of a port beyond the
limit, the readings of the supply and the version in force are the model's choices: log 84, 85, 88, 89, 120, 141, 138 and 139. -/
def Obligations.PowerEvents : Prop :=
  (∀ (s : State) (cl mhz deg mw : Nat), cl < 64 →
      let c := s.cluster cl
      (c.on = true → mhz % 25 = 0 → 600 ≤ mhz → mhz ≤ 1300 → c.capped = false ∨ mhz = 600 → s.fen.alive.getLsbD 4 = true → s.boot.phase = 3 →
        exec (.operatingPointChange cl mhz) s = .next (s.putCluster cl { c with goal := some mhz })) ∧
      (mhz % 25 ≠ 0 ∨ mhz < 600 ∨ 1300 < mhz ∨ c.on = false ∨ s.boot.phase ≠ 3 ∨ s.fen.alive.getLsbD 4 = false →
        exec (.operatingPointChange cl mhz) s = .next s) ∧
      (c.goal = some mhz → c.vclock = c.mhz → c.mhz < mhz →
        c.boundary = { c with vclock := mhz } ∧ c.boundary.boundary.mhz = mhz ∧ c.boundary.boundary.vclock = mhz) ∧
      (c.goal = some mhz → c.vclock = c.mhz → mhz < c.mhz →
        c.boundary.mhz = mhz ∧ c.boundary.vclock = c.vclock ∧ c.boundary.boundary.mhz = mhz ∧ c.boundary.boundary.vclock = mhz ∧
        c.boundary.boundary.goal = none) ∧
      (∃ s', exec (.temperatureSample cl deg) s = .next s' ∧ (s'.cluster cl).temp = deg ∧
        (110 ≤ deg → (s'.cluster cl).mhz ≤ 600 ∧ (s'.cluster cl).capped = true) ∧
        (deg < 105 → (s'.cluster cl).capped = false ∧ (s'.cluster cl).mhz = c.mhz) ∧
        (105 ≤ deg → deg < 110 → (s'.cluster cl).capped = c.capped) ∧
        (125 ≤ deg → s'.fen.tripped = true) ∧
        (deg < 125 → s'.fen = { s.fen with inband := s.fen.inband ++ (limitsMet c.temp deg).map fun k => (cl, k) })) ∧
      (c.on = true → ∃ s', exec (.voltageDroop cl) s = .next s' ∧ (s'.cluster cl).droop = true ∧ (s'.cluster cl).droops = c.droops + 1 ∧
        (s'.cluster cl).volt = 0 ∧ (s'.cluster cl).supply < -50 ∧ s'.fen = { s.fen with inband := s.fen.inband ++ [(cl, 5)] } ∧
        (∀ k, k ≠ cl → s'.cluster k = s.cluster k) ∧ s'.mem = s.mem ∧ s'.tasks = s.tasks) ∧
      (∃ s', exec (.droopRecovery cl) s = .next s' ∧ (s'.cluster cl).droop = false ∧ -50 ≤ (s'.cluster cl).supply ∧ (s'.cluster cl).droops = c.droops ∧
        (∀ k, k ≠ cl → s'.cluster k = s.cluster k) ∧ s'.fen = s.fen) ∧
      (s.boot.phase ≠ 3 ∨ s.dt.toNat % 1300000 ≠ 0 ∨ s.fen.powerAt = s.dt.toNat → exec (.powerBoundary mw) s = .next s) ∧
      (s.boot.phase = 3 → s.dt.toNat % 1300000 = 0 → s.fen.powerAt ≠ s.dt.toNat →
        ∃ s', exec (.powerBoundary mw) s = .next s' ∧ (∀ k, (s'.cluster k).skipped = 0 ∧ (s'.cluster k).evaluated = 0) ∧
          (∀ k, (s'.cluster k).mhz = (s.cluster k).mhz) ∧ s'.fen.power = (mw :: s.fen.power).take 10 ∧ s'.fen.powerAt = s.dt.toNat ∧
          (s.fen.alive.getLsbD 4 = true → ∀ k < 64, (s.cluster k).on = true → 100 ≤ (s.cluster k).temp → 600 < (s.cluster k).mhz →
            { cur := s.cur, job := s.job, i := .operatingPointChange k (max 600 ((s.cluster k).mhz - 100)) } ∈ s'.agenda) ∧
          s'.mem = s.mem ∧ s'.tasks = s.tasks)) ∧
  (∀ (s : State) (k cap : Nat) (v add skip up : Bool) (l : List FwImage),
      (s.boot.ptmNext ≤ s.dt.toNat → exec (.ptmSync true false) s =
        .next { s with dt := s.dt + 1, boot := { s.boot with ptmNext := s.dt.toNat + 4096, omit_ := false } } ∧
        exec (.ptmSync false true) s = .next { s with boot := { s.boot with ptmNext := s.dt.toNat + 4096, omit_ := true } }) ∧
      (s.dt.toNat < s.boot.ptmNext → exec (.ptmSync add skip) s = .next s) ∧
      (∀ i ∈ [Instr.deviceReset, .powerUp], ∃ s', exec i s = .next s' ∧
        s'.nv = { s.nv with retired := s.nv.retired ++ s.nv.waiting.take (4096 - s.nv.retired.length),
                            waiting := s.nv.waiting.drop (4096 - s.nv.retired.length) } ∧ s'.boot = State.reset.boot ∧ s'.fe = State.reset.fe ∧
        s'.fen = State.reset.fen ∧ s'.tasks = [] ∧ s'.ctxs = State.reset.ctxs ∧ s'.dt = State.reset.dt ∧ s'.l2 = [] ∧
        ∀ a, memByte s'.mem a = if chipOf a = s.pod.chip.toNat ∧ isHostOff (offOf a) = false then 0 else memByte s.mem a) ∧
      (s.boot.phase = 0 → ∃ s', exec (.firmwareLoad l) s = .next s' ∧ s'.boot = { s.boot with phase := 1 } ∧ s'.nv = s.nv ∧
        ∀ cl < 64, (s'.cluster cl).osc = Config.oscillations cl s.fresh) ∧
      (let good : Prop := l.length = 9 ∧ ∀ i ∈ l, imageSigned i = true ∧ s.nv.fusedMin ≤ i.version
       s.boot.phase = 1 → ∃ s', exec (.firmwareLoad l) s = .next s' ∧ s'.mem = s.mem ∧ s'.tasks = s.tasks ∧ s'.fen = s.fen ∧
        (good → s'.boot = { s.boot with phase := 2, images := l } ∧ (∀ f5, l[5]? = some f5 → s'.nv.version = f5.version) ∧
          s'.nv.lcs = s.nv.lcs ∧ s'.nv.retired = s.nv.retired ∧
          (s.nv.lcs = 0 → s.nv.keys = none → s'.nv.keys.isSome = true ∧ s'.nv.secret = true) ∧
          (s.nv.lcs ≠ 0 ∨ s.nv.keys ≠ none → s'.nv.keys = s.nv.keys ∧ s'.nv.secret = s.nv.secret)) ∧
        (¬ good → s' = { s with boot := { s.boot with phase := 4 } })) ∧
      (2 ≤ s.boot.phase → exec (.firmwareLoad l) s = .next s) ∧
      (k < 24 → s.boot.lpdone.getLsbD k = false → ∃ s', exec (.lpddrTrainingDone k v) s = .next s' ∧ s'.boot.lpdone.getLsbD k = true ∧
        (s'.boot.lpfail.getLsbD k = (s.boot.lpfail.getLsbD k || !v)) ∧ (∀ j, j ≠ k → s'.boot.lpdone.getLsbD j = s.boot.lpdone.getLsbD j) ∧
        s'.mem = s.mem) ∧
      (∃ s', exec (.cxlLinkChange 0 up cap) s = .next s' ∧ s'.boot.cxl0 = up ∧ s'.boot.cxl1 = s.boot.cxl1 ∧ 
        s'.boot.cap0 = (if up then min cap (3072 * 2 ^ 30 - s.boot.cap1) else 0)) ∧
      (∃ s', exec (.cxlLinkChange 1 up cap) s = .next s' ∧ s'.boot.cxl1 = up ∧ s'.boot.cxl0 = s.boot.cxl0 ∧
        s'.boot.cap1 = (if up then min cap (3072 * 2 ^ 30 - s.boot.cap0) else 0)) ∧
      (s.boot.phase = 2 → s.boot.lpdone = BitVec.allOnes 24 → s.boot.cxlDone = 3 → ∃ s', exec .fullService s = .next s' ∧ s'.boot.phase = 3 ∧
        s'.boot.reserve = s.reserveFrames ∧ (∀ c, c < 16 → s'.cluster c = s.cluster c) ∧ ∀ c, 16 ≤ c → c < 64 → (s'.cluster c).on = true ∧
          (s'.cluster c).mhz = if (s.cluster c).capped then 600 else 800) ∧
      (s.boot.phase = 2 → 2 ^ 35 ≤ s.dt.toNat → ∃ s', exec .fullService s = .next s' ∧ s'.boot.phase = 3 ∧
        s'.boot.lpfail = s.boot.lpfail ||| ~~~s.boot.lpdone ∧ s'.boot.lpdone = BitVec.allOnes 24) ∧
      (s.boot.phase ≠ 2 ∨ ((s.boot.lpdone ≠ BitVec.allOnes 24 ∨ s.boot.cxlDone ≠ 3) ∧ s.dt.toNat < 2 ^ 35) → exec .fullService s = .next s))

/-- 09 R233; 16 R340, R341, R353, R356, R357: what comes from outside: the host's write of a range, another device's marker, page
discards, which leave the page UNTOUCHED, and slot operations, which their file may perform from the next tick on (the model's
choice: log 130), and the fabric manager's routes, stripes and chip id.
Whose a slot of this device is for another device is a reading: log 37. -/
def Obligations.OutsideRequests : Prop :=
  ∀ (s : State) (ctx va src path chip : Nat) (bytes : List Byte),
    (∀ s1, s.writeRange ctx va bytes = .ok s1 → exec (.hostMemoryWrite ctx va bytes) s = .next s1) ∧
    (∀ code sub a, s.writeRange ctx va bytes = .bad code sub a → exec (.hostMemoryWrite ctx va bytes) s = .next s) ∧
    (∃ s', exec (.peerPortRequest (.marker src path)) s = .next s' ∧
      tget 0 s'.pod.markers (src * 4 + path % 4) = tget 0 s.pod.markers (src * 4 + path % 4) + 1 ∧ s'.mem = s.mem ∧ s'.tasks = s.tasks) ∧
    (∀ (slot : Nat) (v : BitVec 32), ∃ s' m, exec (.peerPortRequest (.slotOp src ctx slot (.add v))) s = .next s' ∧
      (s'.core (slot / 64 % 1024)).inbox = (s.core (slot / 64 % 1024)).inbox ++ [m] ∧ m.slot = slot % 64 ∧ m.op = .add v ∧
      m.ctx = ctx ∧ m.src = .peer src ∧ m.due = s.dt.toNat + 1) ∧
    (∀ k e, (s.ctx ctx).lookup va = some (k, e) → e.kind = .unbacked →
      exec (.peerPortRequest (.discardPage ctx va)) s = .next (s.discardPage ctx (s.paOf e va / 65536)) ∧
      (s.discardPage ctx (s.paOf e va / 65536)).page ctx (s.paOf e va / 65536) = .untouched) ∧
    (chip ≤ 63 → s.fen.alive.getLsbD 6 = false → ∀ paths, exec (.routingTableUpdate (.route chip true paths)) s = .next s) ∧
    (chip ≤ 63 → ∀ (valid : Bool) (paths : BitVec 3), valid = false ∨ s.fen.alive.getLsbD 6 = true → exec (.routingTableUpdate (.route chip valid paths)) s =
      .next (({ s with pod := { s.pod with routes := tset (false, 0) s.pod.routes chip (valid, paths),
                                           members := if valid then s.pod.members ||| (1 <<< chip : BitVec 64) else s.pod.members } } : State)
        |>.choosePorts.flushPeers)) ∧
    (∀ k chips, k ≤ 15 → chips ≠ [] → chips.length ≤ 64 → (∀ c ∈ chips, c ≤ 63) → exec (.routingTableUpdate (.stripe k chips)) s =
      .next { s with pod := { s.pod with stripes := tset [] s.pod.stripes k chips } }) ∧
    (∀ id, exec (.routingTableUpdate (.chipId id)) s = .next { s with pod := { s.pod with chip := id } })

/-! ### Words, steps and invariants -/

/-- 04 R78-R98; 05; 06; 07; 08; 10; 11; 15-19: every well-formed core instruction has a word with each stop bit, which decodes to
it: no operand bit is dropped. -/
def Obligations.CoreRoundTrip : Prop :=
  ∀ (stop : Bool) (i : Instr), wellFormed i = true → i.legal ≠ .nowhere →
    ∃ w, encode stop i = some w ∧ decodeWord w = .ok i ∧ stopBit w = stop

/-- 04 R83, R84, R96: a word that decodes is the word of a well-formed instruction: each word has one meaning, and none with a
reserved bit set decodes.
10 R271; 15 R316: walker words and commands: a word decodes to an instruction exactly where it is that instruction's word. -/
def Obligations.CanonicalWords : Prop :=
  (∀ (w : Word) (i : Instr), decodeWord w = .ok i → wellFormed i = true ∧ encode (stopBit w) i = some w) ∧
  ((∀ (w : BitVec 16) (i : Instr), decodeWalker w = .ok i ↔ encodeWalker i = some w) ∧
      ∀ (w : BitVec 512) (i : Instr), decodeCommand w = some i ↔ encodeCommand i = some w)

/-- Words written out from the encodings of 05 R112-R137, 06, 08 R210, 09 R234, 10 R253, R271 and 15-19. -/
def Obligations.DecodedWords : Prop :=
  decodeWord 0x8000000000000000 = .ok .nop ∧
    decodeWord 0x820009F600000120 = .ok (.bext 9 61 32 4) ∧
    decodeWord 0x832500000000CDEF = .ok (.liN 9 0xCDEF) ∧
    decodeWord 0x84240123456789AB = .ok (.lui 9 0x0123456789AB) ∧
    decodeWord 0x860803120000000A = .ok (.cmp .ltI 3 4 (.imm 10)) ∧
    decodeWord 0x94000000FFFFFFFC = .ok (.loop (-4)) ∧
    decodeWord 0x96B0000000000000 = .ok (.bqpush 11) ∧
    decodeWord 0x9B240002000001FF = .ok (.srset 9 (.imm 511)) ∧
    decodeWord 0xAB00001040000012 = .ok (.vcvt { ty := 0, rnd := 0, sat := false, mask := 0 } (.slice 0 1 1) (.slice 0 0 0) 1 2) ∧
    decodeWord 0xD800014430000000 = .ok (.ld false 3 5 { wait := 0, base := 4, disp := 0 }) ∧
    decodeWord 0xE0004A2000000008 = .ok (.cpy { wait := 0, k := 2, rg := 20, kind := .sg, w := 0, waite := false, srcw := true, srcc := false } false) ∧
    decodeWord 0xFC00045150000000 = .ok (.ckpt 4 20 21) ∧
    decodeWalker 0x5000 = .ok .walkerHalt

/-- 04 R78, R83, R102; 01 R12: a step of an A-strand whose next group is one word with its stop bit runs the instruction that the
word decodes to: an instruction that waits leaves the task at its word, with what it has done for good where it keeps its slot; a
trap is what `exec` gives; otherwise the state that `exec` gives, with the group's marks cleared.
04 R78, R100-R103; 07 R172: a step of an X-strand with nothing in flight, whose next group is one word with its stop bit, runs the
instruction that the word decodes to in an issue cycle: a freeze leaves the task as it was, with the ports it waits on; a trap is
what `exec` gives at the boundary before the cycle; otherwise the state that `exec` gives, with the accesses due in the cycle
made; a flight of `mld` or `mst` carries its word.
10 R269-R271; 15 R314-R316: a step of a walk program runs the walker word at its PC; a step of a queue runs the command it has
read; and with no agent left in the tick the first of the events that the outside has listed is performed, the host's before those
of other devices, these in ascending chip id.
Which agent moves in a step is the model's own order: log 4 and 9. -/
def Obligations.StepRuns : Prop :=
  (∀ (s : State) (c : Nat) (rest : List Agent) (t : Task) (w : Word) (i : Instr), s.turn = .strand c .a :: rest →
      let s1 := ({ s with turn := rest } : State).at_ c (s.core c).bank .a
      let t1 := { t.onSt .a (fun st => { st with via := none }) with point := false, yielded := false }
      let s2 : State := { s1.putHere t1 with stall := none, trapped := false }
      let waits (u : Task) : Task := u.onA fun a => { a with group := slotBit w }
      s1.here = some t → t.susp = none → t.retiring = false → t.as.issued = 0 → t.a.ended = false → t.a.hold = none → t.slotStalled = false →
      t.as.gap = 0 → t.cancel = none → s1.fetchWord c t.who.ctx t.a.pc = .word w → stopBit w = true → decodeWord w = .ok i →
      groupIll t .a 0 [] [w] = none → scoreOk t1 i = true →
      ∀ s3, exec i s2 = .next s3 →
        (s3.stall.isSome = true → s3.stall ≠ some 5 → step s = .next (s1.putHere (waits t1)).settled) ∧
        (s3.stall = some 5 → ∀ u, s3.here = some u → u.as.issued = 0 →
          step s = .next (s3.putHere (waits (u.onSt .a fun st => { st with pc := t.a.pc }))).settled) ∧
        (s3.stall = none → s3.trapped = true → step s = .next s3.settled) ∧
        (s3.stall = none → s3.trapped = false → ∀ u, s3.here = some u → (∀ b, u.susp ≠ some (.back b)) →
          step s = .next (s3.putHere (u.onA fun a => { a with issued := 0, nextpc := none, group := 0 })).settled)) ∧
  (∀ (s : State) (c : Nat) (rest : List Agent) (t : Task) (w : Word) (i : Instr), s.turn = .strand c .x :: rest →
      let s1 := ({ s with turn := rest } : State).at_ c (s.core c).bank .x
      let t1 := t.onX fun x => { x with last := s1.cc }
      let t2 := t1.onX fun x => { x with ic := x.ic + 1, array := x.array - 1, touch := [], waits := 0 }
      let g : GWord := { pc := t.x.pc, w := w, i := some i }
      let named := t2.groupSlots [g]
      let at_ (u : Task) := (u.onSt .x fun st => { st with via := none }).onX fun x => { x with named := named }
      let s2 : State := { s1.putHere (at_ t1) with stall := none, trapped := false }
      let s3 : State := { s1.putHere (at_ t2) with stall := none, trapped := false }
      s1.here = some t → t.susp = none → t.cancel = none → t.x.ended = false → t.x.hold = none → t.xs.freeze = 0 → t.xs.gap = 0 → t.xs.flights = [] →
      s1.fetchWord c t.who.ctx t.x.pc = .word w → stopBit w = true → decodeWord w = .ok i → groupIll t2 .x 0 [] [w] = none →
      ∀ s4, exec i s3 = .next s4 →
        (∀ k, s4.stall = some k → k ≠ 2 → k ≠ 3 → k ≠ 5 → k % 16 ≠ 4 →
          step s = .next (s1.putHere (t1.onX fun x => { x with waits := BitVec.ofNat 12 (k / 16) })).settled) ∧
        (∀ s5 u v, s4.stall = none → s4.trapped = true → exec i s2 = .next s5 → s5.stall = none → s5.trapped = true → s4.here = some u →
          s5.here = some v → v.x.trap = u.x.trap → v.x.trappc = u.x.trappc → step s = .next s5.settled) ∧
        (∀ s5, s4.stall = none → s4.trapped = false → xEnd (s1.putHere t1) (s4.worded g) = .done s5 → step s = .next s5.settled)) ∧
  (∀ (s : State) (n : Nat) (rest : List Agent) (i : Instr),
      (∀ (e : Ev) (pre post : List Ev), s.turn = [] → s.agenda = pre ++ e :: post → (∀ x ∈ pre, e.rank < x.rank) → (∀ x ∈ post, e.rank ≤ x.rank) →
        ∀ s', exec e.i { s with agenda := pre ++ post, cur := e.cur, job := e.job } = .next s' → step s = .next s'.settled) ∧
      (s.turn = .walker n :: rest → ∀ (j : Job) (w : Walk), tfind s.jobs n = some j → j.walk = some w → j.st = .running →
        (s.ctx j.ctx).term = none → s.loadsBefore n j = false → w.launch = none → w.pc ≤ 255 →
        decodeWalker (tget 0 (s.cluster j.cluster).store (s.partition j.cluster j.ctx * 256 + w.pc)) = .ok i →
        ∀ s', exec i { s with turn := rest, job := n } = .next s' → step s = .next s'.settled) ∧
      (s.turn = .queue n :: rest → ∀ (x : CQueue) (r : Running), s.queue n = some x → x.run = some r → r.status = none →
        r.launch = none → s.workEnded r = none → s.nv.lcs ≠ 4 → commandOf r.op r.cmd = some i →
        ∀ s', exec i { s with turn := rest, fe := { s.fe with curq := n } } = .next s' → step s = .next s'.settled))

/-- The state after reset, as the spec gives it: DT 0; the mailboxes, the recovery registers and HBSTAT as 23 R460 and R464 give
them; no queue, launch, context or task; islands 0 to 15 on at 800 MHz and the others off (25 R485); the device in phase 0 (25
R484).
The zeros of those registers of a context that the spec does not give are the choice of the model: log 3. -/
def Obligations.ResetState : Prop :=
  State.reset.dt = 0 ∧ State.reset.tasks = [] ∧ State.reset.fe.queues = [] ∧ State.reset.fe.launches = [] ∧ State.reset.boot.phase = 0 ∧
    State.reset.fen.alive = 0xFF ∧ State.reset.fen.hung = 0 ∧ State.reset.fen.frozen = false ∧ State.reset.fen.hostmode = false ∧
    (∀ fn, State.reset.box fn = Mbox.zero) ∧ (∀ n, State.reset.ctx n = Ctx.zero) ∧
    (∀ cl, cl < 16 → (State.reset.cluster cl).on = true ∧ (State.reset.cluster cl).mhz = 800) ∧
    (∀ cl, 16 ≤ cl → (State.reset.cluster cl).on = false) ∧
    State.reset.ClassOk ∧ State.reset.Clear ∧ Memory.wf State.reset.mem

/-- 11 R295, 04 R83: after every step no task's CLASS.CUR is worse than its CLASS.SET, and no word's marks stand.
The marks are fields of the model: log 4. -/
def Obligations.StepInvariant : Prop :=
  ∀ s s' : State, s.ClassOk → s.Clear → step s = .next s' → s'.ClassOk ∧ s'.Clear

/-- 09 R220-R224, R230; 16 R350; 23 R467: memory is a function of the address after every step: it keeps the form in which each
address is listed at most once, in rising order, and none with what it reads as unwritten. The form is the model's own way of
writing memory down: log 1. -/
def Obligations.MemoryStaysCanonical : Prop :=
  ∀ s s' : State, Memory.wf s.mem → step s = .next s' → Memory.wf s'.mem
end

