-- ==== Sys2Proof/Laws/Tab.lean ====
section
/-! SUPPORT. The laws of sparse tables: what a read gives after a write, with no premise on the table, and that every
operation keeps the canonical form. -/

namespace Sys2Proof.Machine

/-! ### Reads after writes -/

@[simp] theorem tfind_tins {α : Type} (t : Tab α) (k j : Nat) (v : α) :
    tfind (tins t k v) j = if j = k then some v else tfind t j := by
  induction t with
  | nil => simp [tins, tfind]
  | cons e r ih => grind [tins, tfind]

@[simp] theorem tget_tins {α : Type} (d : α) (t : Tab α) (k j : Nat) (v : α) :
    tget d (tins t k v) j = if j = k then v else tget d t j := by
  induction t with
  | nil => simp [tins, tget]
  | cons e r ih => grind [tins, tget]

@[simp] theorem tget_tdel {α : Type} (d : α) (t : Tab α) (k j : Nat) :
    tget d (tdel t k) j = if j = k then d else tget d t j := by
  induction t with
  | nil => simp [tdel, tget]
  | cons e r ih => grind [tdel, tget]

@[simp] theorem tfind_tdel {α : Type} (t : Tab α) (k j : Nat) :
    tfind (tdel t k) j = if j = k then none else tfind t j := by
  induction t with
  | nil => simp [tdel, tfind]
  | cons e r ih => grind [tdel, tfind]

/-- A read after a write gives the value written, and every other number reads as before. -/
@[simp] theorem tget_tset {α : Type} [DecidableEq α] (d : α) (t : Tab α) (k j : Nat) (v : α) :
    tget d (tset d t k v) j = if j = k then v else tget d t j := by
  unfold tset
  split
  · next h => simp [h]
  · simp

theorem tins_tins {α : Type} (t : Tab α) (k : Nat) (v w : α) : tins (tins t k v) k w = tins t k w := by
  induction t with
  | nil => simp [tins]
  | cons e r ih => grind [tins]

@[simp] theorem tfind_tmap {α : Type} (t : Tab α) (f : Nat → α → α) (k : Nat) : tfind (tmap t f) k = (tfind t k).map (f k) := by
  induction t with
  | nil => simp [tmap, tfind]
  | cons e r ih => simp only [tmap, List.map, tfind] at *; split <;> simp_all

/-- A read of a value through the listed entry. -/
theorem tget_eq_tfind {α : Type} (d : α) (t : Tab α) (k : Nat) : tget d t k = (tfind t k).getD d := by
  induction t with
  | nil => rfl
  | cons e r ih => simp only [tget, tfind]; split <;> simp_all

@[simp] theorem tfind_tmod {α : Type} (t : Tab α) (k j : Nat) (f : α → α) :
    tfind (tmod t k f) j = if j = k then (tfind t k).map f else tfind t j := by
  unfold tmod
  split
  · next h => split <;> simp_all
  · next v h => simp [h]

@[simp] theorem tget_nil {α : Type} (d : α) (k : Nat) : tget d [] k = d := rfl
@[simp] theorem tfind_nil {α : Type} (k : Nat) : tfind ([] : Tab α) k = none := rfl

/-! ### The canonical form -/

theorem trising_mono {α : Type} (t : Tab α) (a b : Nat) (h : a ≤ b) (w : trising b t = true) : trising a t = true := by
  cases t with
  | nil => rfl
  | cons e r => simp [trising] at *; exact ⟨by omega, w.2⟩

theorem trising_tins {α : Type} (t : Tab α) (lo k : Nat) (v : α) (h : lo ≤ k) (w : trising lo t = true) :
    trising lo (tins t k v) = true := by
  induction t generalizing lo with
  | nil => simpa [tins, trising] using h
  | cons e r ih =>
    simp only [trising, Bool.and_eq_true, decide_eq_true_eq] at w
    simp only [tins]
    split
    · next hk => simp [trising, hk, w.2]; omega
    · split
      · simp [trising, h, w.2]; omega
      · simp [trising, w.1]; exact ih _ (by omega) w.2

theorem trising_tdel {α : Type} (t : Tab α) (lo k : Nat) (w : trising lo t = true) : trising lo (tdel t k) = true := by
  induction t generalizing lo with
  | nil => rfl
  | cons e r ih =>
    simp only [trising, Bool.and_eq_true, decide_eq_true_eq] at w
    simp only [tdel]
    split
    · exact trising_mono _ _ (e.1 + 1) (by omega) (ih _ w.2)
    · simp [trising, w.1, ih _ w.2]

theorem mem_tins {α : Type} (t : Tab α) (k : Nat) (v : α) (x : Nat × α) (h : x ∈ tins t k v) : x = (k, v) ∨ x ∈ t := by
  induction t with
  | nil => simpa [tins] using h
  | cons e r ih => grind [tins]

theorem mem_tdel {α : Type} (t : Tab α) (k : Nat) (x : Nat × α) (h : x ∈ tdel t k) : x ∈ t := by
  induction t with
  | nil => simp [tdel] at h
  | cons e r ih => grind [tdel]

/-- A write keeps the canonical form. -/
theorem twf_tset {α : Type} [DecidableEq α] (d : α) (t : Tab α) (k : Nat) (v : α) (w : twf d t = true) :
    twf d (tset d t k v) = true := by
  simp only [twf, Bool.and_eq_true, List.all_eq_true, decide_eq_true_eq] at *
  unfold tset
  split
  · exact ⟨trising_tdel t 0 k w.1, fun x hx => w.2 x (mem_tdel t k x hx)⟩
  · next hv =>
    refine ⟨trising_tins t 0 k v (Nat.zero_le k) w.1, fun x hx => ?_⟩
    rcases mem_tins t k v x hx with rfl | h
    · exact hv
    · exact w.2 x h

theorem trising_filter {α : Type} (t : Tab α) (p : Nat × α → Bool) (lo : Nat) (w : trising lo t = true) :
    trising lo (t.filter p) = true := by
  induction t generalizing lo with
  | nil => rfl
  | cons e r ih =>
    simp only [trising, Bool.and_eq_true, decide_eq_true_eq] at w
    simp only [List.filter]
    split
    · simp [trising, w.1, ih _ w.2]
    · exact trising_mono _ _ (e.1 + 1) (by omega) (ih _ w.2)

/-- Leaving entries out keeps the canonical form. -/
theorem twf_filter {α : Type} [DecidableEq α] (d : α) (t : Tab α) (p : Nat × α → Bool) (w : twf d t = true) :
    twf d (t.filter p) = true := by
  simp only [twf, Bool.and_eq_true, List.all_eq_true, decide_eq_true_eq] at *
  exact ⟨trising_filter t p 0 w.1, fun x hx => w.2 x (List.mem_filter.mp hx).1⟩

theorem trising_get {α : Type} (d : α) (t : Tab α) (lo k : Nat) (w : trising lo t = true) (h : k < lo) : tget d t k = d := by
  induction t generalizing lo with
  | nil => rfl
  | cons e r ih =>
    simp only [trising, Bool.and_eq_true, decide_eq_true_eq] at w
    simp only [tget]
    split
    · omega
    · exact ih _ w.2 (by omega)

/-- Equal reads mean equal tables. -/
theorem twf_ext {α : Type} [DecidableEq α] (d : α) (t u : Tab α) (wt : twf d t = true) (wu : twf d u = true)
    (h : ∀ k, tget d t k = tget d u k) : t = u := by
  simp only [twf, Bool.and_eq_true, List.all_eq_true, decide_eq_true_eq] at *
  obtain ⟨wt, nt⟩ := wt
  obtain ⟨wu, nu⟩ := wu
  generalize 0 = lo at wt wu
  induction t generalizing u lo with
  | nil =>
    cases u with
    | nil => rfl
    | cons e r => have := h e.1; have := nu e (by simp); simp_all [tget]
  | cons e r ih =>
    cases u with
    | nil => have := h e.1; have := nt e (by simp); simp_all [tget]
    | cons f q =>
      have w1 := wt
      have w2 := wu
      simp only [trising, Bool.and_eq_true, decide_eq_true_eq] at wt wu
      have a1 := nt e (by simp)
      have a2 := nu f (by simp)
      have k1 : e.1 = f.1 := by
        rcases Nat.lt_trichotomy e.1 f.1 with l | l | l
        · have g := h e.1
          rw [trising_get d (f :: q) f.1 e.1 (by simp [trising, wu.2]) l] at g
          simp [tget] at g
          exact absurd g a1
        · exact l
        · have g := h f.1
          rw [trising_get d (e :: r) e.1 f.1 (by simp [trising, wt.2]) l] at g
          simp [tget] at g
          exact absurd g.symm a2
      have k2 : e.2 = f.2 := by have g := h e.1; simp only [tget, k1, ↓reduceIte] at g; exact g
      have e1 : e = f := Prod.ext k1 k2
      subst e1
      congr 1
      refine ih q (fun k => ?_) (fun x hx => nt x (by simp [hx])) (fun x hx => nu x (by simp [hx])) (e.1 + 1) wt.2 wu.2
      by_cases l : k = e.1
      · rw [l, trising_get d r (e.1 + 1) e.1 wt.2 (by omega), trising_get d q (e.1 + 1) e.1 wu.2 (by omega)]
      · have g := h k
        simpa [tget, l] using g

end Sys2Proof.Machine
end

