-- ==== Sys2Proof/Laws/State.lean ====
section
/-! SUPPORT. What each named update of the state and of a task leaves in every field, and what the reads give after it. -/

namespace Sys2Proof.Machine

/-! ### State.putTask -/

@[simp] theorem State.putTask_dt (s : State) (core bank : Nat) (t : Task) : (s.putTask core bank t).dt = s.dt := rfl
@[simp] theorem State.putTask_tasks (s : State) (core bank : Nat) (t : Task) : (s.putTask core bank t).tasks = tins s.tasks (core * 2 + bank) t := rfl
@[simp] theorem State.putTask_retired (s : State) (core bank : Nat) (t : Task) : (s.putTask core bank t).retired = s.retired := rfl
@[simp] theorem State.putTask_cores (s : State) (core bank : Nat) (t : Task) : (s.putTask core bank t).cores = s.cores := rfl
@[simp] theorem State.putTask_clusters (s : State) (core bank : Nat) (t : Task) : (s.putTask core bank t).clusters = s.clusters := rfl
@[simp] theorem State.putTask_jobs (s : State) (core bank : Nat) (t : Task) : (s.putTask core bank t).jobs = s.jobs := rfl
@[simp] theorem State.putTask_mem (s : State) (core bank : Nat) (t : Task) : (s.putTask core bank t).mem = s.mem := rfl
@[simp] theorem State.putTask_l2 (s : State) (core bank : Nat) (t : Task) : (s.putTask core bank t).l2 = s.l2 := rfl
@[simp] theorem State.putTask_lines (s : State) (core bank : Nat) (t : Task) : (s.putTask core bank t).lines = s.lines := rfl
@[simp] theorem State.putTask_slow (s : State) (core bank : Nat) (t : Task) : (s.putTask core bank t).slow = s.slow := rfl
@[simp] theorem State.putTask_latent (s : State) (core bank : Nat) (t : Task) : (s.putTask core bank t).latent = s.latent := rfl
@[simp] theorem State.putTask_poison (s : State) (core bank : Nat) (t : Task) : (s.putTask core bank t).poison = s.poison := rfl
@[simp] theorem State.putTask_ctxs (s : State) (core bank : Nat) (t : Task) : (s.putTask core bank t).ctxs = s.ctxs := rfl
@[simp] theorem State.putTask_fe (s : State) (core bank : Nat) (t : Task) : (s.putTask core bank t).fe = s.fe := rfl
@[simp] theorem State.putTask_streams (s : State) (core bank : Nat) (t : Task) : (s.putTask core bank t).streams = s.streams := rfl
@[simp] theorem State.putTask_decoders (s : State) (core bank : Nat) (t : Task) : (s.putTask core bank t).decoders = s.decoders := rfl
@[simp] theorem State.putTask_sorrel (s : State) (core bank : Nat) (t : Task) : (s.putTask core bank t).sorrel = s.sorrel := rfl
@[simp] theorem State.putTask_groups (s : State) (core bank : Nat) (t : Task) : (s.putTask core bank t).groups = s.groups := rfl
@[simp] theorem State.putTask_opens (s : State) (core bank : Nat) (t : Task) : (s.putTask core bank t).opens = s.opens := rfl
@[simp] theorem State.putTask_posts (s : State) (core bank : Nat) (t : Task) : (s.putTask core bank t).posts = s.posts := rfl
@[simp] theorem State.putTask_fen (s : State) (core bank : Nat) (t : Task) : (s.putTask core bank t).fen = s.fen := rfl
@[simp] theorem State.putTask_boot (s : State) (core bank : Nat) (t : Task) : (s.putTask core bank t).boot = s.boot := rfl
@[simp] theorem State.putTask_nv (s : State) (core bank : Nat) (t : Task) : (s.putTask core bank t).nv = s.nv := rfl
@[simp] theorem State.putTask_pod (s : State) (core bank : Nat) (t : Task) : (s.putTask core bank t).pod = s.pod := rfl
@[simp] theorem State.putTask_cur (s : State) (core bank : Nat) (t : Task) : (s.putTask core bank t).cur = s.cur := rfl
@[simp] theorem State.putTask_job (s : State) (core bank : Nat) (t : Task) : (s.putTask core bank t).job = s.job := rfl
@[simp] theorem State.putTask_stall (s : State) (core bank : Nat) (t : Task) : (s.putTask core bank t).stall = s.stall := rfl
@[simp] theorem State.putTask_trapped (s : State) (core bank : Nat) (t : Task) : (s.putTask core bank t).trapped = s.trapped := rfl
@[simp] theorem State.putTask_agenda (s : State) (core bank : Nat) (t : Task) : (s.putTask core bank t).agenda = s.agenda := rfl
@[simp] theorem State.putTask_turn (s : State) (core bank : Nat) (t : Task) : (s.putTask core bank t).turn = s.turn := rfl
@[simp] theorem State.putTask_fresh (s : State) (core bank : Nat) (t : Task) : (s.putTask core bank t).fresh = s.fresh := rfl
@[simp] theorem State.putTask_nextJob (s : State) (core bank : Nat) (t : Task) : (s.putTask core bank t).nextJob = s.nextJob := rfl

/-! ### State.putHere -/

@[simp] theorem State.putHere_dt (s : State) (t : Task) : (s.putHere t).dt = s.dt := rfl
@[simp] theorem State.putHere_tasks (s : State) (t : Task) : (s.putHere t).tasks = tins s.tasks s.cur.key t := rfl
@[simp] theorem State.putHere_retired (s : State) (t : Task) : (s.putHere t).retired = s.retired := rfl
@[simp] theorem State.putHere_cores (s : State) (t : Task) : (s.putHere t).cores = s.cores := rfl
@[simp] theorem State.putHere_clusters (s : State) (t : Task) : (s.putHere t).clusters = s.clusters := rfl
@[simp] theorem State.putHere_jobs (s : State) (t : Task) : (s.putHere t).jobs = s.jobs := rfl
@[simp] theorem State.putHere_mem (s : State) (t : Task) : (s.putHere t).mem = s.mem := rfl
@[simp] theorem State.putHere_l2 (s : State) (t : Task) : (s.putHere t).l2 = s.l2 := rfl
@[simp] theorem State.putHere_lines (s : State) (t : Task) : (s.putHere t).lines = s.lines := rfl
@[simp] theorem State.putHere_slow (s : State) (t : Task) : (s.putHere t).slow = s.slow := rfl
@[simp] theorem State.putHere_latent (s : State) (t : Task) : (s.putHere t).latent = s.latent := rfl
@[simp] theorem State.putHere_poison (s : State) (t : Task) : (s.putHere t).poison = s.poison := rfl
@[simp] theorem State.putHere_ctxs (s : State) (t : Task) : (s.putHere t).ctxs = s.ctxs := rfl
@[simp] theorem State.putHere_fe (s : State) (t : Task) : (s.putHere t).fe = s.fe := rfl
@[simp] theorem State.putHere_streams (s : State) (t : Task) : (s.putHere t).streams = s.streams := rfl
@[simp] theorem State.putHere_decoders (s : State) (t : Task) : (s.putHere t).decoders = s.decoders := rfl
@[simp] theorem State.putHere_sorrel (s : State) (t : Task) : (s.putHere t).sorrel = s.sorrel := rfl
@[simp] theorem State.putHere_groups (s : State) (t : Task) : (s.putHere t).groups = s.groups := rfl
@[simp] theorem State.putHere_opens (s : State) (t : Task) : (s.putHere t).opens = s.opens := rfl
@[simp] theorem State.putHere_posts (s : State) (t : Task) : (s.putHere t).posts = s.posts := rfl
@[simp] theorem State.putHere_fen (s : State) (t : Task) : (s.putHere t).fen = s.fen := rfl
@[simp] theorem State.putHere_boot (s : State) (t : Task) : (s.putHere t).boot = s.boot := rfl
@[simp] theorem State.putHere_nv (s : State) (t : Task) : (s.putHere t).nv = s.nv := rfl
@[simp] theorem State.putHere_pod (s : State) (t : Task) : (s.putHere t).pod = s.pod := rfl
@[simp] theorem State.putHere_cur (s : State) (t : Task) : (s.putHere t).cur = s.cur := rfl
@[simp] theorem State.putHere_job (s : State) (t : Task) : (s.putHere t).job = s.job := rfl
@[simp] theorem State.putHere_stall (s : State) (t : Task) : (s.putHere t).stall = s.stall := rfl
@[simp] theorem State.putHere_trapped (s : State) (t : Task) : (s.putHere t).trapped = s.trapped := rfl
@[simp] theorem State.putHere_agenda (s : State) (t : Task) : (s.putHere t).agenda = s.agenda := rfl
@[simp] theorem State.putHere_turn (s : State) (t : Task) : (s.putHere t).turn = s.turn := rfl
@[simp] theorem State.putHere_fresh (s : State) (t : Task) : (s.putHere t).fresh = s.fresh := rfl
@[simp] theorem State.putHere_nextJob (s : State) (t : Task) : (s.putHere t).nextJob = s.nextJob := rfl

/-! ### State.putCore -/

@[simp] theorem State.putCore_dt (s : State) (n : Nat) (c : Core) : (s.putCore n c).dt = s.dt := rfl
@[simp] theorem State.putCore_tasks (s : State) (n : Nat) (c : Core) : (s.putCore n c).tasks = s.tasks := rfl
@[simp] theorem State.putCore_retired (s : State) (n : Nat) (c : Core) : (s.putCore n c).retired = s.retired := rfl
@[simp] theorem State.putCore_cores (s : State) (n : Nat) (c : Core) : (s.putCore n c).cores = tset Core.zero s.cores n c := rfl
@[simp] theorem State.putCore_clusters (s : State) (n : Nat) (c : Core) : (s.putCore n c).clusters = s.clusters := rfl
@[simp] theorem State.putCore_jobs (s : State) (n : Nat) (c : Core) : (s.putCore n c).jobs = s.jobs := rfl
@[simp] theorem State.putCore_mem (s : State) (n : Nat) (c : Core) : (s.putCore n c).mem = s.mem := rfl
@[simp] theorem State.putCore_l2 (s : State) (n : Nat) (c : Core) : (s.putCore n c).l2 = s.l2 := rfl
@[simp] theorem State.putCore_lines (s : State) (n : Nat) (c : Core) : (s.putCore n c).lines = s.lines := rfl
@[simp] theorem State.putCore_slow (s : State) (n : Nat) (c : Core) : (s.putCore n c).slow = s.slow := rfl
@[simp] theorem State.putCore_latent (s : State) (n : Nat) (c : Core) : (s.putCore n c).latent = s.latent := rfl
@[simp] theorem State.putCore_poison (s : State) (n : Nat) (c : Core) : (s.putCore n c).poison = s.poison := rfl
@[simp] theorem State.putCore_ctxs (s : State) (n : Nat) (c : Core) : (s.putCore n c).ctxs = s.ctxs := rfl
@[simp] theorem State.putCore_fe (s : State) (n : Nat) (c : Core) : (s.putCore n c).fe = s.fe := rfl
@[simp] theorem State.putCore_streams (s : State) (n : Nat) (c : Core) : (s.putCore n c).streams = s.streams := rfl
@[simp] theorem State.putCore_decoders (s : State) (n : Nat) (c : Core) : (s.putCore n c).decoders = s.decoders := rfl
@[simp] theorem State.putCore_sorrel (s : State) (n : Nat) (c : Core) : (s.putCore n c).sorrel = s.sorrel := rfl
@[simp] theorem State.putCore_groups (s : State) (n : Nat) (c : Core) : (s.putCore n c).groups = s.groups := rfl
@[simp] theorem State.putCore_opens (s : State) (n : Nat) (c : Core) : (s.putCore n c).opens = s.opens := rfl
@[simp] theorem State.putCore_posts (s : State) (n : Nat) (c : Core) : (s.putCore n c).posts = s.posts := rfl
@[simp] theorem State.putCore_fen (s : State) (n : Nat) (c : Core) : (s.putCore n c).fen = s.fen := rfl
@[simp] theorem State.putCore_boot (s : State) (n : Nat) (c : Core) : (s.putCore n c).boot = s.boot := rfl
@[simp] theorem State.putCore_nv (s : State) (n : Nat) (c : Core) : (s.putCore n c).nv = s.nv := rfl
@[simp] theorem State.putCore_pod (s : State) (n : Nat) (c : Core) : (s.putCore n c).pod = s.pod := rfl
@[simp] theorem State.putCore_cur (s : State) (n : Nat) (c : Core) : (s.putCore n c).cur = s.cur := rfl
@[simp] theorem State.putCore_job (s : State) (n : Nat) (c : Core) : (s.putCore n c).job = s.job := rfl
@[simp] theorem State.putCore_stall (s : State) (n : Nat) (c : Core) : (s.putCore n c).stall = s.stall := rfl
@[simp] theorem State.putCore_trapped (s : State) (n : Nat) (c : Core) : (s.putCore n c).trapped = s.trapped := rfl
@[simp] theorem State.putCore_agenda (s : State) (n : Nat) (c : Core) : (s.putCore n c).agenda = s.agenda := rfl
@[simp] theorem State.putCore_turn (s : State) (n : Nat) (c : Core) : (s.putCore n c).turn = s.turn := rfl
@[simp] theorem State.putCore_fresh (s : State) (n : Nat) (c : Core) : (s.putCore n c).fresh = s.fresh := rfl
@[simp] theorem State.putCore_nextJob (s : State) (n : Nat) (c : Core) : (s.putCore n c).nextJob = s.nextJob := rfl

/-! ### State.putCluster -/

@[simp] theorem State.putCluster_dt (s : State) (n : Nat) (c : Cluster) : (s.putCluster n c).dt = s.dt := rfl
@[simp] theorem State.putCluster_tasks (s : State) (n : Nat) (c : Cluster) : (s.putCluster n c).tasks = s.tasks := rfl
@[simp] theorem State.putCluster_retired (s : State) (n : Nat) (c : Cluster) : (s.putCluster n c).retired = s.retired := rfl
@[simp] theorem State.putCluster_cores (s : State) (n : Nat) (c : Cluster) : (s.putCluster n c).cores = s.cores := rfl
@[simp] theorem State.putCluster_clusters (s : State) (n : Nat) (c : Cluster) : (s.putCluster n c).clusters = tset (Cluster.zero false) s.clusters n c := rfl
@[simp] theorem State.putCluster_jobs (s : State) (n : Nat) (c : Cluster) : (s.putCluster n c).jobs = s.jobs := rfl
@[simp] theorem State.putCluster_mem (s : State) (n : Nat) (c : Cluster) : (s.putCluster n c).mem = s.mem := rfl
@[simp] theorem State.putCluster_l2 (s : State) (n : Nat) (c : Cluster) : (s.putCluster n c).l2 = s.l2 := rfl
@[simp] theorem State.putCluster_lines (s : State) (n : Nat) (c : Cluster) : (s.putCluster n c).lines = s.lines := rfl
@[simp] theorem State.putCluster_slow (s : State) (n : Nat) (c : Cluster) : (s.putCluster n c).slow = s.slow := rfl
@[simp] theorem State.putCluster_latent (s : State) (n : Nat) (c : Cluster) : (s.putCluster n c).latent = s.latent := rfl
@[simp] theorem State.putCluster_poison (s : State) (n : Nat) (c : Cluster) : (s.putCluster n c).poison = s.poison := rfl
@[simp] theorem State.putCluster_ctxs (s : State) (n : Nat) (c : Cluster) : (s.putCluster n c).ctxs = s.ctxs := rfl
@[simp] theorem State.putCluster_fe (s : State) (n : Nat) (c : Cluster) : (s.putCluster n c).fe = s.fe := rfl
@[simp] theorem State.putCluster_streams (s : State) (n : Nat) (c : Cluster) : (s.putCluster n c).streams = s.streams := rfl
@[simp] theorem State.putCluster_decoders (s : State) (n : Nat) (c : Cluster) : (s.putCluster n c).decoders = s.decoders := rfl
@[simp] theorem State.putCluster_sorrel (s : State) (n : Nat) (c : Cluster) : (s.putCluster n c).sorrel = s.sorrel := rfl
@[simp] theorem State.putCluster_groups (s : State) (n : Nat) (c : Cluster) : (s.putCluster n c).groups = s.groups := rfl
@[simp] theorem State.putCluster_opens (s : State) (n : Nat) (c : Cluster) : (s.putCluster n c).opens = s.opens := rfl
@[simp] theorem State.putCluster_posts (s : State) (n : Nat) (c : Cluster) : (s.putCluster n c).posts = s.posts := rfl
@[simp] theorem State.putCluster_fen (s : State) (n : Nat) (c : Cluster) : (s.putCluster n c).fen = s.fen := rfl
@[simp] theorem State.putCluster_boot (s : State) (n : Nat) (c : Cluster) : (s.putCluster n c).boot = s.boot := rfl
@[simp] theorem State.putCluster_nv (s : State) (n : Nat) (c : Cluster) : (s.putCluster n c).nv = s.nv := rfl
@[simp] theorem State.putCluster_pod (s : State) (n : Nat) (c : Cluster) : (s.putCluster n c).pod = s.pod := rfl
@[simp] theorem State.putCluster_cur (s : State) (n : Nat) (c : Cluster) : (s.putCluster n c).cur = s.cur := rfl
@[simp] theorem State.putCluster_job (s : State) (n : Nat) (c : Cluster) : (s.putCluster n c).job = s.job := rfl
@[simp] theorem State.putCluster_stall (s : State) (n : Nat) (c : Cluster) : (s.putCluster n c).stall = s.stall := rfl
@[simp] theorem State.putCluster_trapped (s : State) (n : Nat) (c : Cluster) : (s.putCluster n c).trapped = s.trapped := rfl
@[simp] theorem State.putCluster_agenda (s : State) (n : Nat) (c : Cluster) : (s.putCluster n c).agenda = s.agenda := rfl
@[simp] theorem State.putCluster_turn (s : State) (n : Nat) (c : Cluster) : (s.putCluster n c).turn = s.turn := rfl
@[simp] theorem State.putCluster_fresh (s : State) (n : Nat) (c : Cluster) : (s.putCluster n c).fresh = s.fresh := rfl
@[simp] theorem State.putCluster_nextJob (s : State) (n : Nat) (c : Cluster) : (s.putCluster n c).nextJob = s.nextJob := rfl

/-! ### State.putCtx -/

@[simp] theorem State.putCtx_dt (s : State) (n : Nat) (c : Ctx) : (s.putCtx n c).dt = s.dt := rfl
@[simp] theorem State.putCtx_tasks (s : State) (n : Nat) (c : Ctx) : (s.putCtx n c).tasks = s.tasks := rfl
@[simp] theorem State.putCtx_retired (s : State) (n : Nat) (c : Ctx) : (s.putCtx n c).retired = s.retired := rfl
@[simp] theorem State.putCtx_cores (s : State) (n : Nat) (c : Ctx) : (s.putCtx n c).cores = s.cores := rfl
@[simp] theorem State.putCtx_clusters (s : State) (n : Nat) (c : Ctx) : (s.putCtx n c).clusters = s.clusters := rfl
@[simp] theorem State.putCtx_jobs (s : State) (n : Nat) (c : Ctx) : (s.putCtx n c).jobs = s.jobs := rfl
@[simp] theorem State.putCtx_mem (s : State) (n : Nat) (c : Ctx) : (s.putCtx n c).mem = s.mem := rfl
@[simp] theorem State.putCtx_l2 (s : State) (n : Nat) (c : Ctx) : (s.putCtx n c).l2 = s.l2 := rfl
@[simp] theorem State.putCtx_lines (s : State) (n : Nat) (c : Ctx) : (s.putCtx n c).lines = s.lines := rfl
@[simp] theorem State.putCtx_slow (s : State) (n : Nat) (c : Ctx) : (s.putCtx n c).slow = s.slow := rfl
@[simp] theorem State.putCtx_latent (s : State) (n : Nat) (c : Ctx) : (s.putCtx n c).latent = s.latent := rfl
@[simp] theorem State.putCtx_poison (s : State) (n : Nat) (c : Ctx) : (s.putCtx n c).poison = s.poison := rfl
@[simp] theorem State.putCtx_ctxs (s : State) (n : Nat) (c : Ctx) : (s.putCtx n c).ctxs = tset Ctx.zero s.ctxs n c := rfl
@[simp] theorem State.putCtx_fe (s : State) (n : Nat) (c : Ctx) : (s.putCtx n c).fe = s.fe := rfl
@[simp] theorem State.putCtx_streams (s : State) (n : Nat) (c : Ctx) : (s.putCtx n c).streams = s.streams := rfl
@[simp] theorem State.putCtx_decoders (s : State) (n : Nat) (c : Ctx) : (s.putCtx n c).decoders = s.decoders := rfl
@[simp] theorem State.putCtx_sorrel (s : State) (n : Nat) (c : Ctx) : (s.putCtx n c).sorrel = s.sorrel := rfl
@[simp] theorem State.putCtx_groups (s : State) (n : Nat) (c : Ctx) : (s.putCtx n c).groups = s.groups := rfl
@[simp] theorem State.putCtx_opens (s : State) (n : Nat) (c : Ctx) : (s.putCtx n c).opens = s.opens := rfl
@[simp] theorem State.putCtx_posts (s : State) (n : Nat) (c : Ctx) : (s.putCtx n c).posts = s.posts := rfl
@[simp] theorem State.putCtx_fen (s : State) (n : Nat) (c : Ctx) : (s.putCtx n c).fen = s.fen := rfl
@[simp] theorem State.putCtx_boot (s : State) (n : Nat) (c : Ctx) : (s.putCtx n c).boot = s.boot := rfl
@[simp] theorem State.putCtx_nv (s : State) (n : Nat) (c : Ctx) : (s.putCtx n c).nv = s.nv := rfl
@[simp] theorem State.putCtx_pod (s : State) (n : Nat) (c : Ctx) : (s.putCtx n c).pod = s.pod := rfl
@[simp] theorem State.putCtx_cur (s : State) (n : Nat) (c : Ctx) : (s.putCtx n c).cur = s.cur := rfl
@[simp] theorem State.putCtx_job (s : State) (n : Nat) (c : Ctx) : (s.putCtx n c).job = s.job := rfl
@[simp] theorem State.putCtx_stall (s : State) (n : Nat) (c : Ctx) : (s.putCtx n c).stall = s.stall := rfl
@[simp] theorem State.putCtx_trapped (s : State) (n : Nat) (c : Ctx) : (s.putCtx n c).trapped = s.trapped := rfl
@[simp] theorem State.putCtx_agenda (s : State) (n : Nat) (c : Ctx) : (s.putCtx n c).agenda = s.agenda := rfl
@[simp] theorem State.putCtx_turn (s : State) (n : Nat) (c : Ctx) : (s.putCtx n c).turn = s.turn := rfl
@[simp] theorem State.putCtx_fresh (s : State) (n : Nat) (c : Ctx) : (s.putCtx n c).fresh = s.fresh := rfl
@[simp] theorem State.putCtx_nextJob (s : State) (n : Nat) (c : Ctx) : (s.putCtx n c).nextJob = s.nextJob := rfl

/-! ### State.at_ -/

@[simp] theorem State.at__dt (s : State) (core bank : Nat) (sd : Side) : (s.at_ core bank sd).dt = s.dt := rfl
@[simp] theorem State.at__tasks (s : State) (core bank : Nat) (sd : Side) : (s.at_ core bank sd).tasks = s.tasks := rfl
@[simp] theorem State.at__retired (s : State) (core bank : Nat) (sd : Side) : (s.at_ core bank sd).retired = s.retired := rfl
@[simp] theorem State.at__cores (s : State) (core bank : Nat) (sd : Side) : (s.at_ core bank sd).cores = s.cores := rfl
@[simp] theorem State.at__clusters (s : State) (core bank : Nat) (sd : Side) : (s.at_ core bank sd).clusters = s.clusters := rfl
@[simp] theorem State.at__jobs (s : State) (core bank : Nat) (sd : Side) : (s.at_ core bank sd).jobs = s.jobs := rfl
@[simp] theorem State.at__mem (s : State) (core bank : Nat) (sd : Side) : (s.at_ core bank sd).mem = s.mem := rfl
@[simp] theorem State.at__l2 (s : State) (core bank : Nat) (sd : Side) : (s.at_ core bank sd).l2 = s.l2 := rfl
@[simp] theorem State.at__lines (s : State) (core bank : Nat) (sd : Side) : (s.at_ core bank sd).lines = s.lines := rfl
@[simp] theorem State.at__slow (s : State) (core bank : Nat) (sd : Side) : (s.at_ core bank sd).slow = s.slow := rfl
@[simp] theorem State.at__latent (s : State) (core bank : Nat) (sd : Side) : (s.at_ core bank sd).latent = s.latent := rfl
@[simp] theorem State.at__poison (s : State) (core bank : Nat) (sd : Side) : (s.at_ core bank sd).poison = s.poison := rfl
@[simp] theorem State.at__ctxs (s : State) (core bank : Nat) (sd : Side) : (s.at_ core bank sd).ctxs = s.ctxs := rfl
@[simp] theorem State.at__fe (s : State) (core bank : Nat) (sd : Side) : (s.at_ core bank sd).fe = s.fe := rfl
@[simp] theorem State.at__streams (s : State) (core bank : Nat) (sd : Side) : (s.at_ core bank sd).streams = s.streams := rfl
@[simp] theorem State.at__decoders (s : State) (core bank : Nat) (sd : Side) : (s.at_ core bank sd).decoders = s.decoders := rfl
@[simp] theorem State.at__sorrel (s : State) (core bank : Nat) (sd : Side) : (s.at_ core bank sd).sorrel = s.sorrel := rfl
@[simp] theorem State.at__groups (s : State) (core bank : Nat) (sd : Side) : (s.at_ core bank sd).groups = s.groups := rfl
@[simp] theorem State.at__opens (s : State) (core bank : Nat) (sd : Side) : (s.at_ core bank sd).opens = s.opens := rfl
@[simp] theorem State.at__posts (s : State) (core bank : Nat) (sd : Side) : (s.at_ core bank sd).posts = s.posts := rfl
@[simp] theorem State.at__fen (s : State) (core bank : Nat) (sd : Side) : (s.at_ core bank sd).fen = s.fen := rfl
@[simp] theorem State.at__boot (s : State) (core bank : Nat) (sd : Side) : (s.at_ core bank sd).boot = s.boot := rfl
@[simp] theorem State.at__nv (s : State) (core bank : Nat) (sd : Side) : (s.at_ core bank sd).nv = s.nv := rfl
@[simp] theorem State.at__pod (s : State) (core bank : Nat) (sd : Side) : (s.at_ core bank sd).pod = s.pod := rfl
@[simp] theorem State.at__cur (s : State) (core bank : Nat) (sd : Side) : (s.at_ core bank sd).cur = { core := core, bank := bank, side := sd } := rfl
@[simp] theorem State.at__job (s : State) (core bank : Nat) (sd : Side) : (s.at_ core bank sd).job = s.job := rfl
@[simp] theorem State.at__stall (s : State) (core bank : Nat) (sd : Side) : (s.at_ core bank sd).stall = s.stall := rfl
@[simp] theorem State.at__trapped (s : State) (core bank : Nat) (sd : Side) : (s.at_ core bank sd).trapped = s.trapped := rfl
@[simp] theorem State.at__agenda (s : State) (core bank : Nat) (sd : Side) : (s.at_ core bank sd).agenda = s.agenda := rfl
@[simp] theorem State.at__turn (s : State) (core bank : Nat) (sd : Side) : (s.at_ core bank sd).turn = s.turn := rfl
@[simp] theorem State.at__fresh (s : State) (core bank : Nat) (sd : Side) : (s.at_ core bank sd).fresh = s.fresh := rfl
@[simp] theorem State.at__nextJob (s : State) (core bank : Nat) (sd : Side) : (s.at_ core bank sd).nextJob = s.nextJob := rfl

/-! ### State.wait -/

@[simp] theorem State.wait_dt (s : State) (why : Nat) : (s.wait why).dt = s.dt := rfl
@[simp] theorem State.wait_tasks (s : State) (why : Nat) : (s.wait why).tasks = s.tasks := rfl
@[simp] theorem State.wait_retired (s : State) (why : Nat) : (s.wait why).retired = s.retired := rfl
@[simp] theorem State.wait_cores (s : State) (why : Nat) : (s.wait why).cores = s.cores := rfl
@[simp] theorem State.wait_clusters (s : State) (why : Nat) : (s.wait why).clusters = s.clusters := rfl
@[simp] theorem State.wait_jobs (s : State) (why : Nat) : (s.wait why).jobs = s.jobs := rfl
@[simp] theorem State.wait_mem (s : State) (why : Nat) : (s.wait why).mem = s.mem := rfl
@[simp] theorem State.wait_l2 (s : State) (why : Nat) : (s.wait why).l2 = s.l2 := rfl
@[simp] theorem State.wait_lines (s : State) (why : Nat) : (s.wait why).lines = s.lines := rfl
@[simp] theorem State.wait_slow (s : State) (why : Nat) : (s.wait why).slow = s.slow := rfl
@[simp] theorem State.wait_latent (s : State) (why : Nat) : (s.wait why).latent = s.latent := rfl
@[simp] theorem State.wait_poison (s : State) (why : Nat) : (s.wait why).poison = s.poison := rfl
@[simp] theorem State.wait_ctxs (s : State) (why : Nat) : (s.wait why).ctxs = s.ctxs := rfl
@[simp] theorem State.wait_fe (s : State) (why : Nat) : (s.wait why).fe = s.fe := rfl
@[simp] theorem State.wait_streams (s : State) (why : Nat) : (s.wait why).streams = s.streams := rfl
@[simp] theorem State.wait_decoders (s : State) (why : Nat) : (s.wait why).decoders = s.decoders := rfl
@[simp] theorem State.wait_sorrel (s : State) (why : Nat) : (s.wait why).sorrel = s.sorrel := rfl
@[simp] theorem State.wait_groups (s : State) (why : Nat) : (s.wait why).groups = s.groups := rfl
@[simp] theorem State.wait_opens (s : State) (why : Nat) : (s.wait why).opens = s.opens := rfl
@[simp] theorem State.wait_posts (s : State) (why : Nat) : (s.wait why).posts = s.posts := rfl
@[simp] theorem State.wait_fen (s : State) (why : Nat) : (s.wait why).fen = s.fen := rfl
@[simp] theorem State.wait_boot (s : State) (why : Nat) : (s.wait why).boot = s.boot := rfl
@[simp] theorem State.wait_nv (s : State) (why : Nat) : (s.wait why).nv = s.nv := rfl
@[simp] theorem State.wait_pod (s : State) (why : Nat) : (s.wait why).pod = s.pod := rfl
@[simp] theorem State.wait_cur (s : State) (why : Nat) : (s.wait why).cur = s.cur := rfl
@[simp] theorem State.wait_job (s : State) (why : Nat) : (s.wait why).job = s.job := rfl
@[simp] theorem State.wait_stall (s : State) (why : Nat) : (s.wait why).stall = some why := rfl
@[simp] theorem State.wait_trapped (s : State) (why : Nat) : (s.wait why).trapped = s.trapped := rfl
@[simp] theorem State.wait_agenda (s : State) (why : Nat) : (s.wait why).agenda = s.agenda := rfl
@[simp] theorem State.wait_turn (s : State) (why : Nat) : (s.wait why).turn = s.turn := rfl
@[simp] theorem State.wait_fresh (s : State) (why : Nat) : (s.wait why).fresh = s.fresh := rfl
@[simp] theorem State.wait_nextJob (s : State) (why : Nat) : (s.wait why).nextJob = s.nextJob := rfl

/-! ### State.putBox -/

@[simp] theorem State.putBox_dt (s : State) (fn : Nat) (b : Mbox) : (s.putBox fn b).dt = s.dt := rfl
@[simp] theorem State.putBox_tasks (s : State) (fn : Nat) (b : Mbox) : (s.putBox fn b).tasks = s.tasks := rfl
@[simp] theorem State.putBox_retired (s : State) (fn : Nat) (b : Mbox) : (s.putBox fn b).retired = s.retired := rfl
@[simp] theorem State.putBox_cores (s : State) (fn : Nat) (b : Mbox) : (s.putBox fn b).cores = s.cores := rfl
@[simp] theorem State.putBox_clusters (s : State) (fn : Nat) (b : Mbox) : (s.putBox fn b).clusters = s.clusters := rfl
@[simp] theorem State.putBox_jobs (s : State) (fn : Nat) (b : Mbox) : (s.putBox fn b).jobs = s.jobs := rfl
@[simp] theorem State.putBox_mem (s : State) (fn : Nat) (b : Mbox) : (s.putBox fn b).mem = s.mem := rfl
@[simp] theorem State.putBox_l2 (s : State) (fn : Nat) (b : Mbox) : (s.putBox fn b).l2 = s.l2 := rfl
@[simp] theorem State.putBox_lines (s : State) (fn : Nat) (b : Mbox) : (s.putBox fn b).lines = s.lines := rfl
@[simp] theorem State.putBox_slow (s : State) (fn : Nat) (b : Mbox) : (s.putBox fn b).slow = s.slow := rfl
@[simp] theorem State.putBox_latent (s : State) (fn : Nat) (b : Mbox) : (s.putBox fn b).latent = s.latent := rfl
@[simp] theorem State.putBox_poison (s : State) (fn : Nat) (b : Mbox) : (s.putBox fn b).poison = s.poison := rfl
@[simp] theorem State.putBox_ctxs (s : State) (fn : Nat) (b : Mbox) : (s.putBox fn b).ctxs = s.ctxs := rfl
@[simp] theorem State.putBox_fe (s : State) (fn : Nat) (b : Mbox) : (s.putBox fn b).fe = s.fe := rfl
@[simp] theorem State.putBox_streams (s : State) (fn : Nat) (b : Mbox) : (s.putBox fn b).streams = s.streams := rfl
@[simp] theorem State.putBox_decoders (s : State) (fn : Nat) (b : Mbox) : (s.putBox fn b).decoders = s.decoders := rfl
@[simp] theorem State.putBox_sorrel (s : State) (fn : Nat) (b : Mbox) : (s.putBox fn b).sorrel = s.sorrel := rfl
@[simp] theorem State.putBox_groups (s : State) (fn : Nat) (b : Mbox) : (s.putBox fn b).groups = s.groups := rfl
@[simp] theorem State.putBox_opens (s : State) (fn : Nat) (b : Mbox) : (s.putBox fn b).opens = s.opens := rfl
@[simp] theorem State.putBox_posts (s : State) (fn : Nat) (b : Mbox) : (s.putBox fn b).posts = s.posts := rfl
@[simp] theorem State.putBox_fen (s : State) (fn : Nat) (b : Mbox) : (s.putBox fn b).fen = { s.fen with boxes := tset Mbox.zero s.fen.boxes fn b } := rfl
@[simp] theorem State.putBox_boot (s : State) (fn : Nat) (b : Mbox) : (s.putBox fn b).boot = s.boot := rfl
@[simp] theorem State.putBox_nv (s : State) (fn : Nat) (b : Mbox) : (s.putBox fn b).nv = s.nv := rfl
@[simp] theorem State.putBox_pod (s : State) (fn : Nat) (b : Mbox) : (s.putBox fn b).pod = s.pod := rfl
@[simp] theorem State.putBox_cur (s : State) (fn : Nat) (b : Mbox) : (s.putBox fn b).cur = s.cur := rfl
@[simp] theorem State.putBox_job (s : State) (fn : Nat) (b : Mbox) : (s.putBox fn b).job = s.job := rfl
@[simp] theorem State.putBox_stall (s : State) (fn : Nat) (b : Mbox) : (s.putBox fn b).stall = s.stall := rfl
@[simp] theorem State.putBox_trapped (s : State) (fn : Nat) (b : Mbox) : (s.putBox fn b).trapped = s.trapped := rfl
@[simp] theorem State.putBox_agenda (s : State) (fn : Nat) (b : Mbox) : (s.putBox fn b).agenda = s.agenda := rfl
@[simp] theorem State.putBox_turn (s : State) (fn : Nat) (b : Mbox) : (s.putBox fn b).turn = s.turn := rfl
@[simp] theorem State.putBox_fresh (s : State) (fn : Nat) (b : Mbox) : (s.putBox fn b).fresh = s.fresh := rfl
@[simp] theorem State.putBox_nextJob (s : State) (fn : Nat) (b : Mbox) : (s.putBox fn b).nextJob = s.nextJob := rfl

/-! ### State.msi -/

@[simp] theorem State.msi_dt (s : State) (fn vec n : Nat) : (s.msi fn vec n).dt = s.dt := rfl
@[simp] theorem State.msi_tasks (s : State) (fn vec n : Nat) : (s.msi fn vec n).tasks = s.tasks := rfl
@[simp] theorem State.msi_retired (s : State) (fn vec n : Nat) : (s.msi fn vec n).retired = s.retired := rfl
@[simp] theorem State.msi_cores (s : State) (fn vec n : Nat) : (s.msi fn vec n).cores = s.cores := rfl
@[simp] theorem State.msi_clusters (s : State) (fn vec n : Nat) : (s.msi fn vec n).clusters = s.clusters := rfl
@[simp] theorem State.msi_jobs (s : State) (fn vec n : Nat) : (s.msi fn vec n).jobs = s.jobs := rfl
@[simp] theorem State.msi_mem (s : State) (fn vec n : Nat) : (s.msi fn vec n).mem = s.mem := rfl
@[simp] theorem State.msi_l2 (s : State) (fn vec n : Nat) : (s.msi fn vec n).l2 = s.l2 := rfl
@[simp] theorem State.msi_lines (s : State) (fn vec n : Nat) : (s.msi fn vec n).lines = s.lines := rfl
@[simp] theorem State.msi_slow (s : State) (fn vec n : Nat) : (s.msi fn vec n).slow = s.slow := rfl
@[simp] theorem State.msi_latent (s : State) (fn vec n : Nat) : (s.msi fn vec n).latent = s.latent := rfl
@[simp] theorem State.msi_poison (s : State) (fn vec n : Nat) : (s.msi fn vec n).poison = s.poison := rfl
@[simp] theorem State.msi_ctxs (s : State) (fn vec n : Nat) : (s.msi fn vec n).ctxs = s.ctxs := rfl
@[simp] theorem State.msi_fe (s : State) (fn vec n : Nat) : (s.msi fn vec n).fe = s.fe := rfl
@[simp] theorem State.msi_streams (s : State) (fn vec n : Nat) : (s.msi fn vec n).streams = s.streams := rfl
@[simp] theorem State.msi_decoders (s : State) (fn vec n : Nat) : (s.msi fn vec n).decoders = s.decoders := rfl
@[simp] theorem State.msi_sorrel (s : State) (fn vec n : Nat) : (s.msi fn vec n).sorrel = s.sorrel := rfl
@[simp] theorem State.msi_groups (s : State) (fn vec n : Nat) : (s.msi fn vec n).groups = s.groups := rfl
@[simp] theorem State.msi_opens (s : State) (fn vec n : Nat) : (s.msi fn vec n).opens = s.opens := rfl
@[simp] theorem State.msi_posts (s : State) (fn vec n : Nat) : (s.msi fn vec n).posts = s.posts := rfl
@[simp] theorem State.msi_fen (s : State) (fn vec n : Nat) : (s.msi fn vec n).fen = s.fen.msi fn vec n := rfl
@[simp] theorem State.msi_boot (s : State) (fn vec n : Nat) : (s.msi fn vec n).boot = s.boot := rfl
@[simp] theorem State.msi_nv (s : State) (fn vec n : Nat) : (s.msi fn vec n).nv = s.nv := rfl
@[simp] theorem State.msi_pod (s : State) (fn vec n : Nat) : (s.msi fn vec n).pod = s.pod := rfl
@[simp] theorem State.msi_cur (s : State) (fn vec n : Nat) : (s.msi fn vec n).cur = s.cur := rfl
@[simp] theorem State.msi_job (s : State) (fn vec n : Nat) : (s.msi fn vec n).job = s.job := rfl
@[simp] theorem State.msi_stall (s : State) (fn vec n : Nat) : (s.msi fn vec n).stall = s.stall := rfl
@[simp] theorem State.msi_trapped (s : State) (fn vec n : Nat) : (s.msi fn vec n).trapped = s.trapped := rfl
@[simp] theorem State.msi_agenda (s : State) (fn vec n : Nat) : (s.msi fn vec n).agenda = s.agenda := rfl
@[simp] theorem State.msi_turn (s : State) (fn vec n : Nat) : (s.msi fn vec n).turn = s.turn := rfl
@[simp] theorem State.msi_fresh (s : State) (fn vec n : Nat) : (s.msi fn vec n).fresh = s.fresh := rfl
@[simp] theorem State.msi_nextJob (s : State) (fn vec n : Nat) : (s.msi fn vec n).nextJob = s.nextJob := rfl

/-! ### State.addFault -/

@[simp] theorem State.addFault_dt (s : State) (r : FaultRec) : (s.addFault r).dt = s.dt := rfl
@[simp] theorem State.addFault_tasks (s : State) (r : FaultRec) : (s.addFault r).tasks = s.tasks := rfl
@[simp] theorem State.addFault_retired (s : State) (r : FaultRec) : (s.addFault r).retired = s.retired := rfl
@[simp] theorem State.addFault_cores (s : State) (r : FaultRec) : (s.addFault r).cores = s.cores := rfl
@[simp] theorem State.addFault_clusters (s : State) (r : FaultRec) : (s.addFault r).clusters = s.clusters := rfl
@[simp] theorem State.addFault_jobs (s : State) (r : FaultRec) : (s.addFault r).jobs = s.jobs := rfl
@[simp] theorem State.addFault_mem (s : State) (r : FaultRec) : (s.addFault r).mem = s.mem := rfl
@[simp] theorem State.addFault_l2 (s : State) (r : FaultRec) : (s.addFault r).l2 = s.l2 := rfl
@[simp] theorem State.addFault_lines (s : State) (r : FaultRec) : (s.addFault r).lines = s.lines := rfl
@[simp] theorem State.addFault_slow (s : State) (r : FaultRec) : (s.addFault r).slow = s.slow := rfl
@[simp] theorem State.addFault_latent (s : State) (r : FaultRec) : (s.addFault r).latent = s.latent := rfl
@[simp] theorem State.addFault_poison (s : State) (r : FaultRec) : (s.addFault r).poison = s.poison := rfl
@[simp] theorem State.addFault_ctxs (s : State) (r : FaultRec) : (s.addFault r).ctxs = s.ctxs := rfl
@[simp] theorem State.addFault_fe (s : State) (r : FaultRec) : (s.addFault r).fe = s.fe := rfl
@[simp] theorem State.addFault_streams (s : State) (r : FaultRec) : (s.addFault r).streams = s.streams := rfl
@[simp] theorem State.addFault_decoders (s : State) (r : FaultRec) : (s.addFault r).decoders = s.decoders := rfl
@[simp] theorem State.addFault_sorrel (s : State) (r : FaultRec) : (s.addFault r).sorrel = s.sorrel := rfl
@[simp] theorem State.addFault_groups (s : State) (r : FaultRec) : (s.addFault r).groups = s.groups := rfl
@[simp] theorem State.addFault_opens (s : State) (r : FaultRec) : (s.addFault r).opens = s.opens := rfl
@[simp] theorem State.addFault_posts (s : State) (r : FaultRec) : (s.addFault r).posts = s.posts := rfl
@[simp] theorem State.addFault_fen (s : State) (r : FaultRec) : (s.addFault r).fen = { s.fen with faults := (r :: s.fen.faults).take 1024, nfaults := s.fen.nfaults + 1 } := rfl
@[simp] theorem State.addFault_boot (s : State) (r : FaultRec) : (s.addFault r).boot = s.boot := rfl
@[simp] theorem State.addFault_nv (s : State) (r : FaultRec) : (s.addFault r).nv = s.nv := rfl
@[simp] theorem State.addFault_pod (s : State) (r : FaultRec) : (s.addFault r).pod = s.pod := rfl
@[simp] theorem State.addFault_cur (s : State) (r : FaultRec) : (s.addFault r).cur = s.cur := rfl
@[simp] theorem State.addFault_job (s : State) (r : FaultRec) : (s.addFault r).job = s.job := rfl
@[simp] theorem State.addFault_stall (s : State) (r : FaultRec) : (s.addFault r).stall = s.stall := rfl
@[simp] theorem State.addFault_trapped (s : State) (r : FaultRec) : (s.addFault r).trapped = s.trapped := rfl
@[simp] theorem State.addFault_agenda (s : State) (r : FaultRec) : (s.addFault r).agenda = s.agenda := rfl
@[simp] theorem State.addFault_turn (s : State) (r : FaultRec) : (s.addFault r).turn = s.turn := rfl
@[simp] theorem State.addFault_fresh (s : State) (r : FaultRec) : (s.addFault r).fresh = s.fresh := rfl
@[simp] theorem State.addFault_nextJob (s : State) (r : FaultRec) : (s.addFault r).nextJob = s.nextJob := rfl

/-! ### State.putQueue -/

@[simp] theorem State.putQueue_dt (s : State) (q : Nat) (x : CQueue) : (s.putQueue q x).dt = s.dt := rfl
@[simp] theorem State.putQueue_tasks (s : State) (q : Nat) (x : CQueue) : (s.putQueue q x).tasks = s.tasks := rfl
@[simp] theorem State.putQueue_retired (s : State) (q : Nat) (x : CQueue) : (s.putQueue q x).retired = s.retired := rfl
@[simp] theorem State.putQueue_cores (s : State) (q : Nat) (x : CQueue) : (s.putQueue q x).cores = s.cores := rfl
@[simp] theorem State.putQueue_clusters (s : State) (q : Nat) (x : CQueue) : (s.putQueue q x).clusters = s.clusters := rfl
@[simp] theorem State.putQueue_jobs (s : State) (q : Nat) (x : CQueue) : (s.putQueue q x).jobs = s.jobs := rfl
@[simp] theorem State.putQueue_mem (s : State) (q : Nat) (x : CQueue) : (s.putQueue q x).mem = s.mem := rfl
@[simp] theorem State.putQueue_l2 (s : State) (q : Nat) (x : CQueue) : (s.putQueue q x).l2 = s.l2 := rfl
@[simp] theorem State.putQueue_lines (s : State) (q : Nat) (x : CQueue) : (s.putQueue q x).lines = s.lines := rfl
@[simp] theorem State.putQueue_slow (s : State) (q : Nat) (x : CQueue) : (s.putQueue q x).slow = s.slow := rfl
@[simp] theorem State.putQueue_latent (s : State) (q : Nat) (x : CQueue) : (s.putQueue q x).latent = s.latent := rfl
@[simp] theorem State.putQueue_poison (s : State) (q : Nat) (x : CQueue) : (s.putQueue q x).poison = s.poison := rfl
@[simp] theorem State.putQueue_ctxs (s : State) (q : Nat) (x : CQueue) : (s.putQueue q x).ctxs = s.ctxs := rfl
@[simp] theorem State.putQueue_fe (s : State) (q : Nat) (x : CQueue) : (s.putQueue q x).fe = { s.fe with queues := tins s.fe.queues q x } := rfl
@[simp] theorem State.putQueue_streams (s : State) (q : Nat) (x : CQueue) : (s.putQueue q x).streams = s.streams := rfl
@[simp] theorem State.putQueue_decoders (s : State) (q : Nat) (x : CQueue) : (s.putQueue q x).decoders = s.decoders := rfl
@[simp] theorem State.putQueue_sorrel (s : State) (q : Nat) (x : CQueue) : (s.putQueue q x).sorrel = s.sorrel := rfl
@[simp] theorem State.putQueue_groups (s : State) (q : Nat) (x : CQueue) : (s.putQueue q x).groups = s.groups := rfl
@[simp] theorem State.putQueue_opens (s : State) (q : Nat) (x : CQueue) : (s.putQueue q x).opens = s.opens := rfl
@[simp] theorem State.putQueue_posts (s : State) (q : Nat) (x : CQueue) : (s.putQueue q x).posts = s.posts := rfl
@[simp] theorem State.putQueue_fen (s : State) (q : Nat) (x : CQueue) : (s.putQueue q x).fen = s.fen := rfl
@[simp] theorem State.putQueue_boot (s : State) (q : Nat) (x : CQueue) : (s.putQueue q x).boot = s.boot := rfl
@[simp] theorem State.putQueue_nv (s : State) (q : Nat) (x : CQueue) : (s.putQueue q x).nv = s.nv := rfl
@[simp] theorem State.putQueue_pod (s : State) (q : Nat) (x : CQueue) : (s.putQueue q x).pod = s.pod := rfl
@[simp] theorem State.putQueue_cur (s : State) (q : Nat) (x : CQueue) : (s.putQueue q x).cur = s.cur := rfl
@[simp] theorem State.putQueue_job (s : State) (q : Nat) (x : CQueue) : (s.putQueue q x).job = s.job := rfl
@[simp] theorem State.putQueue_stall (s : State) (q : Nat) (x : CQueue) : (s.putQueue q x).stall = s.stall := rfl
@[simp] theorem State.putQueue_trapped (s : State) (q : Nat) (x : CQueue) : (s.putQueue q x).trapped = s.trapped := rfl
@[simp] theorem State.putQueue_agenda (s : State) (q : Nat) (x : CQueue) : (s.putQueue q x).agenda = s.agenda := rfl
@[simp] theorem State.putQueue_turn (s : State) (q : Nat) (x : CQueue) : (s.putQueue q x).turn = s.turn := rfl
@[simp] theorem State.putQueue_fresh (s : State) (q : Nat) (x : CQueue) : (s.putQueue q x).fresh = s.fresh := rfl
@[simp] theorem State.putQueue_nextJob (s : State) (q : Nat) (x : CQueue) : (s.putQueue q x).nextJob = s.nextJob := rfl

/-! ### State.putJob -/

@[simp] theorem State.putJob_dt (s : State) (n : Nat) (j : Job) : (s.putJob n j).dt = s.dt := rfl
@[simp] theorem State.putJob_tasks (s : State) (n : Nat) (j : Job) : (s.putJob n j).tasks = s.tasks := rfl
@[simp] theorem State.putJob_retired (s : State) (n : Nat) (j : Job) : (s.putJob n j).retired = s.retired := rfl
@[simp] theorem State.putJob_cores (s : State) (n : Nat) (j : Job) : (s.putJob n j).cores = s.cores := rfl
@[simp] theorem State.putJob_clusters (s : State) (n : Nat) (j : Job) : (s.putJob n j).clusters = s.clusters := rfl
@[simp] theorem State.putJob_jobs (s : State) (n : Nat) (j : Job) : (s.putJob n j).jobs = tins s.jobs n j := rfl
@[simp] theorem State.putJob_mem (s : State) (n : Nat) (j : Job) : (s.putJob n j).mem = s.mem := rfl
@[simp] theorem State.putJob_l2 (s : State) (n : Nat) (j : Job) : (s.putJob n j).l2 = s.l2 := rfl
@[simp] theorem State.putJob_lines (s : State) (n : Nat) (j : Job) : (s.putJob n j).lines = s.lines := rfl
@[simp] theorem State.putJob_slow (s : State) (n : Nat) (j : Job) : (s.putJob n j).slow = s.slow := rfl
@[simp] theorem State.putJob_latent (s : State) (n : Nat) (j : Job) : (s.putJob n j).latent = s.latent := rfl
@[simp] theorem State.putJob_poison (s : State) (n : Nat) (j : Job) : (s.putJob n j).poison = s.poison := rfl
@[simp] theorem State.putJob_ctxs (s : State) (n : Nat) (j : Job) : (s.putJob n j).ctxs = s.ctxs := rfl
@[simp] theorem State.putJob_fe (s : State) (n : Nat) (j : Job) : (s.putJob n j).fe = s.fe := rfl
@[simp] theorem State.putJob_streams (s : State) (n : Nat) (j : Job) : (s.putJob n j).streams = s.streams := rfl
@[simp] theorem State.putJob_decoders (s : State) (n : Nat) (j : Job) : (s.putJob n j).decoders = s.decoders := rfl
@[simp] theorem State.putJob_sorrel (s : State) (n : Nat) (j : Job) : (s.putJob n j).sorrel = s.sorrel := rfl
@[simp] theorem State.putJob_groups (s : State) (n : Nat) (j : Job) : (s.putJob n j).groups = s.groups := rfl
@[simp] theorem State.putJob_opens (s : State) (n : Nat) (j : Job) : (s.putJob n j).opens = s.opens := rfl
@[simp] theorem State.putJob_posts (s : State) (n : Nat) (j : Job) : (s.putJob n j).posts = s.posts := rfl
@[simp] theorem State.putJob_fen (s : State) (n : Nat) (j : Job) : (s.putJob n j).fen = s.fen := rfl
@[simp] theorem State.putJob_boot (s : State) (n : Nat) (j : Job) : (s.putJob n j).boot = s.boot := rfl
@[simp] theorem State.putJob_nv (s : State) (n : Nat) (j : Job) : (s.putJob n j).nv = s.nv := rfl
@[simp] theorem State.putJob_pod (s : State) (n : Nat) (j : Job) : (s.putJob n j).pod = s.pod := rfl
@[simp] theorem State.putJob_cur (s : State) (n : Nat) (j : Job) : (s.putJob n j).cur = s.cur := rfl
@[simp] theorem State.putJob_job (s : State) (n : Nat) (j : Job) : (s.putJob n j).job = s.job := rfl
@[simp] theorem State.putJob_stall (s : State) (n : Nat) (j : Job) : (s.putJob n j).stall = s.stall := rfl
@[simp] theorem State.putJob_trapped (s : State) (n : Nat) (j : Job) : (s.putJob n j).trapped = s.trapped := rfl
@[simp] theorem State.putJob_agenda (s : State) (n : Nat) (j : Job) : (s.putJob n j).agenda = s.agenda := rfl
@[simp] theorem State.putJob_turn (s : State) (n : Nat) (j : Job) : (s.putJob n j).turn = s.turn := rfl
@[simp] theorem State.putJob_fresh (s : State) (n : Nat) (j : Job) : (s.putJob n j).fresh = s.fresh := rfl
@[simp] theorem State.putJob_nextJob (s : State) (n : Nat) (j : Job) : (s.putJob n j).nextJob = s.nextJob := rfl

/-! ### State.putGroup -/

@[simp] theorem State.putGroup_dt (s : State) (k : Nat) (g : Group) : (s.putGroup k g).dt = s.dt := rfl
@[simp] theorem State.putGroup_tasks (s : State) (k : Nat) (g : Group) : (s.putGroup k g).tasks = s.tasks := rfl
@[simp] theorem State.putGroup_retired (s : State) (k : Nat) (g : Group) : (s.putGroup k g).retired = s.retired := rfl
@[simp] theorem State.putGroup_cores (s : State) (k : Nat) (g : Group) : (s.putGroup k g).cores = s.cores := rfl
@[simp] theorem State.putGroup_clusters (s : State) (k : Nat) (g : Group) : (s.putGroup k g).clusters = s.clusters := rfl
@[simp] theorem State.putGroup_jobs (s : State) (k : Nat) (g : Group) : (s.putGroup k g).jobs = s.jobs := rfl
@[simp] theorem State.putGroup_mem (s : State) (k : Nat) (g : Group) : (s.putGroup k g).mem = s.mem := rfl
@[simp] theorem State.putGroup_l2 (s : State) (k : Nat) (g : Group) : (s.putGroup k g).l2 = s.l2 := rfl
@[simp] theorem State.putGroup_lines (s : State) (k : Nat) (g : Group) : (s.putGroup k g).lines = s.lines := rfl
@[simp] theorem State.putGroup_slow (s : State) (k : Nat) (g : Group) : (s.putGroup k g).slow = s.slow := rfl
@[simp] theorem State.putGroup_latent (s : State) (k : Nat) (g : Group) : (s.putGroup k g).latent = s.latent := rfl
@[simp] theorem State.putGroup_poison (s : State) (k : Nat) (g : Group) : (s.putGroup k g).poison = s.poison := rfl
@[simp] theorem State.putGroup_ctxs (s : State) (k : Nat) (g : Group) : (s.putGroup k g).ctxs = s.ctxs := rfl
@[simp] theorem State.putGroup_fe (s : State) (k : Nat) (g : Group) : (s.putGroup k g).fe = s.fe := rfl
@[simp] theorem State.putGroup_streams (s : State) (k : Nat) (g : Group) : (s.putGroup k g).streams = s.streams := rfl
@[simp] theorem State.putGroup_decoders (s : State) (k : Nat) (g : Group) : (s.putGroup k g).decoders = s.decoders := rfl
@[simp] theorem State.putGroup_sorrel (s : State) (k : Nat) (g : Group) : (s.putGroup k g).sorrel = s.sorrel := rfl
@[simp] theorem State.putGroup_groups (s : State) (k : Nat) (g : Group) : (s.putGroup k g).groups = tins s.groups k g := rfl
@[simp] theorem State.putGroup_opens (s : State) (k : Nat) (g : Group) : (s.putGroup k g).opens = s.opens := rfl
@[simp] theorem State.putGroup_posts (s : State) (k : Nat) (g : Group) : (s.putGroup k g).posts = s.posts := rfl
@[simp] theorem State.putGroup_fen (s : State) (k : Nat) (g : Group) : (s.putGroup k g).fen = s.fen := rfl
@[simp] theorem State.putGroup_boot (s : State) (k : Nat) (g : Group) : (s.putGroup k g).boot = s.boot := rfl
@[simp] theorem State.putGroup_nv (s : State) (k : Nat) (g : Group) : (s.putGroup k g).nv = s.nv := rfl
@[simp] theorem State.putGroup_pod (s : State) (k : Nat) (g : Group) : (s.putGroup k g).pod = s.pod := rfl
@[simp] theorem State.putGroup_cur (s : State) (k : Nat) (g : Group) : (s.putGroup k g).cur = s.cur := rfl
@[simp] theorem State.putGroup_job (s : State) (k : Nat) (g : Group) : (s.putGroup k g).job = s.job := rfl
@[simp] theorem State.putGroup_stall (s : State) (k : Nat) (g : Group) : (s.putGroup k g).stall = s.stall := rfl
@[simp] theorem State.putGroup_trapped (s : State) (k : Nat) (g : Group) : (s.putGroup k g).trapped = s.trapped := rfl
@[simp] theorem State.putGroup_agenda (s : State) (k : Nat) (g : Group) : (s.putGroup k g).agenda = s.agenda := rfl
@[simp] theorem State.putGroup_turn (s : State) (k : Nat) (g : Group) : (s.putGroup k g).turn = s.turn := rfl
@[simp] theorem State.putGroup_fresh (s : State) (k : Nat) (g : Group) : (s.putGroup k g).fresh = s.fresh := rfl
@[simp] theorem State.putGroup_nextJob (s : State) (k : Nat) (g : Group) : (s.putGroup k g).nextJob = s.nextJob := rfl

/-! ### State.putLaunch -/

@[simp] theorem State.putLaunch_dt (s : State) (n : Nat) (l : Launch) : (s.putLaunch n l).dt = s.dt := rfl
@[simp] theorem State.putLaunch_tasks (s : State) (n : Nat) (l : Launch) : (s.putLaunch n l).tasks = s.tasks := rfl
@[simp] theorem State.putLaunch_retired (s : State) (n : Nat) (l : Launch) : (s.putLaunch n l).retired = s.retired := rfl
@[simp] theorem State.putLaunch_cores (s : State) (n : Nat) (l : Launch) : (s.putLaunch n l).cores = s.cores := rfl
@[simp] theorem State.putLaunch_clusters (s : State) (n : Nat) (l : Launch) : (s.putLaunch n l).clusters = s.clusters := rfl
@[simp] theorem State.putLaunch_jobs (s : State) (n : Nat) (l : Launch) : (s.putLaunch n l).jobs = s.jobs := rfl
@[simp] theorem State.putLaunch_mem (s : State) (n : Nat) (l : Launch) : (s.putLaunch n l).mem = s.mem := rfl
@[simp] theorem State.putLaunch_l2 (s : State) (n : Nat) (l : Launch) : (s.putLaunch n l).l2 = s.l2 := rfl
@[simp] theorem State.putLaunch_lines (s : State) (n : Nat) (l : Launch) : (s.putLaunch n l).lines = s.lines := rfl
@[simp] theorem State.putLaunch_slow (s : State) (n : Nat) (l : Launch) : (s.putLaunch n l).slow = s.slow := rfl
@[simp] theorem State.putLaunch_latent (s : State) (n : Nat) (l : Launch) : (s.putLaunch n l).latent = s.latent := rfl
@[simp] theorem State.putLaunch_poison (s : State) (n : Nat) (l : Launch) : (s.putLaunch n l).poison = s.poison := rfl
@[simp] theorem State.putLaunch_ctxs (s : State) (n : Nat) (l : Launch) : (s.putLaunch n l).ctxs = s.ctxs := rfl
@[simp] theorem State.putLaunch_fe (s : State) (n : Nat) (l : Launch) : (s.putLaunch n l).fe = { s.fe with launches := tins s.fe.launches n l } := rfl
@[simp] theorem State.putLaunch_streams (s : State) (n : Nat) (l : Launch) : (s.putLaunch n l).streams = s.streams := rfl
@[simp] theorem State.putLaunch_decoders (s : State) (n : Nat) (l : Launch) : (s.putLaunch n l).decoders = s.decoders := rfl
@[simp] theorem State.putLaunch_sorrel (s : State) (n : Nat) (l : Launch) : (s.putLaunch n l).sorrel = s.sorrel := rfl
@[simp] theorem State.putLaunch_groups (s : State) (n : Nat) (l : Launch) : (s.putLaunch n l).groups = s.groups := rfl
@[simp] theorem State.putLaunch_opens (s : State) (n : Nat) (l : Launch) : (s.putLaunch n l).opens = s.opens := rfl
@[simp] theorem State.putLaunch_posts (s : State) (n : Nat) (l : Launch) : (s.putLaunch n l).posts = s.posts := rfl
@[simp] theorem State.putLaunch_fen (s : State) (n : Nat) (l : Launch) : (s.putLaunch n l).fen = s.fen := rfl
@[simp] theorem State.putLaunch_boot (s : State) (n : Nat) (l : Launch) : (s.putLaunch n l).boot = s.boot := rfl
@[simp] theorem State.putLaunch_nv (s : State) (n : Nat) (l : Launch) : (s.putLaunch n l).nv = s.nv := rfl
@[simp] theorem State.putLaunch_pod (s : State) (n : Nat) (l : Launch) : (s.putLaunch n l).pod = s.pod := rfl
@[simp] theorem State.putLaunch_cur (s : State) (n : Nat) (l : Launch) : (s.putLaunch n l).cur = s.cur := rfl
@[simp] theorem State.putLaunch_job (s : State) (n : Nat) (l : Launch) : (s.putLaunch n l).job = s.job := rfl
@[simp] theorem State.putLaunch_stall (s : State) (n : Nat) (l : Launch) : (s.putLaunch n l).stall = s.stall := rfl
@[simp] theorem State.putLaunch_trapped (s : State) (n : Nat) (l : Launch) : (s.putLaunch n l).trapped = s.trapped := rfl
@[simp] theorem State.putLaunch_agenda (s : State) (n : Nat) (l : Launch) : (s.putLaunch n l).agenda = s.agenda := rfl
@[simp] theorem State.putLaunch_turn (s : State) (n : Nat) (l : Launch) : (s.putLaunch n l).turn = s.turn := rfl
@[simp] theorem State.putLaunch_fresh (s : State) (n : Nat) (l : Launch) : (s.putLaunch n l).fresh = s.fresh := rfl
@[simp] theorem State.putLaunch_nextJob (s : State) (n : Nat) (l : Launch) : (s.putLaunch n l).nextJob = s.nextJob := rfl

/-! ### State.putSaved -/

@[simp] theorem State.putSaved_dt (s : State) (k : Nat) (v : Saved) : (s.putSaved k v).dt = s.dt := rfl
@[simp] theorem State.putSaved_tasks (s : State) (k : Nat) (v : Saved) : (s.putSaved k v).tasks = s.tasks := rfl
@[simp] theorem State.putSaved_retired (s : State) (k : Nat) (v : Saved) : (s.putSaved k v).retired = s.retired := rfl
@[simp] theorem State.putSaved_cores (s : State) (k : Nat) (v : Saved) : (s.putSaved k v).cores = s.cores := rfl
@[simp] theorem State.putSaved_clusters (s : State) (k : Nat) (v : Saved) : (s.putSaved k v).clusters = s.clusters := rfl
@[simp] theorem State.putSaved_jobs (s : State) (k : Nat) (v : Saved) : (s.putSaved k v).jobs = s.jobs := rfl
@[simp] theorem State.putSaved_mem (s : State) (k : Nat) (v : Saved) : (s.putSaved k v).mem = s.mem := rfl
@[simp] theorem State.putSaved_l2 (s : State) (k : Nat) (v : Saved) : (s.putSaved k v).l2 = s.l2 := rfl
@[simp] theorem State.putSaved_lines (s : State) (k : Nat) (v : Saved) : (s.putSaved k v).lines = s.lines := rfl
@[simp] theorem State.putSaved_slow (s : State) (k : Nat) (v : Saved) : (s.putSaved k v).slow = s.slow := rfl
@[simp] theorem State.putSaved_latent (s : State) (k : Nat) (v : Saved) : (s.putSaved k v).latent = s.latent := rfl
@[simp] theorem State.putSaved_poison (s : State) (k : Nat) (v : Saved) : (s.putSaved k v).poison = s.poison := rfl
@[simp] theorem State.putSaved_ctxs (s : State) (k : Nat) (v : Saved) : (s.putSaved k v).ctxs = s.ctxs := rfl
@[simp] theorem State.putSaved_fe (s : State) (k : Nat) (v : Saved) : (s.putSaved k v).fe = { s.fe with saved := tins s.fe.saved k v } := rfl
@[simp] theorem State.putSaved_streams (s : State) (k : Nat) (v : Saved) : (s.putSaved k v).streams = s.streams := rfl
@[simp] theorem State.putSaved_decoders (s : State) (k : Nat) (v : Saved) : (s.putSaved k v).decoders = s.decoders := rfl
@[simp] theorem State.putSaved_sorrel (s : State) (k : Nat) (v : Saved) : (s.putSaved k v).sorrel = s.sorrel := rfl
@[simp] theorem State.putSaved_groups (s : State) (k : Nat) (v : Saved) : (s.putSaved k v).groups = s.groups := rfl
@[simp] theorem State.putSaved_opens (s : State) (k : Nat) (v : Saved) : (s.putSaved k v).opens = s.opens := rfl
@[simp] theorem State.putSaved_posts (s : State) (k : Nat) (v : Saved) : (s.putSaved k v).posts = s.posts := rfl
@[simp] theorem State.putSaved_fen (s : State) (k : Nat) (v : Saved) : (s.putSaved k v).fen = s.fen := rfl
@[simp] theorem State.putSaved_boot (s : State) (k : Nat) (v : Saved) : (s.putSaved k v).boot = s.boot := rfl
@[simp] theorem State.putSaved_nv (s : State) (k : Nat) (v : Saved) : (s.putSaved k v).nv = s.nv := rfl
@[simp] theorem State.putSaved_pod (s : State) (k : Nat) (v : Saved) : (s.putSaved k v).pod = s.pod := rfl
@[simp] theorem State.putSaved_cur (s : State) (k : Nat) (v : Saved) : (s.putSaved k v).cur = s.cur := rfl
@[simp] theorem State.putSaved_job (s : State) (k : Nat) (v : Saved) : (s.putSaved k v).job = s.job := rfl
@[simp] theorem State.putSaved_stall (s : State) (k : Nat) (v : Saved) : (s.putSaved k v).stall = s.stall := rfl
@[simp] theorem State.putSaved_trapped (s : State) (k : Nat) (v : Saved) : (s.putSaved k v).trapped = s.trapped := rfl
@[simp] theorem State.putSaved_agenda (s : State) (k : Nat) (v : Saved) : (s.putSaved k v).agenda = s.agenda := rfl
@[simp] theorem State.putSaved_turn (s : State) (k : Nat) (v : Saved) : (s.putSaved k v).turn = s.turn := rfl
@[simp] theorem State.putSaved_fresh (s : State) (k : Nat) (v : Saved) : (s.putSaved k v).fresh = s.fresh := rfl
@[simp] theorem State.putSaved_nextJob (s : State) (k : Nat) (v : Saved) : (s.putSaved k v).nextJob = s.nextJob := rfl

/-! ### State.putEngine -/

@[simp] theorem State.putEngine_dt (s : State) (e : Nat) (l : List SampReq) : (s.putEngine e l).dt = s.dt := rfl
@[simp] theorem State.putEngine_tasks (s : State) (e : Nat) (l : List SampReq) : (s.putEngine e l).tasks = s.tasks := rfl
@[simp] theorem State.putEngine_retired (s : State) (e : Nat) (l : List SampReq) : (s.putEngine e l).retired = s.retired := rfl
@[simp] theorem State.putEngine_cores (s : State) (e : Nat) (l : List SampReq) : (s.putEngine e l).cores = s.cores := rfl
@[simp] theorem State.putEngine_clusters (s : State) (e : Nat) (l : List SampReq) : (s.putEngine e l).clusters = s.clusters := rfl
@[simp] theorem State.putEngine_jobs (s : State) (e : Nat) (l : List SampReq) : (s.putEngine e l).jobs = s.jobs := rfl
@[simp] theorem State.putEngine_mem (s : State) (e : Nat) (l : List SampReq) : (s.putEngine e l).mem = s.mem := rfl
@[simp] theorem State.putEngine_l2 (s : State) (e : Nat) (l : List SampReq) : (s.putEngine e l).l2 = s.l2 := rfl
@[simp] theorem State.putEngine_lines (s : State) (e : Nat) (l : List SampReq) : (s.putEngine e l).lines = s.lines := rfl
@[simp] theorem State.putEngine_slow (s : State) (e : Nat) (l : List SampReq) : (s.putEngine e l).slow = s.slow := rfl
@[simp] theorem State.putEngine_latent (s : State) (e : Nat) (l : List SampReq) : (s.putEngine e l).latent = s.latent := rfl
@[simp] theorem State.putEngine_poison (s : State) (e : Nat) (l : List SampReq) : (s.putEngine e l).poison = s.poison := rfl
@[simp] theorem State.putEngine_ctxs (s : State) (e : Nat) (l : List SampReq) : (s.putEngine e l).ctxs = s.ctxs := rfl
@[simp] theorem State.putEngine_fe (s : State) (e : Nat) (l : List SampReq) : (s.putEngine e l).fe = s.fe := rfl
@[simp] theorem State.putEngine_streams (s : State) (e : Nat) (l : List SampReq) : (s.putEngine e l).streams = s.streams := rfl
@[simp] theorem State.putEngine_decoders (s : State) (e : Nat) (l : List SampReq) : (s.putEngine e l).decoders = s.decoders := rfl
@[simp] theorem State.putEngine_sorrel (s : State) (e : Nat) (l : List SampReq) : (s.putEngine e l).sorrel = tset [] s.sorrel e l := rfl
@[simp] theorem State.putEngine_groups (s : State) (e : Nat) (l : List SampReq) : (s.putEngine e l).groups = s.groups := rfl
@[simp] theorem State.putEngine_opens (s : State) (e : Nat) (l : List SampReq) : (s.putEngine e l).opens = s.opens := rfl
@[simp] theorem State.putEngine_posts (s : State) (e : Nat) (l : List SampReq) : (s.putEngine e l).posts = s.posts := rfl
@[simp] theorem State.putEngine_fen (s : State) (e : Nat) (l : List SampReq) : (s.putEngine e l).fen = s.fen := rfl
@[simp] theorem State.putEngine_boot (s : State) (e : Nat) (l : List SampReq) : (s.putEngine e l).boot = s.boot := rfl
@[simp] theorem State.putEngine_nv (s : State) (e : Nat) (l : List SampReq) : (s.putEngine e l).nv = s.nv := rfl
@[simp] theorem State.putEngine_pod (s : State) (e : Nat) (l : List SampReq) : (s.putEngine e l).pod = s.pod := rfl
@[simp] theorem State.putEngine_cur (s : State) (e : Nat) (l : List SampReq) : (s.putEngine e l).cur = s.cur := rfl
@[simp] theorem State.putEngine_job (s : State) (e : Nat) (l : List SampReq) : (s.putEngine e l).job = s.job := rfl
@[simp] theorem State.putEngine_stall (s : State) (e : Nat) (l : List SampReq) : (s.putEngine e l).stall = s.stall := rfl
@[simp] theorem State.putEngine_trapped (s : State) (e : Nat) (l : List SampReq) : (s.putEngine e l).trapped = s.trapped := rfl
@[simp] theorem State.putEngine_agenda (s : State) (e : Nat) (l : List SampReq) : (s.putEngine e l).agenda = s.agenda := rfl
@[simp] theorem State.putEngine_turn (s : State) (e : Nat) (l : List SampReq) : (s.putEngine e l).turn = s.turn := rfl
@[simp] theorem State.putEngine_fresh (s : State) (e : Nat) (l : List SampReq) : (s.putEngine e l).fresh = s.fresh := rfl
@[simp] theorem State.putEngine_nextJob (s : State) (e : Nat) (l : List SampReq) : (s.putEngine e l).nextJob = s.nextJob := rfl

/-! ### State.putSem -/

@[simp] theorem State.putSem_dt (s : State) (core slot : Nat) (x : Sem) : (s.putSem core slot x).dt = s.dt := rfl
@[simp] theorem State.putSem_tasks (s : State) (core slot : Nat) (x : Sem) : (s.putSem core slot x).tasks = s.tasks := rfl
@[simp] theorem State.putSem_retired (s : State) (core slot : Nat) (x : Sem) : (s.putSem core slot x).retired = s.retired := rfl
@[simp] theorem State.putSem_clusters (s : State) (core slot : Nat) (x : Sem) : (s.putSem core slot x).clusters = s.clusters := rfl
@[simp] theorem State.putSem_jobs (s : State) (core slot : Nat) (x : Sem) : (s.putSem core slot x).jobs = s.jobs := rfl
@[simp] theorem State.putSem_mem (s : State) (core slot : Nat) (x : Sem) : (s.putSem core slot x).mem = s.mem := rfl
@[simp] theorem State.putSem_l2 (s : State) (core slot : Nat) (x : Sem) : (s.putSem core slot x).l2 = s.l2 := rfl
@[simp] theorem State.putSem_lines (s : State) (core slot : Nat) (x : Sem) : (s.putSem core slot x).lines = s.lines := rfl
@[simp] theorem State.putSem_slow (s : State) (core slot : Nat) (x : Sem) : (s.putSem core slot x).slow = s.slow := rfl
@[simp] theorem State.putSem_latent (s : State) (core slot : Nat) (x : Sem) : (s.putSem core slot x).latent = s.latent := rfl
@[simp] theorem State.putSem_poison (s : State) (core slot : Nat) (x : Sem) : (s.putSem core slot x).poison = s.poison := rfl
@[simp] theorem State.putSem_ctxs (s : State) (core slot : Nat) (x : Sem) : (s.putSem core slot x).ctxs = s.ctxs := rfl
@[simp] theorem State.putSem_fe (s : State) (core slot : Nat) (x : Sem) : (s.putSem core slot x).fe = s.fe := rfl
@[simp] theorem State.putSem_streams (s : State) (core slot : Nat) (x : Sem) : (s.putSem core slot x).streams = s.streams := rfl
@[simp] theorem State.putSem_decoders (s : State) (core slot : Nat) (x : Sem) : (s.putSem core slot x).decoders = s.decoders := rfl
@[simp] theorem State.putSem_sorrel (s : State) (core slot : Nat) (x : Sem) : (s.putSem core slot x).sorrel = s.sorrel := rfl
@[simp] theorem State.putSem_groups (s : State) (core slot : Nat) (x : Sem) : (s.putSem core slot x).groups = s.groups := rfl
@[simp] theorem State.putSem_opens (s : State) (core slot : Nat) (x : Sem) : (s.putSem core slot x).opens = s.opens := rfl
@[simp] theorem State.putSem_posts (s : State) (core slot : Nat) (x : Sem) : (s.putSem core slot x).posts = s.posts := rfl
@[simp] theorem State.putSem_fen (s : State) (core slot : Nat) (x : Sem) : (s.putSem core slot x).fen = s.fen := rfl
@[simp] theorem State.putSem_boot (s : State) (core slot : Nat) (x : Sem) : (s.putSem core slot x).boot = s.boot := rfl
@[simp] theorem State.putSem_nv (s : State) (core slot : Nat) (x : Sem) : (s.putSem core slot x).nv = s.nv := rfl
@[simp] theorem State.putSem_pod (s : State) (core slot : Nat) (x : Sem) : (s.putSem core slot x).pod = s.pod := rfl
@[simp] theorem State.putSem_cur (s : State) (core slot : Nat) (x : Sem) : (s.putSem core slot x).cur = s.cur := rfl
@[simp] theorem State.putSem_job (s : State) (core slot : Nat) (x : Sem) : (s.putSem core slot x).job = s.job := rfl
@[simp] theorem State.putSem_stall (s : State) (core slot : Nat) (x : Sem) : (s.putSem core slot x).stall = s.stall := rfl
@[simp] theorem State.putSem_trapped (s : State) (core slot : Nat) (x : Sem) : (s.putSem core slot x).trapped = s.trapped := rfl
@[simp] theorem State.putSem_agenda (s : State) (core slot : Nat) (x : Sem) : (s.putSem core slot x).agenda = s.agenda := rfl
@[simp] theorem State.putSem_turn (s : State) (core slot : Nat) (x : Sem) : (s.putSem core slot x).turn = s.turn := rfl
@[simp] theorem State.putSem_fresh (s : State) (core slot : Nat) (x : Sem) : (s.putSem core slot x).fresh = s.fresh := rfl
@[simp] theorem State.putSem_nextJob (s : State) (core slot : Nat) (x : Sem) : (s.putSem core slot x).nextJob = s.nextJob := rfl

/-! ### State.putWalker -/

@[simp] theorem State.putWalker_dt (s : State) (cl w : Nat) (x : Walker) : (s.putWalker cl w x).dt = s.dt := rfl
@[simp] theorem State.putWalker_tasks (s : State) (cl w : Nat) (x : Walker) : (s.putWalker cl w x).tasks = s.tasks := rfl
@[simp] theorem State.putWalker_retired (s : State) (cl w : Nat) (x : Walker) : (s.putWalker cl w x).retired = s.retired := rfl
@[simp] theorem State.putWalker_cores (s : State) (cl w : Nat) (x : Walker) : (s.putWalker cl w x).cores = s.cores := rfl
@[simp] theorem State.putWalker_jobs (s : State) (cl w : Nat) (x : Walker) : (s.putWalker cl w x).jobs = s.jobs := rfl
@[simp] theorem State.putWalker_mem (s : State) (cl w : Nat) (x : Walker) : (s.putWalker cl w x).mem = s.mem := rfl
@[simp] theorem State.putWalker_l2 (s : State) (cl w : Nat) (x : Walker) : (s.putWalker cl w x).l2 = s.l2 := rfl
@[simp] theorem State.putWalker_lines (s : State) (cl w : Nat) (x : Walker) : (s.putWalker cl w x).lines = s.lines := rfl
@[simp] theorem State.putWalker_slow (s : State) (cl w : Nat) (x : Walker) : (s.putWalker cl w x).slow = s.slow := rfl
@[simp] theorem State.putWalker_latent (s : State) (cl w : Nat) (x : Walker) : (s.putWalker cl w x).latent = s.latent := rfl
@[simp] theorem State.putWalker_poison (s : State) (cl w : Nat) (x : Walker) : (s.putWalker cl w x).poison = s.poison := rfl
@[simp] theorem State.putWalker_ctxs (s : State) (cl w : Nat) (x : Walker) : (s.putWalker cl w x).ctxs = s.ctxs := rfl
@[simp] theorem State.putWalker_fe (s : State) (cl w : Nat) (x : Walker) : (s.putWalker cl w x).fe = s.fe := rfl
@[simp] theorem State.putWalker_streams (s : State) (cl w : Nat) (x : Walker) : (s.putWalker cl w x).streams = s.streams := rfl
@[simp] theorem State.putWalker_decoders (s : State) (cl w : Nat) (x : Walker) : (s.putWalker cl w x).decoders = s.decoders := rfl
@[simp] theorem State.putWalker_sorrel (s : State) (cl w : Nat) (x : Walker) : (s.putWalker cl w x).sorrel = s.sorrel := rfl
@[simp] theorem State.putWalker_groups (s : State) (cl w : Nat) (x : Walker) : (s.putWalker cl w x).groups = s.groups := rfl
@[simp] theorem State.putWalker_opens (s : State) (cl w : Nat) (x : Walker) : (s.putWalker cl w x).opens = s.opens := rfl
@[simp] theorem State.putWalker_posts (s : State) (cl w : Nat) (x : Walker) : (s.putWalker cl w x).posts = s.posts := rfl
@[simp] theorem State.putWalker_fen (s : State) (cl w : Nat) (x : Walker) : (s.putWalker cl w x).fen = s.fen := rfl
@[simp] theorem State.putWalker_boot (s : State) (cl w : Nat) (x : Walker) : (s.putWalker cl w x).boot = s.boot := rfl
@[simp] theorem State.putWalker_nv (s : State) (cl w : Nat) (x : Walker) : (s.putWalker cl w x).nv = s.nv := rfl
@[simp] theorem State.putWalker_pod (s : State) (cl w : Nat) (x : Walker) : (s.putWalker cl w x).pod = s.pod := rfl
@[simp] theorem State.putWalker_cur (s : State) (cl w : Nat) (x : Walker) : (s.putWalker cl w x).cur = s.cur := rfl
@[simp] theorem State.putWalker_job (s : State) (cl w : Nat) (x : Walker) : (s.putWalker cl w x).job = s.job := rfl
@[simp] theorem State.putWalker_stall (s : State) (cl w : Nat) (x : Walker) : (s.putWalker cl w x).stall = s.stall := rfl
@[simp] theorem State.putWalker_trapped (s : State) (cl w : Nat) (x : Walker) : (s.putWalker cl w x).trapped = s.trapped := rfl
@[simp] theorem State.putWalker_agenda (s : State) (cl w : Nat) (x : Walker) : (s.putWalker cl w x).agenda = s.agenda := rfl
@[simp] theorem State.putWalker_turn (s : State) (cl w : Nat) (x : Walker) : (s.putWalker cl w x).turn = s.turn := rfl
@[simp] theorem State.putWalker_fresh (s : State) (cl w : Nat) (x : Walker) : (s.putWalker cl w x).fresh = s.fresh := rfl
@[simp] theorem State.putWalker_nextJob (s : State) (cl w : Nat) (x : Walker) : (s.putWalker cl w x).nextJob = s.nextJob := rfl

/-! ### State.recovered -/

@[simp] theorem State.recovered_dt (s : State) (sts : BitVec 8) : (s.recovered sts).dt = s.dt := rfl
@[simp] theorem State.recovered_tasks (s : State) (sts : BitVec 8) : (s.recovered sts).tasks = s.tasks := rfl
@[simp] theorem State.recovered_retired (s : State) (sts : BitVec 8) : (s.recovered sts).retired = s.retired := rfl
@[simp] theorem State.recovered_cores (s : State) (sts : BitVec 8) : (s.recovered sts).cores = s.cores := rfl
@[simp] theorem State.recovered_clusters (s : State) (sts : BitVec 8) : (s.recovered sts).clusters = s.clusters := rfl
@[simp] theorem State.recovered_jobs (s : State) (sts : BitVec 8) : (s.recovered sts).jobs = s.jobs := rfl
@[simp] theorem State.recovered_mem (s : State) (sts : BitVec 8) : (s.recovered sts).mem = s.mem := rfl
@[simp] theorem State.recovered_l2 (s : State) (sts : BitVec 8) : (s.recovered sts).l2 = s.l2 := rfl
@[simp] theorem State.recovered_lines (s : State) (sts : BitVec 8) : (s.recovered sts).lines = s.lines := rfl
@[simp] theorem State.recovered_slow (s : State) (sts : BitVec 8) : (s.recovered sts).slow = s.slow := rfl
@[simp] theorem State.recovered_latent (s : State) (sts : BitVec 8) : (s.recovered sts).latent = s.latent := rfl
@[simp] theorem State.recovered_poison (s : State) (sts : BitVec 8) : (s.recovered sts).poison = s.poison := rfl
@[simp] theorem State.recovered_ctxs (s : State) (sts : BitVec 8) : (s.recovered sts).ctxs = s.ctxs := rfl
@[simp] theorem State.recovered_fe (s : State) (sts : BitVec 8) : (s.recovered sts).fe = s.fe := rfl
@[simp] theorem State.recovered_streams (s : State) (sts : BitVec 8) : (s.recovered sts).streams = s.streams := rfl
@[simp] theorem State.recovered_decoders (s : State) (sts : BitVec 8) : (s.recovered sts).decoders = s.decoders := rfl
@[simp] theorem State.recovered_sorrel (s : State) (sts : BitVec 8) : (s.recovered sts).sorrel = s.sorrel := rfl
@[simp] theorem State.recovered_groups (s : State) (sts : BitVec 8) : (s.recovered sts).groups = s.groups := rfl
@[simp] theorem State.recovered_opens (s : State) (sts : BitVec 8) : (s.recovered sts).opens = s.opens := rfl
@[simp] theorem State.recovered_posts (s : State) (sts : BitVec 8) : (s.recovered sts).posts = s.posts := rfl
@[simp] theorem State.recovered_fen (s : State) (sts : BitVec 8) : (s.recovered sts).fen = { s.fen with rcvsts := sts } := rfl
@[simp] theorem State.recovered_boot (s : State) (sts : BitVec 8) : (s.recovered sts).boot = s.boot := rfl
@[simp] theorem State.recovered_nv (s : State) (sts : BitVec 8) : (s.recovered sts).nv = s.nv := rfl
@[simp] theorem State.recovered_pod (s : State) (sts : BitVec 8) : (s.recovered sts).pod = s.pod := rfl
@[simp] theorem State.recovered_cur (s : State) (sts : BitVec 8) : (s.recovered sts).cur = s.cur := rfl
@[simp] theorem State.recovered_job (s : State) (sts : BitVec 8) : (s.recovered sts).job = s.job := rfl
@[simp] theorem State.recovered_stall (s : State) (sts : BitVec 8) : (s.recovered sts).stall = s.stall := rfl
@[simp] theorem State.recovered_trapped (s : State) (sts : BitVec 8) : (s.recovered sts).trapped = s.trapped := rfl
@[simp] theorem State.recovered_agenda (s : State) (sts : BitVec 8) : (s.recovered sts).agenda = s.agenda := rfl
@[simp] theorem State.recovered_turn (s : State) (sts : BitVec 8) : (s.recovered sts).turn = s.turn := rfl
@[simp] theorem State.recovered_fresh (s : State) (sts : BitVec 8) : (s.recovered sts).fresh = s.fresh := rfl
@[simp] theorem State.recovered_nextJob (s : State) (sts : BitVec 8) : (s.recovered sts).nextJob = s.nextJob := rfl

/-! ### Task.onA -/

@[simp] theorem Task.onA_who (t : Task) (f : AState → AState) : (t.onA f).who = t.who := rfl
@[simp] theorem Task.onA_mem (t : Task) (f : AState → AState) : (t.onA f).mem = t.mem := rfl
@[simp] theorem Task.onA_win (t : Task) (f : AState → AState) : (t.onA f).win = t.win := rfl
@[simp] theorem Task.onA_cls (t : Task) (f : AState → AState) : (t.onA f).cls = t.cls := rfl
@[simp] theorem Task.onA_a (t : Task) (f : AState → AState) : (t.onA f).a = t.a := rfl
@[simp] theorem Task.onA_x (t : Task) (f : AState → AState) : (t.onA f).x = t.x := rfl
@[simp] theorem Task.onA_as (t : Task) (f : AState → AState) : (t.onA f).as = f t.as := rfl
@[simp] theorem Task.onA_xs (t : Task) (f : AState → AState) : (t.onA f).xs = t.xs := rfl
@[simp] theorem Task.onA_qskip (t : Task) (f : AState → AState) : (t.onA f).qskip = t.qskip := rfl
@[simp] theorem Task.onA_aq (t : Task) (f : AState → AState) : (t.onA f).aq = t.aq := rfl
@[simp] theorem Task.onA_xq (t : Task) (f : AState → AState) : (t.onA f).xq = t.xq := rfl
@[simp] theorem Task.onA_bq (t : Task) (f : AState → AState) : (t.onA f).bq = t.bq := rfl
@[simp] theorem Task.onA_acc (t : Task) (f : AState → AState) : (t.onA f).acc = t.acc := rfl
@[simp] theorem Task.onA_rowmax (t : Task) (f : AState → AState) : (t.onA f).rowmax = t.rowmax := rfl
@[simp] theorem Task.onA_rowsum (t : Task) (f : AState → AState) : (t.onA f).rowsum = t.rowsum := rfl
@[simp] theorem Task.onA_rows (t : Task) (f : AState → AState) : (t.onA f).rows = t.rows := rfl
@[simp] theorem Task.onA_touched (t : Task) (f : AState → AState) : (t.onA f).touched = t.touched := rfl
@[simp] theorem Task.onA_tiles (t : Task) (f : AState → AState) : (t.onA f).tiles = t.tiles := rfl
@[simp] theorem Task.onA_ports (t : Task) (f : AState → AState) : (t.onA f).ports = t.ports := rfl
@[simp] theorem Task.onA_consts (t : Task) (f : AState → AState) : (t.onA f).consts = t.consts := rfl
@[simp] theorem Task.onA_cancelpc (t : Task) (f : AState → AState) : (t.onA f).cancelpc = t.cancelpc := rfl
@[simp] theorem Task.onA_cancel (t : Task) (f : AState → AState) : (t.onA f).cancel = t.cancel := rfl
@[simp] theorem Task.onA_susp (t : Task) (f : AState → AState) : (t.onA f).susp = t.susp := rfl
@[simp] theorem Task.onA_stop (t : Task) (f : AState → AState) : (t.onA f).stop = t.stop := rfl
@[simp] theorem Task.onA_retiring (t : Task) (f : AState → AState) : (t.onA f).retiring = t.retiring := rfl
@[simp] theorem Task.onA_point (t : Task) (f : AState → AState) : (t.onA f).point = t.point := rfl
@[simp] theorem Task.onA_yielded (t : Task) (f : AState → AState) : (t.onA f).yielded = t.yielded := rfl
@[simp] theorem Task.onA_evict (t : Task) (f : AState → AState) : (t.onA f).evict = t.evict := rfl

/-! ### Task.onX -/

@[simp] theorem Task.onX_who (t : Task) (f : XState → XState) : (t.onX f).who = t.who := rfl
@[simp] theorem Task.onX_mem (t : Task) (f : XState → XState) : (t.onX f).mem = t.mem := rfl
@[simp] theorem Task.onX_win (t : Task) (f : XState → XState) : (t.onX f).win = t.win := rfl
@[simp] theorem Task.onX_cls (t : Task) (f : XState → XState) : (t.onX f).cls = t.cls := rfl
@[simp] theorem Task.onX_a (t : Task) (f : XState → XState) : (t.onX f).a = t.a := rfl
@[simp] theorem Task.onX_x (t : Task) (f : XState → XState) : (t.onX f).x = t.x := rfl
@[simp] theorem Task.onX_as (t : Task) (f : XState → XState) : (t.onX f).as = t.as := rfl
@[simp] theorem Task.onX_xs (t : Task) (f : XState → XState) : (t.onX f).xs = f t.xs := rfl
@[simp] theorem Task.onX_qskip (t : Task) (f : XState → XState) : (t.onX f).qskip = t.qskip := rfl
@[simp] theorem Task.onX_aq (t : Task) (f : XState → XState) : (t.onX f).aq = t.aq := rfl
@[simp] theorem Task.onX_xq (t : Task) (f : XState → XState) : (t.onX f).xq = t.xq := rfl
@[simp] theorem Task.onX_bq (t : Task) (f : XState → XState) : (t.onX f).bq = t.bq := rfl
@[simp] theorem Task.onX_acc (t : Task) (f : XState → XState) : (t.onX f).acc = t.acc := rfl
@[simp] theorem Task.onX_rowmax (t : Task) (f : XState → XState) : (t.onX f).rowmax = t.rowmax := rfl
@[simp] theorem Task.onX_rowsum (t : Task) (f : XState → XState) : (t.onX f).rowsum = t.rowsum := rfl
@[simp] theorem Task.onX_rows (t : Task) (f : XState → XState) : (t.onX f).rows = t.rows := rfl
@[simp] theorem Task.onX_touched (t : Task) (f : XState → XState) : (t.onX f).touched = t.touched := rfl
@[simp] theorem Task.onX_tiles (t : Task) (f : XState → XState) : (t.onX f).tiles = t.tiles := rfl
@[simp] theorem Task.onX_ports (t : Task) (f : XState → XState) : (t.onX f).ports = t.ports := rfl
@[simp] theorem Task.onX_consts (t : Task) (f : XState → XState) : (t.onX f).consts = t.consts := rfl
@[simp] theorem Task.onX_cancelpc (t : Task) (f : XState → XState) : (t.onX f).cancelpc = t.cancelpc := rfl
@[simp] theorem Task.onX_cancel (t : Task) (f : XState → XState) : (t.onX f).cancel = t.cancel := rfl
@[simp] theorem Task.onX_susp (t : Task) (f : XState → XState) : (t.onX f).susp = t.susp := rfl
@[simp] theorem Task.onX_stop (t : Task) (f : XState → XState) : (t.onX f).stop = t.stop := rfl
@[simp] theorem Task.onX_retiring (t : Task) (f : XState → XState) : (t.onX f).retiring = t.retiring := rfl
@[simp] theorem Task.onX_point (t : Task) (f : XState → XState) : (t.onX f).point = t.point := rfl
@[simp] theorem Task.onX_yielded (t : Task) (f : XState → XState) : (t.onX f).yielded = t.yielded := rfl
@[simp] theorem Task.onX_evict (t : Task) (f : XState → XState) : (t.onX f).evict = t.evict := rfl

/-! ### Task.setRow -/

@[simp] theorem Task.setRow_who (t : Task) (v : Nat) (new m : Row) : (t.setRow v new m).who = t.who := rfl
@[simp] theorem Task.setRow_mem (t : Task) (v : Nat) (new m : Row) : (t.setRow v new m).mem = t.mem := rfl
@[simp] theorem Task.setRow_win (t : Task) (v : Nat) (new m : Row) : (t.setRow v new m).win = t.win := rfl
@[simp] theorem Task.setRow_cls (t : Task) (v : Nat) (new m : Row) : (t.setRow v new m).cls = t.cls := rfl
@[simp] theorem Task.setRow_a (t : Task) (v : Nat) (new m : Row) : (t.setRow v new m).a = t.a := rfl
@[simp] theorem Task.setRow_x (t : Task) (v : Nat) (new m : Row) : (t.setRow v new m).x = t.x := rfl
@[simp] theorem Task.setRow_as (t : Task) (v : Nat) (new m : Row) : (t.setRow v new m).as = t.as := rfl
@[simp] theorem Task.setRow_xs (t : Task) (v : Nat) (new m : Row) : (t.setRow v new m).xs = t.xs := rfl
@[simp] theorem Task.setRow_qskip (t : Task) (v : Nat) (new m : Row) : (t.setRow v new m).qskip = t.qskip := rfl
@[simp] theorem Task.setRow_aq (t : Task) (v : Nat) (new m : Row) : (t.setRow v new m).aq = t.aq := rfl
@[simp] theorem Task.setRow_xq (t : Task) (v : Nat) (new m : Row) : (t.setRow v new m).xq = t.xq := rfl
@[simp] theorem Task.setRow_bq (t : Task) (v : Nat) (new m : Row) : (t.setRow v new m).bq = t.bq := rfl
@[simp] theorem Task.setRow_acc (t : Task) (v : Nat) (new m : Row) : (t.setRow v new m).acc = t.acc := rfl
@[simp] theorem Task.setRow_rowmax (t : Task) (v : Nat) (new m : Row) : (t.setRow v new m).rowmax = t.rowmax := rfl
@[simp] theorem Task.setRow_rowsum (t : Task) (v : Nat) (new m : Row) : (t.setRow v new m).rowsum = t.rowsum := rfl
@[simp] theorem Task.setRow_touched (t : Task) (v : Nat) (new m : Row) : (t.setRow v new m).touched = t.touched := rfl
@[simp] theorem Task.setRow_tiles (t : Task) (v : Nat) (new m : Row) : (t.setRow v new m).tiles = t.tiles := rfl
@[simp] theorem Task.setRow_ports (t : Task) (v : Nat) (new m : Row) : (t.setRow v new m).ports = t.ports := rfl
@[simp] theorem Task.setRow_consts (t : Task) (v : Nat) (new m : Row) : (t.setRow v new m).consts = t.consts := rfl
@[simp] theorem Task.setRow_cancelpc (t : Task) (v : Nat) (new m : Row) : (t.setRow v new m).cancelpc = t.cancelpc := rfl
@[simp] theorem Task.setRow_cancel (t : Task) (v : Nat) (new m : Row) : (t.setRow v new m).cancel = t.cancel := rfl
@[simp] theorem Task.setRow_susp (t : Task) (v : Nat) (new m : Row) : (t.setRow v new m).susp = t.susp := rfl
@[simp] theorem Task.setRow_stop (t : Task) (v : Nat) (new m : Row) : (t.setRow v new m).stop = t.stop := rfl
@[simp] theorem Task.setRow_retiring (t : Task) (v : Nat) (new m : Row) : (t.setRow v new m).retiring = t.retiring := rfl
@[simp] theorem Task.setRow_point (t : Task) (v : Nat) (new m : Row) : (t.setRow v new m).point = t.point := rfl
@[simp] theorem Task.setRow_yielded (t : Task) (v : Nat) (new m : Row) : (t.setRow v new m).yielded = t.yielded := rfl
@[simp] theorem Task.setRow_evict (t : Task) (v : Nat) (new m : Row) : (t.setRow v new m).evict = t.evict := rfl

/-! ### Task.launchX -/

@[simp] theorem Task.launchX_who (t : Task) (lat : Nat) (k : FKind) : (t.launchX lat k).who = t.who := rfl
@[simp] theorem Task.launchX_mem (t : Task) (lat : Nat) (k : FKind) : (t.launchX lat k).mem = t.mem := rfl
@[simp] theorem Task.launchX_win (t : Task) (lat : Nat) (k : FKind) : (t.launchX lat k).win = t.win := rfl
@[simp] theorem Task.launchX_cls (t : Task) (lat : Nat) (k : FKind) : (t.launchX lat k).cls = t.cls := rfl
@[simp] theorem Task.launchX_a (t : Task) (lat : Nat) (k : FKind) : (t.launchX lat k).a = t.a := rfl
@[simp] theorem Task.launchX_x (t : Task) (lat : Nat) (k : FKind) : (t.launchX lat k).x = t.x := rfl
@[simp] theorem Task.launchX_as (t : Task) (lat : Nat) (k : FKind) : (t.launchX lat k).as = t.as := rfl
@[simp] theorem Task.launchX_xs (t : Task) (lat : Nat) (k : FKind) : (t.launchX lat k).xs = { t.xs with flights := t.xs.flights ++ [{ pc := t.x.pc, age := 0, lat := lat, kind := k, word := 0 }] } := rfl
@[simp] theorem Task.launchX_qskip (t : Task) (lat : Nat) (k : FKind) : (t.launchX lat k).qskip = t.qskip := rfl
@[simp] theorem Task.launchX_aq (t : Task) (lat : Nat) (k : FKind) : (t.launchX lat k).aq = t.aq := rfl
@[simp] theorem Task.launchX_xq (t : Task) (lat : Nat) (k : FKind) : (t.launchX lat k).xq = t.xq := rfl
@[simp] theorem Task.launchX_bq (t : Task) (lat : Nat) (k : FKind) : (t.launchX lat k).bq = t.bq := rfl
@[simp] theorem Task.launchX_acc (t : Task) (lat : Nat) (k : FKind) : (t.launchX lat k).acc = t.acc := rfl
@[simp] theorem Task.launchX_rowmax (t : Task) (lat : Nat) (k : FKind) : (t.launchX lat k).rowmax = t.rowmax := rfl
@[simp] theorem Task.launchX_rowsum (t : Task) (lat : Nat) (k : FKind) : (t.launchX lat k).rowsum = t.rowsum := rfl
@[simp] theorem Task.launchX_rows (t : Task) (lat : Nat) (k : FKind) : (t.launchX lat k).rows = t.rows := rfl
@[simp] theorem Task.launchX_touched (t : Task) (lat : Nat) (k : FKind) : (t.launchX lat k).touched = t.touched := rfl
@[simp] theorem Task.launchX_tiles (t : Task) (lat : Nat) (k : FKind) : (t.launchX lat k).tiles = t.tiles := rfl
@[simp] theorem Task.launchX_ports (t : Task) (lat : Nat) (k : FKind) : (t.launchX lat k).ports = t.ports := rfl
@[simp] theorem Task.launchX_consts (t : Task) (lat : Nat) (k : FKind) : (t.launchX lat k).consts = t.consts := rfl
@[simp] theorem Task.launchX_cancelpc (t : Task) (lat : Nat) (k : FKind) : (t.launchX lat k).cancelpc = t.cancelpc := rfl
@[simp] theorem Task.launchX_cancel (t : Task) (lat : Nat) (k : FKind) : (t.launchX lat k).cancel = t.cancel := rfl
@[simp] theorem Task.launchX_susp (t : Task) (lat : Nat) (k : FKind) : (t.launchX lat k).susp = t.susp := rfl
@[simp] theorem Task.launchX_stop (t : Task) (lat : Nat) (k : FKind) : (t.launchX lat k).stop = t.stop := rfl
@[simp] theorem Task.launchX_retiring (t : Task) (lat : Nat) (k : FKind) : (t.launchX lat k).retiring = t.retiring := rfl
@[simp] theorem Task.launchX_point (t : Task) (lat : Nat) (k : FKind) : (t.launchX lat k).point = t.point := rfl
@[simp] theorem Task.launchX_yielded (t : Task) (lat : Nat) (k : FKind) : (t.launchX lat k).yielded = t.yielded := rfl
@[simp] theorem Task.launchX_evict (t : Task) (lat : Nat) (k : FKind) : (t.launchX lat k).evict = t.evict := rfl

/-! ### Task.stepLanes -/

@[simp] theorem Task.stepLanes_who (t : Task) (g : Word) : (t.stepLanes g).who = t.who := rfl
@[simp] theorem Task.stepLanes_mem (t : Task) (g : Word) : (t.stepLanes g).mem = t.mem := rfl
@[simp] theorem Task.stepLanes_win (t : Task) (g : Word) : (t.stepLanes g).win = t.win := rfl
@[simp] theorem Task.stepLanes_cls (t : Task) (g : Word) : (t.stepLanes g).cls = t.cls := rfl
@[simp] theorem Task.stepLanes_a (t : Task) (g : Word) : (t.stepLanes g).a = t.a := rfl
@[simp] theorem Task.stepLanes_x (t : Task) (g : Word) : (t.stepLanes g).x = t.x := rfl
@[simp] theorem Task.stepLanes_as (t : Task) (g : Word) : (t.stepLanes g).as = t.as := rfl
@[simp] theorem Task.stepLanes_qskip (t : Task) (g : Word) : (t.stepLanes g).qskip = t.qskip := rfl
@[simp] theorem Task.stepLanes_aq (t : Task) (g : Word) : (t.stepLanes g).aq = t.aq := rfl
@[simp] theorem Task.stepLanes_xq (t : Task) (g : Word) : (t.stepLanes g).xq = t.xq := rfl
@[simp] theorem Task.stepLanes_bq (t : Task) (g : Word) : (t.stepLanes g).bq = t.bq := rfl
@[simp] theorem Task.stepLanes_acc (t : Task) (g : Word) : (t.stepLanes g).acc = t.acc := rfl
@[simp] theorem Task.stepLanes_rowmax (t : Task) (g : Word) : (t.stepLanes g).rowmax = t.rowmax := rfl
@[simp] theorem Task.stepLanes_rowsum (t : Task) (g : Word) : (t.stepLanes g).rowsum = t.rowsum := rfl
@[simp] theorem Task.stepLanes_rows (t : Task) (g : Word) : (t.stepLanes g).rows = t.rows := rfl
@[simp] theorem Task.stepLanes_touched (t : Task) (g : Word) : (t.stepLanes g).touched = t.touched := rfl
@[simp] theorem Task.stepLanes_tiles (t : Task) (g : Word) : (t.stepLanes g).tiles = t.tiles := rfl
@[simp] theorem Task.stepLanes_ports (t : Task) (g : Word) : (t.stepLanes g).ports = t.ports := rfl
@[simp] theorem Task.stepLanes_consts (t : Task) (g : Word) : (t.stepLanes g).consts = t.consts := rfl
@[simp] theorem Task.stepLanes_cancelpc (t : Task) (g : Word) : (t.stepLanes g).cancelpc = t.cancelpc := rfl
@[simp] theorem Task.stepLanes_cancel (t : Task) (g : Word) : (t.stepLanes g).cancel = t.cancel := rfl
@[simp] theorem Task.stepLanes_susp (t : Task) (g : Word) : (t.stepLanes g).susp = t.susp := rfl
@[simp] theorem Task.stepLanes_stop (t : Task) (g : Word) : (t.stepLanes g).stop = t.stop := rfl
@[simp] theorem Task.stepLanes_retiring (t : Task) (g : Word) : (t.stepLanes g).retiring = t.retiring := rfl
@[simp] theorem Task.stepLanes_point (t : Task) (g : Word) : (t.stepLanes g).point = t.point := rfl
@[simp] theorem Task.stepLanes_yielded (t : Task) (g : Word) : (t.stepLanes g).yielded = t.yielded := rfl
@[simp] theorem Task.stepLanes_evict (t : Task) (g : Word) : (t.stepLanes g).evict = t.evict := rfl

/-! ### Task.onSt and Task.advance -/

@[simp] theorem Task.onSt_who (t : Task) (sd : Side) (f : Strand → Strand) : (t.onSt sd f).who = t.who := by cases sd <;> rfl
@[simp] theorem Task.advance_who (t : Task) (sd : Side) : (t.advance sd).who = t.who := by cases sd <;> rfl
@[simp] theorem Task.onSt_mem (t : Task) (sd : Side) (f : Strand → Strand) : (t.onSt sd f).mem = t.mem := by cases sd <;> rfl
@[simp] theorem Task.advance_mem (t : Task) (sd : Side) : (t.advance sd).mem = t.mem := by cases sd <;> rfl
@[simp] theorem Task.onSt_win (t : Task) (sd : Side) (f : Strand → Strand) : (t.onSt sd f).win = t.win := by cases sd <;> rfl
@[simp] theorem Task.advance_win (t : Task) (sd : Side) : (t.advance sd).win = t.win := by cases sd <;> rfl
@[simp] theorem Task.onSt_cls (t : Task) (sd : Side) (f : Strand → Strand) : (t.onSt sd f).cls = t.cls := by cases sd <;> rfl
@[simp] theorem Task.advance_cls (t : Task) (sd : Side) : (t.advance sd).cls = t.cls := by cases sd <;> rfl
@[simp] theorem Task.onSt_as (t : Task) (sd : Side) (f : Strand → Strand) : (t.onSt sd f).as = t.as := by cases sd <;> rfl
@[simp] theorem Task.advance_as (t : Task) (sd : Side) : (t.advance sd).as = t.as := by cases sd <;> rfl
@[simp] theorem Task.onSt_xs (t : Task) (sd : Side) (f : Strand → Strand) : (t.onSt sd f).xs = t.xs := by cases sd <;> rfl
@[simp] theorem Task.advance_xs (t : Task) (sd : Side) : (t.advance sd).xs = t.xs := by cases sd <;> rfl
@[simp] theorem Task.onSt_qskip (t : Task) (sd : Side) (f : Strand → Strand) : (t.onSt sd f).qskip = t.qskip := by cases sd <;> rfl
@[simp] theorem Task.advance_qskip (t : Task) (sd : Side) : (t.advance sd).qskip = t.qskip := by cases sd <;> rfl
@[simp] theorem Task.onSt_aq (t : Task) (sd : Side) (f : Strand → Strand) : (t.onSt sd f).aq = t.aq := by cases sd <;> rfl
@[simp] theorem Task.advance_aq (t : Task) (sd : Side) : (t.advance sd).aq = t.aq := by cases sd <;> rfl
@[simp] theorem Task.onSt_xq (t : Task) (sd : Side) (f : Strand → Strand) : (t.onSt sd f).xq = t.xq := by cases sd <;> rfl
@[simp] theorem Task.advance_xq (t : Task) (sd : Side) : (t.advance sd).xq = t.xq := by cases sd <;> rfl
@[simp] theorem Task.onSt_bq (t : Task) (sd : Side) (f : Strand → Strand) : (t.onSt sd f).bq = t.bq := by cases sd <;> rfl
@[simp] theorem Task.advance_bq (t : Task) (sd : Side) : (t.advance sd).bq = t.bq := by cases sd <;> rfl
@[simp] theorem Task.onSt_acc (t : Task) (sd : Side) (f : Strand → Strand) : (t.onSt sd f).acc = t.acc := by cases sd <;> rfl
@[simp] theorem Task.advance_acc (t : Task) (sd : Side) : (t.advance sd).acc = t.acc := by cases sd <;> rfl
@[simp] theorem Task.onSt_rowmax (t : Task) (sd : Side) (f : Strand → Strand) : (t.onSt sd f).rowmax = t.rowmax := by cases sd <;> rfl
@[simp] theorem Task.advance_rowmax (t : Task) (sd : Side) : (t.advance sd).rowmax = t.rowmax := by cases sd <;> rfl
@[simp] theorem Task.onSt_rowsum (t : Task) (sd : Side) (f : Strand → Strand) : (t.onSt sd f).rowsum = t.rowsum := by cases sd <;> rfl
@[simp] theorem Task.advance_rowsum (t : Task) (sd : Side) : (t.advance sd).rowsum = t.rowsum := by cases sd <;> rfl
@[simp] theorem Task.onSt_rows (t : Task) (sd : Side) (f : Strand → Strand) : (t.onSt sd f).rows = t.rows := by cases sd <;> rfl
@[simp] theorem Task.advance_rows (t : Task) (sd : Side) : (t.advance sd).rows = t.rows := by cases sd <;> rfl
@[simp] theorem Task.onSt_touched (t : Task) (sd : Side) (f : Strand → Strand) : (t.onSt sd f).touched = t.touched := by cases sd <;> rfl
@[simp] theorem Task.advance_touched (t : Task) (sd : Side) : (t.advance sd).touched = t.touched := by cases sd <;> rfl
@[simp] theorem Task.onSt_tiles (t : Task) (sd : Side) (f : Strand → Strand) : (t.onSt sd f).tiles = t.tiles := by cases sd <;> rfl
@[simp] theorem Task.advance_tiles (t : Task) (sd : Side) : (t.advance sd).tiles = t.tiles := by cases sd <;> rfl
@[simp] theorem Task.onSt_ports (t : Task) (sd : Side) (f : Strand → Strand) : (t.onSt sd f).ports = t.ports := by cases sd <;> rfl
@[simp] theorem Task.advance_ports (t : Task) (sd : Side) : (t.advance sd).ports = t.ports := by cases sd <;> rfl
@[simp] theorem Task.onSt_consts (t : Task) (sd : Side) (f : Strand → Strand) : (t.onSt sd f).consts = t.consts := by cases sd <;> rfl
@[simp] theorem Task.advance_consts (t : Task) (sd : Side) : (t.advance sd).consts = t.consts := by cases sd <;> rfl
@[simp] theorem Task.onSt_cancelpc (t : Task) (sd : Side) (f : Strand → Strand) : (t.onSt sd f).cancelpc = t.cancelpc := by cases sd <;> rfl
@[simp] theorem Task.advance_cancelpc (t : Task) (sd : Side) : (t.advance sd).cancelpc = t.cancelpc := by cases sd <;> rfl
@[simp] theorem Task.onSt_cancel (t : Task) (sd : Side) (f : Strand → Strand) : (t.onSt sd f).cancel = t.cancel := by cases sd <;> rfl
@[simp] theorem Task.advance_cancel (t : Task) (sd : Side) : (t.advance sd).cancel = t.cancel := by cases sd <;> rfl
@[simp] theorem Task.onSt_susp (t : Task) (sd : Side) (f : Strand → Strand) : (t.onSt sd f).susp = t.susp := by cases sd <;> rfl
@[simp] theorem Task.advance_susp (t : Task) (sd : Side) : (t.advance sd).susp = t.susp := by cases sd <;> rfl
@[simp] theorem Task.onSt_stop (t : Task) (sd : Side) (f : Strand → Strand) : (t.onSt sd f).stop = t.stop := by cases sd <;> rfl
@[simp] theorem Task.advance_stop (t : Task) (sd : Side) : (t.advance sd).stop = t.stop := by cases sd <;> rfl
@[simp] theorem Task.onSt_retiring (t : Task) (sd : Side) (f : Strand → Strand) : (t.onSt sd f).retiring = t.retiring := by cases sd <;> rfl
@[simp] theorem Task.advance_retiring (t : Task) (sd : Side) : (t.advance sd).retiring = t.retiring := by cases sd <;> rfl
@[simp] theorem Task.onSt_point (t : Task) (sd : Side) (f : Strand → Strand) : (t.onSt sd f).point = t.point := by cases sd <;> rfl
@[simp] theorem Task.advance_point (t : Task) (sd : Side) : (t.advance sd).point = t.point := by cases sd <;> rfl
@[simp] theorem Task.onSt_yielded (t : Task) (sd : Side) (f : Strand → Strand) : (t.onSt sd f).yielded = t.yielded := by cases sd <;> rfl
@[simp] theorem Task.advance_yielded (t : Task) (sd : Side) : (t.advance sd).yielded = t.yielded := by cases sd <;> rfl
@[simp] theorem Task.onSt_evict (t : Task) (sd : Side) (f : Strand → Strand) : (t.onSt sd f).evict = t.evict := by cases sd <;> rfl
@[simp] theorem Task.advance_evict (t : Task) (sd : Side) : (t.advance sd).evict = t.evict := by cases sd <;> rfl

@[simp] theorem Task.onSt_a_a (t : Task) (f : Strand → Strand) : (t.onSt .a f).a = f t.a := rfl
@[simp] theorem Task.onSt_a_x (t : Task) (f : Strand → Strand) : (t.onSt .a f).x = t.x := rfl
@[simp] theorem Task.onSt_x_x (t : Task) (f : Strand → Strand) : (t.onSt .x f).x = f t.x := rfl
@[simp] theorem Task.onSt_x_a (t : Task) (f : Strand → Strand) : (t.onSt .x f).a = t.a := rfl
@[simp] theorem Task.onSt_st (t : Task) (sd : Side) (f : Strand → Strand) : (t.onSt sd f).st sd = f (t.st sd) := by cases sd <;> rfl
@[simp] theorem Task.st_a (t : Task) : t.st .a = t.a := rfl
@[simp] theorem Task.st_x (t : Task) : t.st .x = t.x := rfl
@[simp] theorem Task.advance_a_a (t : Task) : (t.advance .a).a = { t.a with pc := t.a.pc + 1 } := rfl
@[simp] theorem Task.advance_a_x (t : Task) : (t.advance .a).x = t.x := rfl
@[simp] theorem Task.advance_x_x (t : Task) : (t.advance .x).x = { t.x with pc := t.x.pc + 1 } := rfl
@[simp] theorem Task.advance_x_a (t : Task) : (t.advance .x).a = t.a := rfl

/-! ### Reads after updates -/

@[simp] theorem State.here_putHere (s : State) (t : Task) : (s.putHere t).here = some t := by
  simp [State.here]

@[simp] theorem State.task_putTask (s : State) (core bank c b : Nat) (t : Task) :
    (s.putTask core bank t).task c b = if c * 2 + b = core * 2 + bank then some t else s.task c b := by
  simp [State.task]

@[simp] theorem State.core_putCore (s : State) (n m : Nat) (c : Core) : (s.putCore n c).core m = if m = n then c else s.core m := by
  simp [State.core]

@[simp] theorem State.cluster_putCluster (s : State) (n m : Nat) (c : Cluster) :
    (s.putCluster n c).cluster m = if m = n then c else s.cluster m := by
  simp [State.cluster]

@[simp] theorem State.ctx_putCtx (s : State) (n m : Nat) (c : Ctx) : (s.putCtx n c).ctx m = if m = n then c else s.ctx m := by
  simp [State.ctx]

@[simp] theorem State.box_putBox (s : State) (n m : Nat) (b : Mbox) : (s.putBox n b).box m = if m = n then b else s.box m := by
  simp [State.box]

@[simp] theorem State.queue_putQueue (s : State) (q r : Nat) (x : CQueue) :
    (s.putQueue q x).queue r = if r = q then some x else s.queue r := by
  simp [State.queue]

@[simp] theorem State.putHere_putHere (s : State) (t u : Task) : (s.putHere t).putHere u = s.putHere u := by
  simp [State.putHere, tins_tins, Cur.key]

/-- The acting task's key is its bank's. -/
theorem State.here_eq (s : State) : s.here = s.task s.cur.core s.cur.bank := rfl

/-- Putting the acting task back changes what the table lists and no read of it. -/
theorem State.putHere_eq (s : State) (t : Task) : s.putHere t = s.putTask s.cur.core s.cur.bank t := rfl

/-- A read that is not of the table of tasks ignores it. -/
@[simp] theorem State.core_putHere (s : State) (t : Task) (n : Nat) : (s.putHere t).core n = s.core n := rfl
@[simp] theorem State.cluster_putHere (s : State) (t : Task) (n : Nat) : (s.putHere t).cluster n = s.cluster n := rfl
@[simp] theorem State.ctx_putHere (s : State) (t : Task) (n : Nat) : (s.putHere t).ctx n = s.ctx n := rfl
@[simp] theorem State.core_putCtx (s : State) (k : Nat) (c : Ctx) (n : Nat) : (s.putCtx k c).core n = s.core n := rfl
@[simp] theorem State.core_putCluster (s : State) (k : Nat) (c : Cluster) (n : Nat) : (s.putCluster k c).core n = s.core n := rfl
@[simp] theorem State.ctx_putCore (s : State) (k : Nat) (c : Core) (n : Nat) : (s.putCore k c).ctx n = s.ctx n := rfl
@[simp] theorem State.ctx_putCluster (s : State) (k : Nat) (c : Cluster) (n : Nat) : (s.putCluster k c).ctx n = s.ctx n := rfl
@[simp] theorem State.cluster_putCore (s : State) (k : Nat) (c : Core) (n : Nat) : (s.putCore k c).cluster n = s.cluster n := rfl
@[simp] theorem State.cluster_putCtx (s : State) (k : Nat) (c : Ctx) (n : Nat) : (s.putCtx k c).cluster n = s.cluster n := rfl
@[simp] theorem State.here_putCore (s : State) (k : Nat) (c : Core) : (s.putCore k c).here = s.here := rfl
@[simp] theorem State.here_putCtx (s : State) (k : Nat) (c : Ctx) : (s.putCtx k c).here = s.here := rfl
@[simp] theorem State.here_putCluster (s : State) (k : Nat) (c : Cluster) : (s.putCluster k c).here = s.here := rfl
@[simp] theorem State.task_putCore (s : State) (k : Nat) (c : Core) (n b : Nat) : (s.putCore k c).task n b = s.task n b := rfl
@[simp] theorem State.task_putCtx (s : State) (k : Nat) (c : Ctx) (n b : Nat) : (s.putCtx k c).task n b = s.task n b := rfl


end Sys2Proof.Machine
end

