-- ==== Sys2Proof/Laws/Memory.lean ====
section
/-! SUPPORT. Memory: reads after writes, and that every operation over the homes of memory keeps its canonical form. -/

namespace Sys2Proof.Machine

/-! ### Bytes -/

@[simp] theorem memByte_nil (a : Nat) : memByte [] a = 0 := rfl

/-- A read after a write of one byte. -/
@[simp] theorem memByte_memSet (m : List Host.Cell) (a b : Nat) (v : Byte) :
    memByte (memSet m a v) b = if b = a then v else memByte m b := by
  unfold memByte memSet; simp

theorem memSet_wf (m : List Host.Cell) (a : Nat) (v : Byte) (h : Memory.wf m) : Memory.wf (memSet m a v) :=
  twf_tset unwritten m a v h

theorem filter_wf (m : List Host.Cell) (p : Host.Cell → Bool) (h : Memory.wf m) : Memory.wf (m.filter p) :=
  twf_filter unwritten m p h

theorem wipeFrame_wf (m : List Host.Cell) (pa : Nat) (h : Memory.wf m) : Memory.wf (wipeFrame m pa) := filter_wf m _ h

/-- A fold of steps that keep the form keeps it. -/
theorem foldl_wf {α : Type} (f : List Host.Cell → α → List Host.Cell) (hf : ∀ m x, Memory.wf m → Memory.wf (f m x)) (l : List α)
    (m : List Host.Cell) (h : Memory.wf m) : Memory.wf (l.foldl f m) := by
  induction l generalizing m with
  | nil => exact h
  | cons x r ih => exact ih _ (hf _ _ h)

theorem memPut_wf (m : List Host.Cell) (sec : Nat) (mask : BitVec 32) (d : BitVec 256) (h : Memory.wf m) :
    Memory.wf (memPut m sec mask d) := by
  unfold memPut
  refine foldl_wf _ (fun m i h => ?_) _ _ h
  split
  · exact memSet_wf _ _ _ h
  · exact h

/-- The bytes of the mask take those of the data, and every other byte is as before. -/
theorem memByte_memPut (m : List Host.Cell) (sec : Nat) (mask : BitVec 32) (d : BitVec 256) (b : Nat) :
    memByte (memPut m sec mask d) b =
      if sec * 32 ≤ b ∧ b < sec * 32 + 32 ∧ mask.getLsbD (b - sec * 32) then sectorByte d (b - sec * 32) else memByte m b := by
  unfold memPut
  have key : ∀ n, memByte ((List.range n).foldl
      (fun m i => if mask.getLsbD i then memSet m (sec * 32 + i) (sectorByte d i) else m) m) b =
      if sec * 32 ≤ b ∧ b < sec * 32 + n ∧ mask.getLsbD (b - sec * 32) then sectorByte d (b - sec * 32) else memByte m b := by
    intro n
    induction n with
    | zero => simp; omega
    | succ n ih =>
      rw [List.range_succ, List.foldl_append, List.foldl_cons, List.foldl_nil]
      by_cases hb : b = sec * 32 + n
      · subst hb
        by_cases hm : mask.getLsbD n <;> simp [hm, ih]
      · have e : (b < sec * 32 + (n + 1)) ↔ (b < sec * 32 + n) := by omega
        by_cases hm : mask.getLsbD n <;> simp [hm, hb, ih, e]
  exact key 32

/-! ### The lines of the L2 -/

/-- A fold of steps of the state that keep memory's form keeps it. -/
theorem State.foldl_wf {α : Type} (f : State → α → State) (hf : ∀ s x, Memory.wf s.mem → Memory.wf (f s x).mem) (l : List α)
    (s : State) (h : Memory.wf s.mem) : Memory.wf (l.foldl f s).mem := by
  induction l generalizing s with
  | nil => exact h
  | cons x r ih => exact ih _ (hf _ _ h)

/-- A fold of steps of the state that leave memory leaves it. -/
theorem State.foldl_mem {α : Type} (f : State → α → State) (hf : ∀ s x, (f s x).mem = s.mem) (l : List α) (s : State) :
    (l.foldl f s).mem = s.mem := by
  induction l generalizing s with
  | nil => rfl
  | cons x r ih => exact (ih _).trans (hf _ _)

@[simp] theorem State.dropFrame_mem (s : State) (pa : Nat) : (s.dropFrame pa).mem = s.mem := rfl

theorem State.frameWrite_wf (s : State) (w : SWrite) (h : Memory.wf s.mem) : Memory.wf (s.frameWrite w).mem := memPut_wf _ _ _ _ h

theorem State.toFrame_wf (s : State) (sec : Nat) (x : L2Sector) (h : Memory.wf s.mem) : Memory.wf (s.toFrame sec x).mem :=
  s.frameWrite_wf _ h

theorem State.displaceLine_wf (s : State) (line : Nat) (h : Memory.wf s.mem) : Memory.wf (s.displaceLine line).mem :=
  State.foldl_wf (fun s (e : Nat × L2Sector) => s.toFrame e.1 e.2) (fun s _ w => s.toFrame_wf _ _ w) _ _ h

theorem State.roomAt_wf (s : State) (pl : Nat × Nat) (h : Memory.wf s.mem) : Memory.wf (s.roomAt pl).mem := by
  unfold State.roomAt
  split
  · exact State.displaceLine_wf _ _ h
  · exact h

theorem State.fillL2_wf (s : State) (owner line : Nat) (h : Memory.wf s.mem) : Memory.wf (s.fillL2 owner line).mem := by
  unfold State.fillL2
  split
  · exact h
  · split
    · exact h
    · dsimp only
      split <;> exact s.roomAt_wf _ h

@[simp] theorem State.tagL2_mem (s : State) (owner line : Nat) : (s.tagL2 owner line).mem = s.mem := rfl

theorem State.squeezeL2_wf (s : State) (p : Nat × Nat → Bool) (h : Memory.wf s.mem) : Memory.wf (s.squeezeL2 p).mem :=
  State.foldl_wf State.displaceLine (fun s _ w => s.displaceLine_wf _ w) _ _ h

/-! ### What else changes: nothing -/

/-- From `s` to `s'` nothing changes but what the memories and the L2 hold. -/
def StoreOnly (s s' : State) : Prop :=
  s' = { s with mem := s'.mem, l2 := s'.l2, lines := s'.lines, poison := s'.poison, fresh := s'.fresh }

theorem StoreOnly.refl (s : State) : StoreOnly s s := rfl

theorem StoreOnly.trans {a b c : State} (h : StoreOnly a b) (k : StoreOnly b c) : StoreOnly a c := by
  simp only [StoreOnly] at h k ⊢
  rw [k, h]

/-- A fold of steps that keep the rest keeps it. -/
theorem StoreOnly.foldl {α : Type} (f : State → α → State) (h : ∀ s a, StoreOnly s (f s a)) (l : List α) :
    ∀ s, StoreOnly s (l.foldl f s) := by
  induction l with
  | nil => exact StoreOnly.refl
  | cons a r ih => exact fun s => (h s a).trans (ih _)

/-- The writes and displacements of the L2 change nothing else of the machine. -/
theorem State.frameWrite_only (s : State) (w : SWrite) : StoreOnly s (s.frameWrite w) := rfl

theorem State.displaceLine_only (s : State) (line : Nat) : StoreOnly s (s.displaceLine line) := by
  have h := StoreOnly.foldl (fun s (e : Nat × L2Sector) => s.toFrame e.1 e.2) (fun s _ => s.frameWrite_only _)
    (s.l2.filter fun e => e.1 / 8 == line) s
  generalize hx : List.foldl (fun s (e : Nat × L2Sector) => s.toFrame e.1 e.2) s (s.l2.filter fun e => e.1 / 8 == line) = x at h
  rw [State.displaceLine, hx]
  exact h.trans (b := x) rfl

theorem State.roomAt_only (s : State) (pl : Nat × Nat) : StoreOnly s (s.roomAt pl) := by
  unfold State.roomAt
  split
  · exact (show StoreOnly s s.draw.2 from rfl).trans (State.displaceLine_only _ _)
  · exact .refl s

theorem State.fillL2_only (s : State) (owner line : Nat) : StoreOnly s (s.fillL2 owner line) := by
  unfold State.fillL2
  split
  · exact .refl s
  · split
    · rfl
    · dsimp only
      split
      · exact State.roomAt_only s _
      · exact (State.roomAt_only s _).trans rfl

theorem State.tagL2_only (s : State) (owner line : Nat) : StoreOnly s (s.tagL2 owner line) := rfl

theorem State.squeezeL2_only (s : State) (p : Nat × Nat → Bool) : StoreOnly s (s.squeezeL2 p) :=
  StoreOnly.foldl State.displaceLine (fun s line => s.displaceLine_only line) _ s

theorem State.writeL2_only (s : State) (sec : Nat) (w : SWrite) : StoreOnly s (s.writeL2 sec w) := by
  have h : StoreOnly s ((s.fillL2 w.owner (sec / 8)).tagL2 w.owner (sec / 8)) :=
    (s.fillL2_only _ _).trans (State.tagL2_only _ _ _)
  unfold State.writeL2
  dsimp only
  split
  · exact h.trans rfl
  · exact h.trans rfl

/-! ### Homes -/

theorem State.writeL2_wf (s : State) (k : Nat) (w : SWrite) (h : Memory.wf s.mem) : Memory.wf (s.writeL2 k w).mem := by
  have hf : Memory.wf ((s.fillL2 w.owner (k / 8)).tagL2 w.owner (k / 8)).mem := by simpa using s.fillL2_wf _ _ h
  unfold State.writeL2
  dsimp only
  split
  · exact State.frameWrite_wf _ _ hf
  · exact hf

/-- A line filled keeps memory's form. -/
theorem State.filled_wf (s : State) (ctx sec : Nat) (h : Memory.wf s.mem) : Memory.wf (s.filled ctx sec).mem := by
  unfold State.filled
  split
  · exact s.fillL2_wf _ _ h
  · exact h

@[simp] theorem State.keepSource_mem (s : State) (owner sec : Nat) : (s.keepSource owner sec).mem = s.mem := rfl

/-- A page bound leaves memory's form. -/
theorem State.allocPage_wf (s s1 : State) (ctx page : Nat) (h : s.allocPage ctx page = .done s1) (w : Memory.wf s.mem) :
    Memory.wf s1.mem := by
  unfold State.allocPage at h
  dsimp only at h
  split at h
  · cases h
  · split at h
    · cases h
      exact State.squeezeL2_wf _ _ w
    · split at h
      · split at h
        · cases h
        · split at h
          · cases h
          · cases h
            exact wipeFrame_wf _ _ w
      · cases h

theorem State.bindFor_wf (s s1 : State) (ctx pa : Nat) (e : Entry) (h : s.bindFor ctx pa e = .done s1) (w : Memory.wf s.mem) :
    Memory.wf s1.mem := by
  unfold State.bindFor at h
  split at h
  · exact s.allocPage_wf s1 ctx _ h w
  · cases h; exact w

/-- A write that reaches its home keeps memory's form. -/
theorem State.writeHome_wf (s : State) (w : SWrite) (h : Memory.wf s.mem) : Memory.wf (s.writeHome w).mem := by
  unfold State.writeHome
  dsimp only
  split
  · split
    · exact h
    · exact State.writeL2_wf _ _ _ h
  · exact h
  · exact State.frameWrite_wf _ _ h
  · split
    · next s1 e =>
      have := State.allocPage_wf _ s1 _ _ e h
      split
      · exact State.writeL2_wf _ _ _ this
      · exact this
    · exact h

theorem State.flushSlow_wf (s : State) (h : Memory.wf s.mem) : Memory.wf s.flushSlow.mem :=
  State.foldl_wf _ State.writeHome_wf _ _ h

theorem State.drainEgress_wf (s : State) (cl : Nat) (h : Memory.wf s.mem) : Memory.wf (s.drainEgress cl).mem := by
  have hk := State.foldl_mem (fun (s : State) (w : SWrite) => s.keepSource w.owner w.sec) (fun _ _ => rfl) (s.cluster cl).egress s
  exact State.foldl_wf _ State.writeHome_wf _ _ (by simpa [hk] using h)

theorem State.flushPeers_wf (s : State) (h : Memory.wf s.mem) : Memory.wf s.flushPeers.mem :=
  State.foldl_wf _ State.frameWrite_wf _ _ h

theorem State.sendDown_wf (s : State) (cl : Nat) (sc : Scope) (ws : List SWrite) (h : Memory.wf s.mem) :
    Memory.wf (s.sendDown cl sc ws).mem := by
  have hd : Memory.wf (ws.foldl State.writeHome (s.drainEgress cl)).mem :=
    State.foldl_wf _ State.writeHome_wf _ _ (s.drainEgress_wf cl h)
  cases sc
  · exact h
  · have : (ws.foldl (fun s w => s.keepSource w.owner w.sec) s).mem = s.mem := 
      State.foldl_mem (fun (s : State) (w : SWrite) => s.keepSource w.owner w.sec) (fun _ _ => rfl) _ _
    show Memory.wf ((ws.foldl (fun s w => s.keepSource w.owner w.sec) s).putCluster cl _).mem
    simpa [this] using h
  · exact hd
  · exact State.flushPeers_wf _ hd
  · exact State.flushPeers_wf _ hd

/-- Sectors of the L2 replaced under a condition leave memory. -/
theorem State.ite_l2_wf (b : Bool) (s : State) (x : Tab L2Sector) (h : Memory.wf s.mem) :
    Memory.wf (if b = true then { s with l2 := x } else s).mem := by cases b <;> exact h

theorem State.meetPoison_wf (s : State) (ctx sec sub : Nat) (h : Memory.wf s.mem) : Memory.wf (s.meetPoison ctx sec sub).mem := by
  unfold State.meetPoison
  dsimp only
  split
  · next k _ =>
    have hf : Memory.wf (if sub = 7 then ({ s with fresh := s.fresh + 1 } : State).fillL2 ctx (k / 8)
        else { s with fresh := s.fresh + 1 }).mem := by
      split
      · exact State.fillL2_wf _ _ _ h
      · exact h
    exact State.ite_l2_wf _ _ _ hf
  · exact h

/-! ### Ranges -/

theorem State.writeSecs_wf (s s1 : State) (ctx : Nat) (l : List (Nat × BitVec 32 × BitVec 256)) (h : s.writeSecs ctx l = .ok s1)
    (w : Memory.wf s.mem) : Memory.wf s1.mem := by
  induction l generalizing s with
  | nil => simp [State.writeSecs] at h; exact h ▸ w
  | cons x r ih =>
    obtain ⟨va, m, d⟩ := x
    simp only [State.writeSecs] at h
    split at h
    · cases h
    · split at h
      · cases h
      · cases h
      · next s2 e => exact ih _ h (State.writeHome_wf _ _ (State.bindFor_wf _ _ _ _ _ e w))

theorem State.writeRange_wf (s s1 : State) (ctx va : Nat) (l : List Byte) (h : s.writeRange ctx va l = .ok s1) (w : Memory.wf s.mem) :
    Memory.wf s1.mem := by
  unfold State.writeRange at h
  split at h
  · cases h
  · exact s.writeSecs_wf s1 ctx _ h w

/-! ### The L1 -/

@[simp] theorem State.putL1_mem (s : State) (core sec : Nat) (x : Sector) : (s.putL1 core sec x).mem = s.mem := rfl
@[simp] theorem State.tagL1_mem (s : State) (core line owner : Nat) : (s.tagL1 core line owner).mem = s.mem := rfl

theorem State.passL1_mem (s : State) (core ctx sec : Nat) (mask : BitVec 32) (d : BitVec 256) (clear : Bool) :
    (s.passL1 core ctx sec mask d clear).mem = s.mem := by
  unfold State.passL1
  split <;> rfl

theorem State.cleanL1_wf (s : State) (core : Nat) (sc : Scope) (p : Nat → Bool) (h : Memory.wf s.mem) :
    Memory.wf (s.cleanL1 core sc p).mem := by
  unfold State.cleanL1
  split
  · exact h
  · exact State.sendDown_wf _ _ _ _ h

theorem State.invalL1_wf (s : State) (core : Nat) (sc : Scope) (p : Nat → Bool) (h : Memory.wf s.mem) :
    Memory.wf (s.invalL1 core sc p).mem := s.cleanL1_wf core sc p h

theorem State.evictLine_wf (s : State) (core line : Nat) (h : Memory.wf s.mem) : Memory.wf (s.evictLine core line).mem :=
  s.cleanL1_wf core .device _ h

/-- A way made free keeps memory's form. -/
theorem State.makeWay_wf (s : State) (core line : Nat) (h : Memory.wf s.mem) : Memory.wf (s.makeWay core line).mem := by
  unfold State.makeWay
  dsimp only
  split
  · exact h
  · exact State.evictLine_wf _ _ _ h

theorem State.storeL1_wf (s : State) (core ctx sec : Nat) (mask : BitVec 32) (d : BitVec 256) (h : Memory.wf s.mem) :
    Memory.wf (s.storeL1 core ctx sec mask d).mem := by
  unfold State.storeL1
  simpa using s.makeWay_wf core (sec / 8) h

theorem State.loadL1_wf (s : State) (core ctx sec : Nat) (h : Memory.wf s.mem) : Memory.wf (s.loadL1 core ctx sec).2.mem := by
  unfold State.loadL1
  split
  · split
    · exact h
    · dsimp only
      split
      · exact h
      · simpa using s.filled_wf ctx sec h
  · dsimp only
    split
    · exact h
    · simpa using State.makeWay_wf _ core (sec / 8) (s.filled_wf ctx sec h)

/-- Reset memory is in its form: it lists nothing. -/
theorem State.reset_wf : Memory.wf State.reset.mem := rfl

end Sys2Proof.Machine
end

