-- ==== Sys2Proof/Laws/Ops.lean ====
section
/-! SUPPORT. The shared operations of the strands, each with what it answers: reads and writes of registers, where an instruction of a
slot goes on, and what taking a trap leaves. -/

namespace Sys2Proof.Machine

/-! ### Registers (03 R56-R58) -/

@[simp] theorem Task.rd_zero (t : Task) (sd : Side) : t.rd sd 0 = 0 := by simp [Task.rd]
@[simp] theorem Strand.setReg_zero (st : Strand) (v : Word) : st.setReg 0 v = st := by simp [Strand.setReg]
@[simp] theorem Task.result_zero (t : Task) (sd : Side) (lat : Nat) (v : Word) : t.result sd 0 lat v = t := by simp [Task.result]
@[simp] theorem Task.pr_zero (t : Task) (sd : Side) : t.pr sd 0 = true := by simp [Task.pr]
@[simp] theorem Task.guard_zero (t : Task) (sd : Side) : t.guard sd 0 = true := by simp [Task.guard, Task.pr]
@[simp] theorem Task.mask_zero (t : Task) : t.mask 0 = BitVec.allOnes 64 := by simp [Task.mask]

/-- A register read after a register set. -/
theorem Strand.setReg_get (st : Strand) (r q : Nat) (v : Word) :
    tget 0 (st.setReg r v).regs q = if q = r ∧ r ≠ 0 then v else tget 0 st.regs q := by
  unfold Strand.setReg
  by_cases h : r = 0
  · simp [h]
  · simp [h]

/-- An A-strand result stands in its register at once; every other register is as before. -/
theorem Task.result_rd_a (t : Task) (r q : Reg) (lat : Nat) (v : Word) (h : r ≠ 0) :
    (t.result .a r lat v).rd .a q = if q = r then v else t.rd .a q := by
  have hr : r.toNat ≠ 0 := fun e => h (BitVec.eq_of_toNat_eq e)
  have hq : q.toNat = r.toNat ↔ q = r := ⟨BitVec.eq_of_toNat_eq, fun e => by rw [e]⟩
  have hz : q = r → q ≠ 0 := fun e => e ▸ h
  unfold Task.result Task.rd
  rw [if_neg h]
  simp only [Task.st, Strand.setReg_get, hq]
  grind

/-- An X-strand result is in flight: no register of either strand changes yet. -/
theorem Task.result_x (t : Task) (r : Reg) (lat : Nat) (v : Word) (h : r ≠ 0) :
    t.result .x r lat v = t.launchX lat (.sreg r.toNat v) := by
  unfold Task.result
  rw [if_neg h]

@[simp] theorem Task.launchX_rd (t : Task) (lat : Nat) (k : FKind) (sd : Side) (q : Reg) : (t.launchX lat k).rd sd q = t.rd sd q := by
  cases sd <;> rfl

/-! ### Where an instruction goes on -/

theorem onTask_here {s : State} {t : Task} (h : s.here = some t) (f : Task → State) : onTask s f = .next (f t) := by
  simp [onTask, h]

theorem onlyA_a {s : State} {t : Task} (h : s.On .a t) (f : Task → State) : onlyA s f = .next (f t) := by
  simp [onlyA, onTask, h.1, h.2]

theorem onlyA_x {s : State} {t : Task} (h : s.On .x t) (f : Task → State) : onlyA s f = .next (ill s 0x07) := by
  simp [onlyA, onTask, h.1, h.2]

theorem onlyX_x {s : State} {t : Task} (h : s.On .x t) (f : Task → State) : onlyX s f = .next (f t) := by
  simp [onlyX, onTask, h.1, h.2]

theorem onlyX_a {s : State} {t : Task} (h : s.On .a t) (f : Task → State) : onlyX s f = .next (ill s 0x07) := by
  simp [onlyX, onTask, h.1, h.2]

/-- A MEM-slot instruction with its slot open goes on with the task. -/
theorem memSlot_open {s : State} {t : Task} {w : BitVec 8} (h : MemOpen s t w) (f : Task → State) :
    memSlot s w f = .next (f t) := by
  obtain ⟨h1, h2, h3, h4, h5⟩ := h
  simp [memSlot, onlyA_a h1, h2, h3, Task.memHeld, h4, h5]

/-- A SEM-slot instruction with its slot open goes on with the task. -/
theorem semSlot_open {s : State} {t : Task} (h : s.On .a t) (hf : t.fenced = false) (f : Task → State) :
    semSlot s f = .next (f t) := by simp [semSlot, onlyA_a h, hf]

theorem strongSem_open {s : State} {t : Task} (h : SemOpen s t) (f : Task → State) : strongSem s f = .next (f t) := by
  obtain ⟨h1, h2, h3⟩ := h
  simp [strongSem, semSlot, onlyA_a h1, h2, h3]

/-- A walker word runs on the acting walk program. -/
theorem onWalk_walking {s : State} {j : Job} {w : Walk} (h : s.Walking j w) (f : Job → Walk → State) :
    onWalk s f = .next (f j w) := by simp [onWalk, h.1, h.2]

/-- A scalar result, said once for every instruction of this shape. -/
theorem scalarOp_here {s : State} {t : Task} (h : s.here = some t) (d : Reg) (lat : Nat) (f : Task → Side → Word) :
    scalarOp s d lat f = .next (finish s (t.result s.cur.side d lat (f t s.cur.side))) := onTask_here h _

/-! ### Traps (04 R99, 23 R452, R454) -/

theorem ill_here {s : State} {t : Task} (h : s.here = some t) (sub : Nat) :
    ill s sub = enterTrap s s.cur.side 1 sub (t.st s.cur.side).pc := by simp [ill, trapHere, h]

theorem trapHere_here {s : State} {t : Task} (h : s.here = some t) (code sub : Nat) :
    trapHere s code sub = enterTrap s s.cur.side code sub (t.st s.cur.side).pc := by simp [trapHere, h]

@[simp] theorem State.deliver_mem (s : State) (fn : Nat) (ty : BitVec 8) (m : Msg) : (s.deliver fn ty m).mem = s.mem := by
  unfold State.deliver
  dsimp only
  split <;> rfl

@[simp] theorem State.deliver_tasks (s : State) (fn : Nat) (ty : BitVec 8) (m : Msg) : (s.deliver fn ty m).tasks = s.tasks := by
  unfold State.deliver
  dsimp only
  split <;> rfl

@[simp] theorem State.deliver_l2 (s : State) (fn : Nat) (ty : BitVec 8) (m : Msg) : (s.deliver fn ty m).l2 = s.l2 := by
  unfold State.deliver
  dsimp only
  split <;> rfl

@[simp] theorem State.post_mem (s : State) (fn : Nat) (ty : BitVec 8) (m : Msg) : (s.post fn ty m).mem = s.mem := by
  unfold State.post
  split
  · simp
  · rfl

@[simp] theorem State.post_tasks (s : State) (fn : Nat) (ty : BitVec 8) (m : Msg) : (s.post fn ty m).tasks = s.tasks := by
  unfold State.post
  split
  · simp
  · rfl

@[simp] theorem State.post_l2 (s : State) (fn : Nat) (ty : BitVec 8) (m : Msg) : (s.post fn ty m).l2 = s.l2 := by
  unfold State.post
  split
  · simp
  · rfl

@[simp] theorem State.postFault_mem (s : State) (r : FaultRec) : (s.postFault r).mem = s.mem := by
  unfold State.postFault
  dsimp only
  split <;> simp

@[simp] theorem State.postFault_tasks (s : State) (r : FaultRec) : (s.postFault r).tasks = s.tasks := by
  unfold State.postFault
  dsimp only
  split <;> simp

/-- A termination changes no byte of memory and no task. -/
@[simp] theorem State.terminate_mem (s : State) (c : Nat) (r : FaultRec) : (s.terminate c r).mem = s.mem := by
  unfold State.terminate
  dsimp only
  split
  · simp
  · rfl

@[simp] theorem State.terminate_tasks (s : State) (c : Nat) (r : FaultRec) : (s.terminate c r).tasks = s.tasks := by
  unfold State.terminate
  dsimp only
  split
  · simp
  · rfl

/-- Taking a trap changes no byte of memory. -/
@[simp] theorem enterTrapFor_mem (s : State) (sd : Side) (code sub : Nat) (pc : Word) (f : FaultRec → FaultRec) :
    (enterTrapFor s sd code sub pc f).mem = s.mem := by
  unfold enterTrapFor
  split
  · rfl
  · dsimp only
    split
    · simp
    · rfl

@[simp] theorem enterTrap_mem (s : State) (sd : Side) (code sub : Nat) (pc : Word) : (enterTrap s sd code sub pc).mem = s.mem :=
  enterTrapFor_mem s sd code sub pc id

@[simp] theorem trapHere_mem (s : State) (code sub : Nat) : (trapHere s code sub).mem = s.mem := by
  unfold trapHere
  split <;> simp

@[simp] theorem ill_mem (s : State) (sub : Nat) : (ill s sub).mem = s.mem := trapHere_mem s 1 sub

@[simp] theorem State.holdFault_mem (s : State) (ctx : Nat) (f : BFault) : (s.holdFault ctx f).mem = s.mem := by
  simp [State.holdFault]

@[simp] theorem takeBack_mem (s : State) (t : Task) (sub va kind : Nat) : (takeBack s t sub va kind).mem = s.mem := by
  simp [takeBack, takeBackFor]

@[simp] theorem finish_mem (s : State) (t : Task) : (finish s t).mem = s.mem := rfl
@[simp] theorem finishA_mem (s : State) (t : Task) : (finishA s t).mem = s.mem := rfl
@[simp] theorem finishX_mem (s : State) (t : Task) : (finishX s t).mem = s.mem := rfl

/-- A trap writes the record of its strand: TRAPINFO and TRAPPC, and the strands' pcs stay. -/
theorem Task.setTrap_st (t : Task) (sd : Side) (code sub : Nat) (pc : Word) :
    ((t.setTrap sd code sub pc).st sd).trap = { code := BitVec.ofNat 8 code, sub := BitVec.ofNat 8 sub, fatal := trapFatal code } ∧
      ((t.setTrap sd code sub pc).st sd).trappc = pc ∧
      ∀ q, ((t.setTrap sd code sub pc).st q).pc = (t.st q).pc := by
  refine ⟨?_, ?_, fun q => ?_⟩ <;> cases sd <;> (try cases q) <;> rfl

/-! ### Commands (15 R316-R318) -/

theorem command_good {s : State} {bad : Bool} (k : State) (h : bad = false) : command s bad k = .next k := by simp [command, h]
theorem command_bad {s : State} {bad : Bool} (k : State) (h : bad = true) : command s bad k = .next (s.ended 6) := by simp [command, h]

/-- A buffer whose lines are free and whose bytes can be read is read. -/
theorem withBuffer_bytes {s : State} {va n st : Nat} {l : List Byte} (k : List Byte → State)
    (h1 : s.linesHeld s.curCtx (sectorsOf va n) = false) (h2 : s.readRange none s.curCtx va n = .bytes l) :
    withBuffer s va n st k = k l := by simp [withBuffer, h1, h2]

/-- A write of a central block whose lines are free and that no condition stops. -/
theorem State.blockPut_ok {s s1 : State} {ctx va : Nat} {id : BitVec 32} {l : List Byte}
    (h1 : s.linesHeld ctx (sectorsOf va l.length) = false) (h2 : s.writeRange ctx va l = .ok s1) :
    s.blockPut ctx id va l = .made s1 := by simp [State.blockPut, h1, h2]

theorem blockWrite_ok {s s1 : State} {ctx va : Nat} {id : BitVec 32} {l : List Byte} (k : State → State)
    (h1 : s.linesHeld ctx (sectorsOf va l.length) = false) (h2 : s.writeRange ctx va l = .ok s1) :
    blockWrite s ctx id va l k = k s1 := by simp [blockWrite, State.blockPut_ok h1 h2]

end Sys2Proof.Machine
end

