-- ==== Sys2Proof/Laws/Operands.lean ====
section
/-! SUPPORT. Operands of the X-strand: what claiming registers and fetching operands leave alone, and where they go on. -/

namespace Sys2Proof.Machine

/-! ### Claiming registers (03 R63-R66, R68) -/

/-- Registers that `Claimed` names are claimed. -/
theorem claim_claimed {s : State} {t u : Task} {rs ws : List Nat} (h : Claimed s t rs ws u) (k : Task → State) :
    claim s t rs ws k = k u := by
  obtain ⟨a, b, h1, h2, h3, h4, h5⟩ := h
  simp [claim, h1, h2, h3, h4, h5]

/-- Binding changes the slots' map of a task and nothing else of it. -/
theorem Task.bind_frame {t u : Task} {used named : List Nat} {k : Nat} (h : t.bind used named k = some u) :
    ∃ m, u = t.onX fun x => { x with slots := m } := by
  unfold Task.bind at h
  split at h
  · cases h; exact ⟨_, rfl⟩
  · split at h
    · cases h
    · cases h; exact ⟨_, rfl⟩

theorem bindAll_frame {used : Task → List Nat} {named : List Nat} (l : List Nat) (t u : Task)
    (h : bindAll used named l t = some u) : ∃ m, u = t.onX fun x => { x with slots := m } := by
  induction l generalizing t with
  | nil => simp only [bindAll, Option.some.injEq] at h; exact ⟨t.xs.slots, h.symm⟩
  | cons k ks ih =>
    simp only [bindAll] at h
    split at h
    · exact ih _ h
    · split at h
      · cases h
      · next v e =>
        obtain ⟨m, rfl⟩ := Task.bind_frame e
        obtain ⟨m2, rfl⟩ := ih _ h
        exact ⟨m2, rfl⟩

/-- Claiming changes the slots' map of the task and nothing else of it. -/
theorem Claimed.frame {s : State} {t u : Task} {rs ws : List Nat} (h : Claimed s t rs ws u) :
    ∃ m, u = t.onX fun x => { x with slots := m } := by
  obtain ⟨_, _, _, _, _, _, e⟩ := h
  exact bindAll_frame _ _ _ e

/-! ### Fetches -/

/-- A fetch that neither waits nor traps goes on with its task. -/
theorem Fetch.done_ready {f : Fetch} (h : f.Ready) (s : State) (k : Task → State) : f.done s k = k f.t := by
  simp [Fetch.done, h.1, h.2]

/-- What a fetch leaves alone of a task: the strands' registers, the matrix registers, the masks, rounding and the lanes. -/
def SameRegs (t u : Task) : Prop :=
  u.a = t.a ∧ u.x = t.x ∧ u.as = t.as ∧ u.win = t.win ∧ u.who = t.who ∧ u.consts = t.consts ∧
    { u.xs with touch := t.xs.touch } = t.xs

theorem SameRegs.refl (t : Task) : SameRegs t t := ⟨rfl, rfl, rfl, rfl, rfl, rfl, rfl⟩

theorem SameRegs.trans {t u v : Task} (h : SameRegs t u) (g : SameRegs u v) : SameRegs t v := by
  obtain ⟨h1, h2, h3, h4, h5, h6, h7⟩ := h
  obtain ⟨g1, g2, g3, g4, g5, g6, g7⟩ := g
  refine ⟨g1.trans h1, g2.trans h2, g3.trans h3, g4.trans h4, g5.trans h5, g6.trans h6, ?_⟩
  calc { v.xs with touch := t.xs.touch } = { { v.xs with touch := u.xs.touch } with touch := t.xs.touch } := rfl
    _ = { u.xs with touch := t.xs.touch } := by rw [g7]
    _ = t.xs := h7

/-- A fetch that adds a condition or a wait keeps its task. -/
@[simp] theorem Fetch.raise_t (f : Fetch) (c k : Nat) (pc : Word) : (f.raise c k pc).t = f.t := rfl
@[simp] theorem Fetch.hold_t (f : Fetch) : f.hold.t = f.t := rfl
@[simp] theorem Fetch.holdOn_t (f : Fetch) (p : Nat) : (f.holdOn p).t = f.t := rfl

@[simp] theorem Fetch.idle_t (f : Fetch) (p : Nat) (pc : Word) : (f.idle p pc).t = f.t := by
  unfold Fetch.idle; split <;> rfl

theorem Fetch.touch_same (f : Fetch) (key ic : Nat) (pc : Word) : SameRegs f.t (f.touch key ic pc).t := by
  unfold Fetch.touch
  dsimp only
  split
  · exact ⟨rfl, rfl, rfl, rfl, rfl, rfl, rfl⟩
  · split <;> exact ⟨rfl, rfl, rfl, rfl, rfl, rfl, rfl⟩

theorem Task.setTag_same (t : Task) (v : Nat) (g : Tag) : SameRegs t (t.setTag v g) := ⟨rfl, rfl, rfl, rfl, rfl, rfl, rfl⟩
theorem Task.putPort_same (t : Task) (p : Nat) (q : Port) : SameRegs t (t.putPort p q) := ⟨rfl, rfl, rfl, rfl, rfl, rfl, rfl⟩

/-- A condition raised or not keeps the task. -/
theorem Fetch.raiseIf_t (b : Prop) [Decidable b] (f : Fetch) (c k : Nat) (pc : Word) : (if b then f.raise c k pc else f).t = f.t := by
  split <;> rfl

/-- A pop of a load port leaves every register as it was. -/
theorem Fetch.pop_same (f : Fetch) (p ic : Nat) (pc : Word) (g : Nat) : SameRegs f.t (f.pop p ic pc g).2.2.t := by
  unfold Fetch.pop
  dsimp only
  split
  · simpa using SameRegs.refl _
  · split
    · exact SameRegs.refl _
    · next v _ =>
      generalize hf : (if (decide (g = 1) && decide (16 ≤ f.t.win.bankOf v)) = true then f.raise 2 1 pc
          else if (decide (g = 2) && decide (f.t.win.bankOf v < 16)) = true then f.raise 2 2 pc else f) = f1
      have h1 : SameRegs f.t f1.t := by
        subst hf
        repeat' split
        all_goals exact SameRegs.refl _
      clear hf
      split
      · exact h1
      · have h2 := h1.trans (Fetch.touch_same f1 (f.t.win.bankOf v) ic pc)
        generalize f1.touch (f.t.win.bankOf v) ic pc = f2 at h2 ⊢
        simp only [Fetch.raiseIf_t]
        split
        · exact (h2.trans (Task.putPort_same _ _ _)).trans (Task.setTag_same _ _ _)
        · exact h2.trans (Task.putPort_same _ _ _)

/-- A row taken through a store port leaves every register as it was. -/
theorem Fetch.take_same (f : Fetch) (p ic : Nat) (pc : Word) : SameRegs f.t (f.take p ic pc).2.t := by
  unfold Fetch.take
  dsimp only
  split
  · simpa using SameRegs.refl _
  · split
    · exact SameRegs.refl _
    · split
      · exact SameRegs.refl _
      · dsimp only
        have h2 := Fetch.touch_same f (f.t.win.bankOf ‹Nat›) ic pc
        split <;> exact h2.trans (Task.putPort_same _ _ _)

theorem Fetch.popAq_same (f : Fetch) (cc : Nat) (pc : Word) : SameRegs f.t (f.popAq cc pc).2.t := by
  unfold Fetch.popAq
  split
  · exact ⟨rfl, rfl, rfl, rfl, rfl, rfl, rfl⟩
  · dsimp only
    split <;> exact SameRegs.refl _

/-- A source read leaves every register as it was. -/
theorem Fetch.source_same (f : Fetch) (cc w : Nat) (o : Opd) : SameRegs f.t (f.source cc w o).2.t := by
  unfold Fetch.source
  cases o with
  | slice d m x => dsimp only; split <;> exact SameRegs.refl _
  | loadPort p => exact Fetch.pop_same _ _ _ _ _
  | storePort p => exact SameRegs.refl _
  | aq => exact Fetch.popAq_same _ _ _
  | sreg r => exact SameRegs.refl _
  | const i => exact SameRegs.refl _
  | zero => exact SameRegs.refl _

theorem Fetch.sources_same (f : Fetch) (cc w : Nat) (a b : Opd) : SameRegs f.t (f.sources cc w a b).2.2.t := by
  have h := f.source_same cc w a
  have g := h.trans (Fetch.source_same _ cc w b)
  unfold Fetch.sources
  dsimp only
  repeat' split
  all_goals first | exact h | exact g

/-- A destination fixed leaves every register as it was. -/
theorem Fetch.dest_same (f : Fetch) (o : Opd) : SameRegs f.t (f.dest o).2.t := by
  unfold Fetch.dest
  cases o with
  | slice d m x => dsimp only; split <;> exact SameRegs.refl _
  | storePort p => exact Fetch.take_same _ _ _ _
  | _ => exact SameRegs.refl _

/-- What an instruction reads of a task with the same registers. -/
theorem SameRegs.reads {t u : Task} (h : SameRegs t u) (sd : Side) (r : Reg) (g : BitVec 3) (k v : Nat) :
    u.rd sd r = t.rd sd r ∧ u.mask g = t.mask g ∧ u.slotOf k = t.slotOf k ∧ u.mrow k v = t.mrow k v ∧
      u.xs.rndm = t.xs.rndm ∧ u.xs.flights = t.xs.flights := by
  obtain ⟨h1, h2, h3, h4, h5, h6, h7⟩ := h
  have e : ∀ {α : Type} (p : XState → α), (∀ x y, p { x with touch := y } = p x) → p u.xs = p t.xs :=
    fun p hp => by rw [← hp u.xs t.xs.touch, h7]
  refine ⟨?_, ?_, ?_, ?_, e (·.rndm) fun _ _ => rfl, e (·.flights) fun _ _ => rfl⟩
  · cases sd <;> simp [Task.rd, Task.st, h1, h2]
  · simp only [Task.mask, e (·.masks) fun _ _ => rfl]
  · simp only [Task.slotOf, Task.ring, h5, e (·.base) fun _ _ => rfl]
  · simp only [Task.mrow, e (·.mrows) fun _ _ => rfl]

end Sys2Proof.Machine
end

