-- ==== Sys2Proof/Tests/Slice0.lean ====
section
/-! SUPPORT. Tests: words written out from the spec's encodings, ill-formed terms that the well-formedness check refuses, single
steps with results worked out by hand from the rules, and for every statement with hypotheses concrete states and operands that
meet them (`witness_<statement>`, at the edges of their ranges). -/

namespace Sys2Proof.Tests

set_option Elab.async false

open Sys2Proof.Machine

/-! ### Words of the encodings -/

/-- 04 R85-R91, 05: scalar and control words. -/
theorem test_decode_scalar :
    decodeWord 0x8000000000000000 = .ok .nop ∧ decodeWord 0x820009F600000120 = .ok (.bext 9 61 32 4) ∧
    decodeWord 0x832500000000CDEF = .ok (.liN 9 0xCDEF) ∧ decodeWord 0x84240123456789AB = .ok (.lui 9 0x0123456789AB) ∧
    decodeWord 0x860803120000000A = .ok (.cmp .ltI 3 4 (.imm 10)) ∧ decodeWord 0x94000000FFFFFFFC = .ok (.loop (-4)) ∧
    decodeWord 0x96B0000000000000 = .ok (.bqpush 11) ∧ decodeWord 0x9B240002000001FF = .ok (.srset 9 (.imm 511)) ∧
    decodeWord 0x9C04000200000514 = .ok (.waittRel 0 (.imm 1300)) := by decide +kernel

/-- 06 R142, R148: a vector word. -/
theorem test_decode_vector : decodeWord 0xAB00001040000012 =
    .ok (.vcvt { ty := 0, rnd := 0, sat := false, mask := 0 } (.slice 0 1 1) (.slice 0 0 0) 1 2) := by decide +kernel

/-- 08 R210, R211 and 09 R234: words of the MA format. -/
theorem test_decode_memory :
    decodeWord 0xD000018000000000 = .ok (.pset 0 0 0 6) ∧
    decodeWord 0xD800014430000000 = .ok (.ld false 3 5 { wait := 0, base := 4, disp := 0 }) ∧
    decodeWord 0xD900014430000000 = .ok (.st false 0 3 5 { wait := 0, base := 4, disp := 0 }) ∧
    decodeWord 0xDF0007D400000000 = .ok (.rbind 31 { wait := 0, base := 20, disp := 0 }) ∧
    decodeWord 0xDE06000024800000 = .ok (.fenceRel 6 .device) := by decide +kernel

/-- 10 R253 and R271: a copy and the walker word `halt`. -/
theorem test_decode_walker :
    decodeWord 0xE0004A2000000008 =
      .ok (.cpy { wait := 0, k := 2, rg := 20, kind := .sg, w := 0, waite := false, srcw := true, srcc := false } false) ∧
    decodeWalker 0x5000 = .ok .walkerHalt := by decide +kernel

/-- 11 R278, 18 R382, R400, R406 and 19 R420: words of the SY format. -/
theorem test_decode_system :
    decodeWord 0xE804037800000000 = .ok (.sfadd { g := 0, d := 3, s := 30, o := 0 }) ∧
    decodeWord 0xF800005400000000 = .ok (.samp 0 21) ∧ decodeWord 0xF9000A1000000000 = .ok (.bpost 10 4) ∧
    decodeWord 0xFA04060000000000 = .ok (.bstat 6 0 false) ∧ decodeWord 0xFC00045150000000 = .ok (.ckpt 4 20 21) ∧
    decodeWord 0xFC04040000000000 = .ok (.ckptSize 4) := by decide +kernel

/-- A command with its first two operands and nothing else. -/
def cmd (a b : Word) : Cmd :=
  { flags := 0, phase := 0, ceil := 0, scope := 0, z := 0, a := a, b := b, caddr := 0, seq := 0, w5 := 0, w6 := 0, w7 := 0 }

/-- 15 R316, R317: SETGP of index 5 with value 7; an OP outside the table is none. -/
theorem test_decode_command :
    decodeCommand 0x700000000000000050000000000000003 = some (.setgp (cmd 5 7)) ∧ decodeCommand 0xFF = none := by decide +kernel

/-- 04 R98: an unassigned major is ILL 0x01, and a nonzero field marked 0 is ILL 0x03. -/
theorem test_decode_refuses :
    (∃ n, decodeWord 0xFF00000000000000 = .ill n) ∧ (∃ n i, decodeWord 0x8000000000000001 = .flawed n i) := by
  exact ⟨⟨_, rfl⟩, ⟨_, _, rfl⟩⟩

/-! ### Ill-formed terms -/

/-- A vector operation of a type. -/
def vo (ty : BitVec 4) : VOp := { ty := ty, rnd := 0, sat := false, mask := 0 }

/-- A slice of a register. -/
def sl : Opd := .slice 0 0 0

/-- Operands of an `mma` that name nothing. -/
def mma0 : MmaArgs :=
  { acc := 0, pa := 0, pb := 1, ety := 1, kch := 0, ta := false, q := false, aux := 0, sa := 0, sb := 0, srow := 0 }

/-- Fields of an `aread` of one row. -/
def arow0 : ARow := { acc := 0, rnd := 0, rows := 0, ety := 0, side := false, h := false, sat := false, m := 0, d := 0, f := 0 }

/-- A copy from global memory to the scratchpad. -/
def cpy0 : CpyArgs := { wait := 0, k := 0, rg := 0, kind := .gs, w := 0, waite := false, srcw := false, srcc := false }

/-- Every check of `wellFormed` refuses a term that breaks it (05). -/
theorem test_ill_formed_scalar : ∀ i ∈ [Instr.shl 1 2 (.imm 64), .shr 1 2 (.imm 64), .sar 1 2 (.imm 64), .rotl 1 2 (.imm 64),
    .bext 1 2 1 63, .bextI 1 2 1 63, .bins 1 2 63 1, .lea 1 2 (.reg 3) 5, .srget 1 0x16, .srset 0x16 (.imm 0)],
    wellFormed i = false := by decide +kernel

/-- Every check of `wellFormed` refuses a term that breaks it (06). -/
theorem test_ill_formed_vector : ∀ i ∈ [Instr.vadd (vo 5) sl sl sl, .vsub (vo 5) sl sl sl, .vmul { vo 0 with rnd := 7 } sl sl sl,
    .vfma (vo 6) sl sl sl, .vfma (vo 0) (.storePort 0) sl sl, .vmin { vo 0 with sat := true } sl sl sl, .vmax (vo 5) sl sl sl,
    .vabs (vo 7) sl sl, .vexp2 (vo 6) sl sl, .vlog2 (vo 6) sl sl, .vrcp (vo 6) sl sl, .vrsq (vo 6) sl sl,
    .vcvt (vo 0) sl sl 2 1, .vmxq (vo 0) sl sl 1 0, .vmxd (vo 0) sl sl 1 0, .vcmp { vo 6 with rnd := 6 } 1 sl sl,
    .vsel { vo 0 with sat := true } sl sl sl, .vand { vo 0 with sat := true } sl sl sl, .vor { vo 0 with sat := true } sl sl sl,
    .vxor { vo 0 with sat := true } sl sl sl, .vshl (vo 0) sl sl sl, .vshr (vo 0) sl sl sl, .vsar (vo 0) sl sl sl,
    .vred (vo 0) 3 sl sl, .vscan (vo 0) 3 sl sl, .vhist (vo 9) 1 2 sl 0, .vhist (vo 9) 1 0 sl 9, .vbcast (vo 0) sl sl (.imm 32),
    .viota (vo 0) sl .zero, .vperm (vo 5) sl sl sl, .vseed (vo 9) 1, .vrand (vo 8) sl, .vclass (vo 9) sl sl,
    .vorder (vo 7) false sl sl, .mmov { vo 0 with sat := true } sl sl, .mzero { vo 0 with mask := 1 } 1,
    .mxpose { vo 0 with mask := 1 } 1 2, .mshuf (vo 9) 1 2 .aq, .vadd (vo 0) (.loadPort 0) sl sl, .vadd (vo 0) sl (.storePort 0) sl],
    wellFormed i = false := by decide +kernel

/-- Every check of `wellFormed` refuses a term that breaks it (07, 08, 09). -/
theorem test_ill_formed_tiles : ∀ i ∈ [Instr.mma { mma0 with ety := 8 }, .mma { mma0 with q := true, ety := 6 },
    .mma { mma0 with sa := 1 }, .mma { mma0 with pb := 0 }, .mma { mma0 with ta := true, pa := 1 }, .mmag { mma0 with ety := 0 },
    .mmag { mma0 with ta := true }, .aread { arow0 with ety := 5 }, .aread { arow0 with rnd := 7 },
    .aread { arow0 with side := true, ety := 1 }, .awrite { arow0 with rnd := 1 }, .awrite { arow0 with sat := true },
    .ascale 1 2 1 false, .mld 0 1 63 0 1, .mst 0 0 1 63 1, .pset 0 12 0 1, .parm 0 12, .pstop 0 12, .pstat 0 1 12,
    .ldf 7 1 { wait := 0, base := 2, disp := 0 }, .ldx 7 1 { wait := 0, base := 2, disp := 0 },
    .ld false 7 1 { wait := 0, base := 2, disp := 0 }, .lds false .core 7 1 { wait := 0, base := 2, disp := 0 },
    .clean .core 0 { wait := 0, base := 1, disp := 0 }, .inval .core 0 { wait := 0, base := 0, disp := 1 }],
    wellFormed i = false := by decide +kernel

/-- Every check of `wellFormed` refuses a term that breaks it (10, 11, 15-18). -/
theorem test_ill_formed_system : ∀ i ∈ [Instr.cpy { cpy0 with rg := 59 } false, .cpy { cpy0 with kind := .gg, waite := true } false,
    .cpyt { cpy0 with srcw := true }, .cpym 0 0 59 0 false 0 1, .cpym 0 0 0 0 false 0 0, .cpyg 0 0 59 false 0 false,
    .cpyg 0 0 0 false 0 true, .walk { wait := 0, k := 0, rg := 0, w := 0, npar := 7, entry := 0, chain := 0, chen := false },
    .walk { wait := 0, k := 0, rg := 1, w := 0, npar := 0, entry := 0, chain := 0, chen := false }, .permit 0 0 0,
    .permitLand 0 59 0, .tokst 0 0 59, .wload 0 0 59 0, .sadd { g := 0, d := 1, s := 2, o := 3 },
    .sset { g := 0, d := 1, s := 2, o := 3 }, .ssetm 0 1 2 0 0 false, .swait 4 1 2 3, .swaitv 4 1 2 3,
    .enq 1 0 0 1 false false, .enq 1 2 0 0 false false, .splitAny 1 0 0 0 false 1, .splitAny 1 2 0 0 false 0,
    .splitHere 2 0 0 false 0, .splitHere 0 0 4 true 0, .gpset 1 2 3 true, .gpget 1 0 3 false, .xlq 1 2 true, .sslack 1 2 false,
    .bstat 1 2 false],
    wellFormed i = false := by decide +kernel

/-! ### Small states -/

/-- A task of context 1 in bank 0 of core 0, whose A-strand acts. -/
def sa (t : Task) : State := (State.reset.putCtx 1 placeCtx).putTask 0 0 t

/-- The same with the X-strand acting. -/
def sx (t : Task) : State := { sa t with cur := { core := 0, bank := 0, side := .x } }

/-- The empty task. -/
def t0 : Task := placeTask

/-- The empty task with s1 of its A-strand set. -/
def t1 (v : Word) : Task := { t0 with a := { Strand.zero with regs := [(1, v)] } }

/-- The A-strand of `sa t` acts on `t`. -/
theorem sa_on (t : Task) : (sa t).On .a t := ⟨rfl, rfl⟩

/-- The X-strand of `sx t` acts on `t`. -/
theorem sx_on (t : Task) : (sx t).On .x t := ⟨rfl, rfl⟩

/-! ### Witnesses: registers and scalar instructions -/

theorem witness_ScalarRegisters : (63 : Reg) ≠ 0 ∧ (1 : Reg) ≠ 0 := by decide

theorem witness_LaneMasks : (7 : BitVec 3) ≠ 0 ∧ (1 : BitVec 3) ≠ 0 := by decide

theorem witness_IntegerResults : (sa t0).here = some t0 ∧ ¬ (63 < (63 : BitVec 33).toNat) ∧ 63 < (64 : BitVec 33).toNat ∧
    (0 : Reg).toNat + (63 : Reg).toNat + 1 ≤ 64 ∧ (63 : Reg).toNat + (0 : Reg).toNat + 1 ≤ 64 ∧
    64 < (1 : Reg).toNat + (63 : Reg).toNat + 1 := ⟨rfl, by decide⟩

theorem witness_ConstantAndPredicateResults : (sa t0).here = some t0 ∧ t0.guard .a 0 = true ∧ t0.guard .a 8 = false := ⟨rfl, by decide⟩

theorem witness_ScalarFrame : (sa t0).here = some t0 ∧ (sa t0).trapped = false ∧
    ∃ s', exec (.add 1 2 (.imm 3)) (sa t0) = .next s' ∧ s'.trapped = false := ⟨rfl, rfl, _, rfl, rfl⟩

/-- A task with a ring of one register. -/
def tring : Task := { t0 with who := { t0.who with n := 33 } }

theorem witness_BranchResults : (sa t0).here = some t0 ∧ t0.guard .a 0 = true ∧ t0.guard .a 8 = false ∧
    (t0.st .a).loopc = 0 ∧ ({ t0 with a := { Strand.zero with loopc := 1 } }.st .a).loopc ≠ 0 ∧
    ¬ ((t1 (2 ^ 57 - 8)).rd .a 1).toNat % 8 ≠ 0 ∧ ((t1 (2 ^ 57 - 8)).rd .a 1).toNat < 2 ^ 57 ∧ ((t1 1).rd .a 1).toNat % 8 ≠ 0 ∧
    2 ^ 57 ≤ ((t1 (2 ^ 57)).rd .a 1).toNat ∧ ({ t0 with who := { t0.who with n := 32 } } : Task).who.n ≤ 32 ∧
    (sx tring).here = some tring ∧ 32 < tring.who.n ∧ tring.who.n ≤ 96 ∧ tring.xs.base.toNat < tring.ring ∧
    tring.xs.step.toNat ≤ tring.ring := ⟨rfl, by decide +kernel, by decide +kernel, by decide, by decide, by decide +kernel,
      by decide +kernel, by decide +kernel, by decide +kernel, by decide, rfl, by decide, by decide, by decide, by decide⟩

/-- A core at a count of cc. -/
def at_cc (s : State) (n : Nat) : State := { s with cores := [(0, { Core.zero with cc := n })] }

/-- A queue of `n` entries pushed in cc 0. -/
def qof (n : Nat) (v : Word) : Queue := { items := List.replicate n { v := v, at_ := 0 }, popped := 0 }

theorem witness_QueueResults :
    (sa t0).here = some t0 ∧ (sa t0).cur.side = .a ∧ (sx t0).cur.side = .x ∧ t0.bq.items.length + (if t0.bq.popped = 0 + 1 then 1 else 0) < 64 ∧
    (qof 63 0).items.length + (if (qof 63 0).popped = 0 + 1 then 1 else 0) < 64 ∧ (qof 31 0).items.length < 32 ∧
    (qof 15 0).items.length < 16 ∧ (qof 1 1).items = [{ v := 1, at_ := 0 }] ∧ 0 + 2 ≤ ((at_cc (sx t0) 2).core 0).cc ∧
    (1 : Word) ≠ 0 ∧ ((at_cc (sx t0) 1).core 0).cc < 0 + 2 ∧ t0.aq.items = [] ∧ 32 ≤ (qof 32 0).items.length ∧
    16 ≤ (qof 16 0).items.length ∧ 64 ≤ (qof 64 0).items.length ∧ t0.a.ended = false ∧ ({ Strand.zero with ended := true }).ended = true := by
  refine ⟨rfl, rfl, rfl, ?_⟩
  decide +kernel

/-- The empty task with s1 of its X-strand set. -/
def x1 (v : Word) : Task := { t0 with x := { Strand.zero with regs := [(1, v)] } }

theorem witness_SystemRegisters :
    (sa t0).here = some t0 ∧ (0x15 : BitVec 6).toNat ≤ 0x15 ∧ 0x15 < (0x16 : BitVec 6).toNat ∧
    ((0 : BitVec 6).toNat < tring.ring ∧ (1 : BitVec 6) ≠ 0 ∧ (1 : BitVec 6).toNat ≤ max tring.ring 1) ∧
    tring.ring ≤ (1 : BitVec 6).toNat ∧ max tring.ring 1 < (2 : BitVec 6).toNat ∧
    ((x1 5).src .x (.reg 1)).extractLsb' 0 3 = 5 ∧ 6 ≤ (((x1 6).src .x (.reg 1)).extractLsb' 0 3).toNat ∧
    ((t1 0x182).src .a (.reg 1)).getLsbD 8 = true ∧ (((t1 0x182).src .a (.reg 1)).extractLsb' 0 8).toInt = -126 ∧
    (((t1 0x181).src .a (.reg 1)).extractLsb' 0 8).toInt = -127 ∧ (((t1 0x101).src .a (.reg 1)).extractLsb' 0 8).toInt = 1 ∧
    ((t1 8).src .a (.reg 1)).toNat % 8 = 0 ∧ ((t1 7).src .a (.reg 1)).toNat % 8 ≠ 0 := ⟨rfl, by decide +kernel⟩

/-- A device at tick 5. -/
def at5 (s : State) : State := { s with dt := 5 }

theorem witness_HoldEndBreak : (at5 (sa (t1 6))).here = some (t1 6) ∧ (at5 (sa (t1 6))).dt.toNat < ((t1 6).rd .a 1 + (t1 6).src .a (.imm 0)).toNat ∧
    ((t1 5).rd .a 1 + (t1 5).src .a (.imm 0)).toNat ≤ (at5 (sa (t1 5))).dt.toNat ∧
    (at5 (sa t0)).dt.toNat < ((at5 (sa t0)).dt + (t0.rd .a 0 + t0.src .a (.imm 1))).toNat ∧
    ((at5 (sa t0)).dt + (t0.rd .a 0 + t0.src .a (.imm 0))).toNat ≤ (at5 (sa t0)).dt.toNat ∧
    ({ Strand.zero with hold := some 5 }).hold = some 5 ∧ (5 : Word).toNat ≤ (at5 (sa t0)).dt.toNat ∧
    (at5 (sa t0)).dt.toNat < (6 : Word).toNat ∧ ((sa t0).ctx t0.who.ctx).debug = false ∧
    (((sa t0).putCtx 1 { placeCtx with debug := true }).ctx t0.who.ctx).debug = true := ⟨rfl, by decide +kernel⟩

/-! ### Witnesses: traps -/

theorem witness_IllegalStrand : (sx t0).here = some t0 ∧ (Instr.tfree { wait := 0, base := 0, disp := 0 }).legal = .access ∧
    (sx t0).cur.side = .x ∧ (sa t0).here = some t0 ∧ (Instr.loopr 0).legal = .execute ∧ (sa t0).cur.side = .a := ⟨rfl, rfl, rfl, rfl, rfl, rfl⟩

theorem witness_TrapEntry : (sa t0).here = some t0 ∧ (11 : Nat) < 256 ∧ (255 : Nat) < 256 ∧ (11 : Nat) ≠ 4 ∧ (11 : Nat) ≠ 8 ∧ (11 : Nat) ≠ 10 ∧
    (8 : Nat) ∈ [4, 8, 10] := ⟨rfl, by decide⟩

/-! ### Witnesses: vectors and the matrix engine -/

/-- Operands that are ready: s1 and zero to a slice of m0, the last register, or a store port whose walk stands on the last row. -/
theorem ready_slice (ty : BitVec 4) (d : Opd) (h : d = .slice 0 0 0 ∨ d = .slice 1 63 63) :
    ∃ u x y dst, VReady (sx t0) t0 (vo ty) (opdRegs (.sreg 1) ++ opdRegs .zero) (opdRegs d) (.sreg 1) .zero d u x y dst := by
  rcases h with rfl | rfl
  · exact ⟨_, _, _, _, sx_on t0, _, _, _, ⟨_, _, rfl, rfl, rfl, rfl, rfl⟩, rfl, rfl, ⟨rfl, rfl⟩, rfl⟩
  · exact ⟨_, _, _, _, sx_on t0, _, _, _, ⟨_, _, rfl, rfl, rfl, rfl, rfl⟩, rfl, rfl, ⟨rfl, rfl⟩, rfl⟩

/-- Operands of a `vfma`, whose destination is also read. -/
theorem ready_fma (ty : BitVec 4) :
    ∃ u x y dst, VReady (sx t0) t0 (vo ty) (opdRegs (.sreg 1) ++ opdRegs .zero ++ opdRegs sl) (opdRegs sl) (.sreg 1) .zero sl u x y dst :=
  ⟨_, _, _, _, sx_on t0, _, _, _, ⟨_, _, rfl, rfl, rfl, rfl, rfl⟩, rfl, rfl, ⟨rfl, rfl⟩, rfl⟩

theorem witness_VectorFloat : (∃ f, fmtOf (vo 0).ty.toNat = some f) ∧ (∃ f, fmtOf (vo 4).ty.toNat = some f) ∧
    (∃ u x y dst, VReady (sx t0) t0 (vo 0) (opdRegs (.sreg 1) ++ opdRegs .zero) (opdRegs sl) (.sreg 1) .zero sl u x y dst) ∧
    (∃ u x y dst, VReady (sx t0) t0 (vo 0) (opdRegs (.sreg 1) ++ opdRegs .zero ++ opdRegs sl) (opdRegs sl) (.sreg 1) .zero sl u x y dst) ∧
    ∃ u x y dst, VReady (sx t0) t0 (vo 0) (opdRegs (.sreg 1)) (opdRegs sl) (.sreg 1) .zero sl u x y dst :=
  ⟨⟨_, rfl⟩, ⟨_, rfl⟩, ready_slice 0 _ (.inl rfl), ready_fma 0, _, _, _, _, sx_on t0, _, _, _, ⟨_, _, rfl, rfl, rfl, rfl, rfl⟩, rfl, rfl,
    ⟨rfl, rfl⟩, rfl⟩

theorem witness_VectorInteger : fmtOf (vo 6).ty.toNat = none ∧ fmtOf (vo 11).ty.toNat = none ∧
    (∃ u x y dst, VReady (sx t0) t0 (vo 6) (opdRegs (.sreg 1) ++ opdRegs .zero) (opdRegs (.slice 1 63 63)) (.sreg 1) .zero (.slice 1 63 63) u x y
      dst) ∧
    ∃ u x y dst, VReady (sx t0) t0 (vo 6) (opdRegs (.sreg 1)) (opdRegs sl) (.sreg 1) .zero sl u x y dst :=
  ⟨rfl, rfl, ready_slice 6 _ (.inr rfl), _, _, _, _, sx_on t0, _, _, _, ⟨_, _, rfl, rfl, rfl, rfl, rfl⟩, rfl, rfl, ⟨rfl, rfl⟩, rfl⟩

theorem witness_VectorBits :
    (∃ u x y dst, VReady (sx t0) t0 (vo 5) (opdRegs (.sreg 1) ++ opdRegs .zero) (opdRegs sl) (.sreg 1) .zero sl u x y dst) ∧
    ∃ u x y dst, VReady (sx t0) t0 (vo 0) (opdRegs (.sreg 1)) (opdRegs sl) (.sreg 1) .zero sl u x y dst :=
  ⟨ready_slice 5 _ (.inl rfl), _, _, _, _, sx_on t0, _, _, _, ⟨_, _, rfl, rfl, rfl, rfl, rfl⟩, rfl, rfl, ⟨rfl, rfl⟩, rfl⟩

theorem witness_VectorShapes : (sx t0).On .x t0 ∧
    (∃ c x f dst h u, Claimed (sx t0) t0 (opdRegs (.sreg 1)) (opdRegs sl) c ∧ (Fetch.start c).source (sx t0).cc 32 (.sreg 1) = (x, f) ∧
      f.dest sl = (dst, h) ∧ h.Ready ∧ u = h.t ∧ ∃ row, x = .row row) ∧
    (∃ c x f dst h u, Claimed (sx t0) t0 (opdRegs (.const 1)) (opdRegs sl) c ∧ (Fetch.start c).source (sx t0).cc 8 (.const 1) = (x, f) ∧
      f.dest sl = (dst, h) ∧ h.Ready ∧ u = h.t ∧ ∃ hc, x = .const hc) ∧
    (∃ c x y f, Claimed (sx t0) t0 (opdRegs (.sreg 1) ++ opdRegs .zero) [] c ∧ (Fetch.start c).sources (sx t0).cc 32 (.sreg 1) .zero = (x, y, f) ∧
      f.Ready) ∧
    ∃ u x y dst, VReady (sx t0) t0 (vo 0) (opdRegs (.sreg 1) ++ opdRegs .zero) (opdRegs sl) (.sreg 1) .zero sl u x y dst :=
  ⟨sx_on t0, ⟨_, _, _, _, _, _, ⟨_, _, rfl, rfl, rfl, rfl, rfl⟩, rfl, rfl, ⟨rfl, rfl⟩, rfl, _, rfl⟩,
    ⟨_, _, _, _, _, _, ⟨_, _, rfl, rfl, rfl, rfl, rfl⟩, rfl, rfl, ⟨rfl, rfl⟩, rfl, _, rfl⟩,
    ⟨_, _, _, _, ⟨_, _, rfl, rfl, rfl, rfl, rfl⟩, rfl, rfl, rfl⟩, ready_slice 0 _ (.inl rfl)⟩

theorem witness_VectorRegisters : (sx t0).On .x t0 ∧
    (∃ c x f, Claimed (sx t0) t0 ((63 : BitVec 6).toNat :: opdRegs (.sreg 1)) [(63 : BitVec 6).toNat] c ∧
      (Fetch.start c).source (sx t0).cc 16 (.sreg 1) = (x, f) ∧ f.Ready ∧ f.t.slotOf (63 : BitVec 6).toNat = some 63) ∧
    (∃ u dst, VReady (sx t0) t0 (vo 9) [] (opdRegs sl) .zero .zero sl u (.row 0) (.row 0) dst) ∧
    (∃ c dst h, Claimed (sx t0) t0 [] (opdRegs sl) c ∧ (Fetch.start c).dest sl = (dst, h) ∧ h.Ready) ∧
    (∃ c, Claimed (sx t0) t0 [] [(1 : BitVec 6).toNat] c ∧ c.slotOf (1 : BitVec 6).toNat = some 1) ∧
    (∃ c, Claimed (sx t0) t0 [(2 : BitVec 6).toNat] [(1 : BitVec 6).toNat] c ∧ c.slotOf (1 : BitVec 6).toNat = some 1 ∧
      c.slotOf (2 : BitVec 6).toNat = some 2) ∧
    (∃ c x f, Claimed (sx t0) t0 ((2 : BitVec 6).toNat :: opdRegs sl) [(1 : BitVec 6).toNat] c ∧
      (Fetch.start c).source (sx t0).cc 16 sl = (x, f) ∧ f.Ready ∧ f.t.slotOf (1 : BitVec 6).toNat = some 1 ∧
      f.t.slotOf (2 : BitVec 6).toNat = some 2) :=
  ⟨sx_on t0, ⟨_, _, _, ⟨_, _, rfl, rfl, rfl, rfl, rfl⟩, rfl, ⟨rfl, rfl⟩, rfl⟩,
    ⟨_, _, sx_on t0, _, _, _, ⟨_, _, rfl, rfl, rfl, rfl, rfl⟩, rfl, rfl, ⟨rfl, rfl⟩, rfl⟩,
    ⟨_, _, _, ⟨_, _, rfl, rfl, rfl, rfl, rfl⟩, rfl, rfl, rfl⟩, ⟨_, ⟨_, _, rfl, rfl, rfl, rfl, rfl⟩, rfl⟩,
    ⟨_, ⟨_, _, rfl, rfl, rfl, rfl, rfl⟩, rfl, rfl⟩, ⟨_, _, _, ⟨_, _, rfl, rfl, rfl, rfl, rfl⟩, rfl, ⟨rfl, rfl⟩, rfl, rfl⟩⟩

/-- The array held for `n` issue cycles by an instruction whose tiles lie in the window, the last one among them. -/
theorem array_free (tiles : List Nat) (n : Nat) (h : ∀ a ∈ tiles, a < 16) : ∃ u, ArrayFree (sx t0) t0 tiles n u :=
  ⟨_, sx_on t0, h, rfl, rfl⟩

theorem witness_TileInstructions :
    (∃ u, ArrayFree (sx t0) t0 [(15 : BitVec 6).toNat] 2 u) ∧ (∃ u, ArrayFree (sx t0) t0 [(0 : BitVec 6).toNat, (15 : BitVec 6).toNat] 12 u) ∧
    (0 : BitVec 6) ≠ 15 ∧
    (∃ u c, ArrayFree (sx t0) t0 [(0 : BitVec 6).toNat] 4 u ∧ Claimed (sx t0) u [(63 : BitVec 6).toNat] [] c ∧
      c.slotOf (63 : BitVec 6).toNat = some 63) ∧
    ((62 : BitVec 6).toNat % 2 = 0 ∧ (62 : BitVec 6).toNat ≤ 62) ∧ ((60 : BitVec 6).toNat % 4 = 0 ∧ (60 : BitVec 6).toNat ≤ 60) ∧
    arowBad arow0 = false ∧
    (∃ u c, ArrayFree (sx t0) t0 [arow0.acc.toNat] (arow0.rows.toNat + 6) u ∧ Claimed (sx t0) u [] [arow0.m.toNat] c ∧
      c.slotOf arow0.m.toNat = some 0 ∧ c.rmode arow0.rnd ≠ .sr ∧ ∃ r : BitVec 3, c.rmode r = .sr) ∧
    (∃ u c, ArrayFree (sx t0) t0 [arow0.acc.toNat] (arow0.rows.toNat + 5) u ∧ Claimed (sx t0) u [arow0.m.toNat] [] c ∧
      c.slotOf arow0.m.toNat = some 0) ∧
    t0.win.acSize ≤ (16 : BitVec 6).toNat ∧ (0 < ({ XState.zero with array := 1 } : XState).array ∧ (sx { t0 with xs := { XState.zero with array := 1 } }).stall = none ∧
      (sx { t0 with xs := { XState.zero with array := 1 } }).trapped = false) ∧
    arowBad { arow0 with d := 63, rows := 1 } = true ∧ (61 : BitVec 6).toNat % 2 ≠ 0 ∧ 62 < (63 : BitVec 6).toNat ∧
    (61 : BitVec 6).toNat % 4 ≠ 0 ∧ mma0.kch.toNat % 2 = 0 ∧ 3 < ({ mma0 with kch := 4 } : MmaArgs).kch.toNat ∧
    12 ≤ ({ mma0 with ety := 12, srow := 63, kch := 3 } : MmaArgs).ety.toNat ∧ 64 < 63 + ((3 : BitVec 9).toNat + 1) / 2 :=
  ⟨array_free _ _ (by decide), array_free _ _ (by decide), by decide,
    ⟨_, _, ⟨sx_on t0, by decide, rfl, rfl⟩, ⟨_, _, rfl, rfl, rfl, rfl, rfl⟩, rfl⟩, by decide, by decide, by decide +kernel,
    ⟨_, _, ⟨sx_on t0, by decide, rfl, rfl⟩, ⟨_, _, rfl, rfl, rfl, rfl, rfl⟩, rfl, by decide, 5, by decide⟩,
    ⟨_, _, ⟨sx_on t0, by decide, rfl, rfl⟩, ⟨_, _, rfl, rfl, rfl, rfl, rfl⟩, rfl⟩, by decide +kernel⟩

/-- A task whose tile 0 is one FULL row that names the first row of GB as every adapter. -/
def tadapt : Task :=
  { t0 with tiles := [(0, { first := 0, count := 1, up := false })],
            rows := [(0, { data := rowOf 16 (List.replicate 64 4096), tag := .full, seen := .full, ue := 0 })] }

theorem witness_MatrixMultiply :
    mmaBad mma0 = false ∧ mma0.ety.toNat < 12 ∧ (∃ u, ArrayFree (sx t0) t0 [mma0.acc.toNat] 16 u) ∧
    (mmaBad { mma0 with ety := 12, kch := 1 } = false ∧ ∃ u c, ArrayFree (sx t0) t0 [mma0.acc.toNat] 32 u ∧ Claimed (sx t0) u [0, 0] [] c ∧
      c.slotOf 0 = some 0) ∧
    ¬ (mma0.ety = 5 ∧ (mma0.kch.toNat + 1) % 2 = 1) ∧ (∃ u, ArrayFree (sx tadapt) tadapt [mma0.acc.toNat] 16 u) ∧
    ∃ e, tfind tadapt.tiles mma0.aux.toNat = some e ∧ (∀ i < e.count, (tadapt.row (e.first + i)).seen = .full) ∧ 0 < e.count ∧
      (tadapt.row e.first).ue.getLsbD 0 = false ∧ (∀ k < 8, (elemAt 16 (tadapt.row e.first).data k).testBit 14 = false) ∧
      (∀ k < 8, (elemAt 16 (tadapt.row e.first).data k).testBit 15 = false →
        tadapt.win.spSize ≤ elemAt 16 (tadapt.row e.first).data k % 2 ^ 14 ∧
        elemAt 16 (tadapt.row e.first).data k % 2 ^ 14 < tadapt.win.rows) ∧
      adapterClash tadapt.win (adaptersOf (tadapt.row e.first).data) = false :=
  ⟨by decide +kernel, by decide, array_free _ _ (by decide), ⟨by decide +kernel, _, _, ⟨sx_on t0, by decide, rfl, rfl⟩,
    ⟨_, _, rfl, rfl, rfl, rfl, rfl⟩, rfl⟩, by decide, ⟨_, sx_on tadapt, by decide, rfl, rfl⟩, _, rfl, by decide +kernel, by decide, rfl,
    by decide +kernel, by decide +kernel, by decide +kernel⟩

theorem witness_FormatRounding :
    (0 : Nat) ≤ fp32.maxCode ∧ (e4m3.val 126).lt (.fin false 449 0) = true ∧ e4m3.maxCode = 126 ∧ (Val.fin false 449 0).lt (.fin false 480 0) = true ∧
    (Val.fin false 480 0).lt (.fin false 480 0) = false ∧ (fp16.val 0).lt (.fin false 1 (-25)) = true ∧ (Val.fin false 1 (-25)).lt (fp16.val 1) = true ∧
    (ITy.mk 8 true).lo ≤ 127 ∧ 127 ≤ (ITy.mk 8 true).hi ∧ (ITy.mk 8 true).hi < 128 ∧ (-129 : Int) < (ITy.mk 8 true).lo ∧ 0 < 1 := by decide +kernel

theorem witness_FormatRounding_trees : [3, 4].length = 2 ^ 1 ∧ (List.replicate 64 1).length = 64 ∧ (∃ f h, fmtOf 0 = some f ∧ fmtOf 4 = some h) ∧
    (∃ f, fmtOf 0 = some f ∧ fmtOf 6 = none) ∧ (fmtOf 3).isSome ∧ (fmtOf 6).isNone ∧ 255 < 2 ^ widthOf 6 ∧ 0 < 2 ^ widthOf 10 :=
  ⟨rfl, rfl, ⟨_, _, rfl, rfl⟩, ⟨_, rfl, rfl⟩, rfl, rfl, by decide, by decide⟩

theorem witness_FormatRounding_quotient : 0 < fp32.maxCode ∧ fp32.maxCode - 1 < fp32.maxCode ∧ (fp32.val 0x80000000).isZero = true ∧
    (fp32.val 0x3F800000).isZero = false ∧ (fp32.val 0x7FC00000).isNan = true ∧
    (∃ s m e q k f, fp32.val 0x3F800000 = .fin s m e ∧ fp32.val 0x40400000 = .fin q k f ∧ k ≠ 0) ∧
    (let y := fp32.val 0x40400000
     ((fp32.val 0x3EAAAAAA).mul y).lt (fp32.val 0x3F800000) = true ∧ (fp32.val 0x3F800000).lt ((fp32.val 0x3EAAAAAB).mul y) = true) ∧
    (let y := fp32.val 0x40000000
     ((fp32.val 0x3F000000).mul y).lt (fp32.val 0x3F800000) = false ∧ (fp32.val 0x3F800000).lt ((fp32.val 0x3F000000).mul y) = false) := by
  refine ⟨by decide, by decide, by decide +kernel, by decide +kernel, by decide +kernel, ⟨_, _, _, _, _, _, rfl, rfl, by decide⟩, by decide +kernel,
    by decide +kernel⟩

theorem witness_TileResults : (0 : Nat) < 128 ∧ (127 : Nat) < 128 ∧ (63 : Nat) < 64 ∧ (1 : Nat) ≠ 2 ∧ arow0.side = false ∧
    ({ arow0 with side := true } : ARow).side = true ∧ widthOf 0 = 32 ∧ widthOf 1 = 16 ∧ widthOf 6 = 8 ∧ 31 < 32 ∧ 127 < 128 ∧ 127 / 64 = 1 ∧
    63 / 64 ≠ 1 := by decide

/-- A running `mma` that has popped nothing, and an `mmag` with one adapter. -/
def job0 : MmaJob :=
  { args := mma0, adapters := [some 4096, none], grouped := false, scaleA := [], scaleB := [], acols := [], pops := [], skip := none,
    madeA := 0, madeB := 0, startA := [], startB := [], dead := none }

theorem witness_ChunkResults : (127 : Nat) < 128 ∧ (63 : Nat) < 64 ∧ (15 : Nat) < 16 ∧ job0.grouped = false ∧
    ({ job0 with grouped := true } : MmaJob).grouped = true ∧ (job0.adapters.getD 0 none).isSome ∧ job0.adapters.getD 1 none = none ∧ mma0.ta = false ∧
    mma0.ety.toNat ∈ [0, 1, 2, 3, 4, 5, 12, 13, 14] ∧ (-10 : Int) ≤ 0 ∧
    (∃ p ∈ [(Val.nan, Val.nan)], p.1.mul p.2 = .nan) ∧
    ∀ p ∈ [(fp32.val 0x3F800000, Val.fin true 3 0)], ∃ s n e, p.1.mul p.2 = .fin s n e ∧ (-23 : Int) ≤ e := by
  refine ⟨by decide, by decide, by decide, rfl, rfl, rfl, rfl, rfl, by decide, by decide, ⟨(.nan, .nan), by simp, rfl⟩, ?_⟩
  intro p hp
  rw [List.mem_singleton.1 hp]
  exact ⟨_, _, _, rfl, by decide⟩

/-! ### Witnesses: ports, tiles, the scratchpad -/

/-- The MEM slot of the empty task is open for every set of tokens. -/
theorem mem_open (w : BitVec 8) : MemOpen (sa t0) t0 w := ⟨sa_on t0, rfl, by revert w; decide +kernel, rfl, rfl⟩

/-- A task whose s1 holds a value has its MEM slot open. -/
theorem mem_open1 (v : Word) : MemOpen (sa (t1 v)) (t1 v) 0 := ⟨sa_on _, rfl, rfl, rfl, rfl⟩

/-- An ACTIVE port that walks from the last row on. -/
def plast : Port := { Port.idle with active := some { Machine.PSet.zero with w0 := 8191 } }

/-- A task with such a load port, whose last row is FULL. -/
def tport : Task :=
  { t0 with ports := [(0, plast)], rows := [(8191, { data := 1, tag := .full, seen := .full, ue := 0 })] }

theorem witness_PortInstructions : MemOpen (sa t0) t0 255 ∧ psetBad 0 (t0.rd .a 1) = false ∧ psetBad 0 ((t1 (2 ^ 63)).rd .a 1) = true ∧
    ({ Machine.PSet.zero with w1 := 0xFFFF, w3 := 0x10000 } : Machine.PSet).startBad = true ∧ t0.port 0 = Port.idle ∧ Port.idle.staged.startBad = false ∧
    Port.idle.active = none ∧ plast.active ≠ none ∧ plast.pending = none ∧
    ({ plast with pending := some Machine.PSet.zero } : Port).pending ≠ none ∧ (tport.port 0).active ≠ none ∧
    (let q := tport.port 0
     let ps : Machine.PSet := { Machine.PSet.zero with w0 := 8191 }
     q.active = some ps ∧ (ps.w0.extractLsb' 0 14).toNat = 8191 ∧ 8191 < tport.win.rows ∧ ps.w0.getLsbD 17 = false ∧
       (tport.row 8191).seen = .full ∧ (tport.row 8191).tag = .full ∧ (tport.row 8191).ue = 0 ∧
       (∀ e ∈ tport.xs.touch, e.1 ≠ tport.win.bankOf 8191)) ∧ (t0.row 8191).seen = .empty :=
  ⟨mem_open _, by decide +kernel⟩

/-- An address in s1. -/
def ma1 : MAddr := { wait := 0, base := 1, disp := 0 }

theorem witness_TileTable : MemOpen (sa (t1 255)) (t1 255) ma1.wait ∧ ((t1 255).rd .a ma1.base + ma1.disp.signExtend 64).toNat = 255 ∧
    255 < ((t1 256).rd .a ma1.base + ma1.disp.signExtend 64).toNat ∧
    (let v : Word := BitVec.ofNat 64 (8191 + 2 ^ 16 * 1)
     v.toNat % 2 ^ 14 = 8191 ∧ v.toNat / 2 ^ 16 % 2 ^ 14 = 1 ∧ 8191 + 1 ≤ (t1 v).win.rows ∧ tfind (t1 v).tiles 255 = none) ∧
    t0.win.rows < 8191 + 2 ∧ (∃ e, tfind tadapt.tiles 0 = some e ∧ e.count < 2 ^ 14) ∧
    ((2 ^ 30 : Word) ≠ BitVec.ofNat 64 ((2 ^ 30 : Word).toNat % 2 ^ 14 + 2 ^ 16 * ((2 ^ 30 : Word).toNat / 2 ^ 16 % 2 ^ 14)) ∧
      (5 : Word).toNat / 2 ^ 16 % 2 ^ 14 = 0) :=
  ⟨mem_open1 _, by decide +kernel, by decide +kernel, by decide +kernel, by decide, ⟨_, rfl, by decide⟩, by decide⟩

/-- A `tfill` that does the last row of its tile next. -/
def fill0 : Fill := { form := .full, pat := 7, next := 5, last := 6 }

theorem witness_TileTable_rows :
    (let t : Task := { t0 with as := { AState.zero with fill := some fill0 } }
     t.as.fill = some fill0 ∧ t.reserved fill0.next = false ∧ (t.launchX 2 (.prow 5 0 0)).as.fill = some fill0 ∧
       (t.launchX 2 (.prow 5 0 0)).reserved fill0.next = true) ∧
    fill0.last ≤ fill0.next + 1 ∧ (0 : Nat) ≠ fill0.next ∧ FillForm.pattern ≠ .full ∧ (15 : Nat) < 16 := by decide +kernel

/-- A row of the scratchpad with a tag. -/
def trow (g : Tag) : Task := { t1 (8191 * 128 + 120) with rows := [(8191, { data := 0, tag := g, seen := g, ue := 0 })] }

theorem witness_ScratchAccess :
    (∀ g ∈ [Tag.empty, .full, .poison], (sa (trow g)).here = some (trow g) ∧ (trow g).tokWait 0 = false ∧ (trow g).as.fill = none ∧
      (trow g).fenced = false ∧ heldFault (sa (trow g)) (trow g) 0 = none) ∧
    (let a := ((trow .full).rd .a ma1.base + ma1.disp.signExtend 64).toNat
     a / 128 < (trow .full).win.rows ∧ a % 2 ^ ((3 : BitVec 3).toNat % 4) = 0 ∧ a % 2 ^ (3 : BitVec 2).toNat = 0 ∧
     ((trow .full).row (a / 128)).seen = .full ∧ ((trow .empty).row (a / 128)).seen = .empty ∧ ((trow .poison).row (a / 128)).seen = .poison ∧
     ((trow .full).row (a / 128)).ue.getLsbD ((a % 128) / 32) = false ∧ ((trow .full).row (a / 128)).tag ≠ .poison ∧ (trow .full).reserved (a / 128) = false) ∧
    (let a := ((t1 (8192 * 128)).rd .a ma1.base + ma1.disp.signExtend 64).toNat; t0.win.rows ≤ a / 128) ∧
    (let a := ((t1 4).rd .a ma1.base + ma1.disp.signExtend 64).toNat; a % 2 ^ ((3 : BitVec 3).toNat % 4) ≠ 0 ∧ a % 2 ^ (3 : BitVec 2).toNat ≠ 0) ∧
    (t0.launchX 2 (.prow 5 0 0)).reserved 5 = true ∧ t0.guard .a 8 = false ∧ t0.guard .a 0 = true := by decide +kernel

theorem witness_ScratchAccess_moves :
    (∃ c v row f, Claimed (sx tport) tport [] [(1 : BitVec 6).toNat] c ∧ (Fetch.start c).pop (0 : BitVec 3).toNat c.xs.ic c.x.pc 0 = (v, row, f) ∧
      f.Ready ∧ f.t.slotOf (1 : BitVec 6).toNat = some 1) ∧
    ∃ c v f, Claimed (sx { t0 with ports := [(8, plast)] }) { t0 with ports := [(8, plast)] } [(1 : BitVec 6).toNat] [] c ∧
      (Fetch.start c).take (0 : BitVec 2).toNat c.xs.ic c.x.pc = (v, f) ∧ f.Ready ∧ f.t.slotOf (1 : BitVec 6).toNat = some 1 :=
  ⟨⟨_, _, _, _, ⟨_, _, rfl, rfl, rfl, rfl, rfl⟩, rfl, ⟨rfl, rfl⟩, rfl⟩, ⟨_, _, _, ⟨_, _, rfl, rfl, rfl, rfl, rfl⟩, rfl, ⟨rfl, rfl⟩, rfl⟩⟩

/-! ### Witnesses: global memory -/

/-- An extent of 64 KiB at 0 with a kind and permissions. -/
def ext (k : EKind) (r w x p : Bool) (target : Nat) : Entry :=
  { log2 := 16, kind := k, r := r, w := w, x := x, present := p, late := false, vbase := 0, target := target, set := 0, gsh := 0, rcap := 0, fmap := 0 }

/-- A device whose context 1 has one extent. -/
def sext (e : Entry) (t : Task) : State := (sa t).putCtx 1 { Ctx.zero with table := [(0, e)] }

/-- A device whose context 1 has page 0 of the UNBACKED space on residency frame 0, the way of which is under quarantine. -/
def sresident : State :=
  let s := (sa t0).putCtx 1 { Ctx.zero with pages := [(2 ^ 32, .resident 0)], resv := 1 }
  { s with nv := { s.nv with quarantined := [(homeSlice (residencyPa 0 0), 0)] } }

/-- Where the frame of an extent lies outside the memories. -/
theorem witness_MemoryAccess :
    2 ^ 57 ≤ 2 ^ 57 ∧ ((sa t0).ctx 1).lookup (2 ^ 21) = none ∧ ((sa t0).ctx 1).lookup (2 ^ 21 - 1) ≠ none ∧
    ((sext (ext .backed true true true true 0) t0).ctx 1).lookup 65535 = some (0, ext .backed true true true true 0) ∧
    (sa t0).unframed 1 ((sa t0).paOf (ext .backed true true true true 0) 65535) = false ∧
    (ext .backed false true true true 0).r = false ∧ (ext .backed true true true false 0).present = false ∧
    (sext (ext .migrating true true true true 0) t0).unframed 1 ((sa t0).paOf (ext .migrating true true true true 0) 0) = false ∧
    (sext (ext .peer true true true true (2 ^ 48)) t0).unframed 1 ((sa t0).paOf (ext .peer true true true true (2 ^ 48)) 0) = false ∧
    (∃ pa, (sa t0).unframed 1 pa = true) ∧
    (∃ k, (sa t0).homeOf 1 k = .here k) ∧ (∃ k j, (sa t0).homeOf 1 k = .host j) ∧
    (sa t0).lineHeld 1 0 = false ∧ (sa t0).freeWays (l2Place 0) ≠ [] ∧ twf L2Sector.zero (sa t0).l2 = true ∧
    tfind ({ sa t0 with lines := [(0, { owner := 1, way := 0 })] } : State).lines 0 ≠ none ∧
    (let s := sresident; (∃ k, s.homeOf 1 (2 ^ 48 / 32) = .here k) ∧ s.lineHeld 1 (2 ^ 48 / 32 * 32) = true) := by
  refine ⟨by decide, by decide +kernel, by decide +kernel, by decide +kernel, by decide +kernel, rfl, rfl, by decide +kernel, by decide +kernel,
    ⟨2 ^ 42, by decide +kernel⟩, ⟨0, by decide +kernel⟩, ⟨2 ^ 45, 2 ^ 45, by decide +kernel⟩, by decide +kernel, by decide +kernel, by decide +kernel, by decide +kernel,
    ⟨_, rfl⟩, by decide +kernel⟩

/-- The task whose s1 holds the last 8 bytes of the extent of `placeCtx`. -/
def tlast : Task := t1 (2 ^ 21 - 8)

/-- A device in which core 0 has nothing in its L1, at an aligned address of a readable and writable extent. -/
theorem witness_LoadResults : MemOpen (sa tlast) tlast ma1.wait ∧ tlast.as.outst = 0 ∧
    (let a := (tlast.rd .a ma1.base + ma1.disp.signExtend 64).toNat
     a % 2 ^ ((3 : BitVec 3).toNat % 4) = 0 ∧ (sa tlast).xlate 1 a .rd true = .ok a (ext .backed true true true true 0 |> fun e => { e with log2 := 21 }) ∧
     (sa tlast).lineHeld 1 a = false ∧ ((sa tlast).loadL1 0 1 (a / 32)).1.bad = none ∧ ((sa tlast).readThrough 0 1 (a / 32)).bad = none ∧
     ((sa tlast).readBelow (clusterOf 0) 1 (a / 32)).bad = none) ∧
    ((t1 1).rd .a ma1.base + ma1.disp.signExtend 64).toNat % 2 ^ ((1 : BitVec 3).toNat % 4) ≠ 0 ∧
    (sa (t1 (2 ^ 21))).xlate 1 ((t1 (2 ^ 21)).rd .a ma1.base + ma1.disp.signExtend 64).toNat .rd true = .bad 3 4 ∧
    (sext (ext .backed true true true false 0) t0).xlate 1 0 .rd true = .bad 4 1 ∧ Scope.device ≠ .core :=
  ⟨mem_open1 _, rfl, by decide +kernel⟩

theorem witness_StoreResults : MemOpen (sa tlast) tlast ma1.wait ∧ tlast.as.outst = 0 ∧ tlast.guard .a 8 = false ∧ tlast.guard .a 0 = true ∧
    (let a := (tlast.rd .a ma1.base + ma1.disp.signExtend 64).toNat
     let e : Entry := { ext .backed true true true true 0 with log2 := 21 }
     a % 2 ^ (3 : BitVec 2).toNat = 0 ∧ (sa tlast).xlate 1 a .wr true = .ok a e ∧ (sa tlast).lineHeld 1 a = false ∧
     (sa tlast).bindFor 1 a e = .done (sa tlast)) ∧
    ((t1 1).rd .a ma1.base + ma1.disp.signExtend 64).toNat % 2 ^ (1 : BitVec 2).toNat ≠ 0 ∧
    (sext (ext .backed true false true true 0) t0).xlate 1 0 .wr true = .bad 6 0 ∧
    (sext (ext .migrating true true true true 0) t0).xlate 1 0 .wr true = .bad 4 2 ∧
    (let e := ext .unbacked true true true false (2 ^ 48)
     let s := sext e t0
     s.xlate 1 0 .wr true = .ok (2 ^ 48) e ∧ s.lineHeld 1 (2 ^ 48) = false ∧ s.bindFor 1 (2 ^ 48) e = .beyond 3) ∧
    (let e := { ext .unbacked true true true false (2 ^ 48) with late := true }
     let s := (sa t0).putCtx 1 { Ctx.zero with table := [(0, e)], pool := [2 ^ 42] }
     s.xlate 1 0 .wr true = .ok (2 ^ 48) e ∧ s.lineHeld 1 (2 ^ 48) = false ∧ s.bindFor 1 (2 ^ 48) e = .hole) :=
  ⟨mem_open1 _, rfl, by decide +kernel⟩

/-- A task whose s1 holds an address and s2 a length. -/
def t2 (a n : Word) : Task := { t0 with a := { Strand.zero with regs := [(1, a), (2, n)] } }

theorem strong_open2 (a n : Word) : StrongOpen (sa (t2 a n)) (t2 a n) 0 := ⟨⟨sa_on _, rfl, rfl, rfl, rfl⟩, rfl⟩

theorem witness_RangesAndFences :
    StrongOpen (sa (t2 (2 ^ 21 - 65536) 65536)) (t2 (2 ^ 21 - 65536) 65536) ma1.wait ∧
    (let t := t2 (2 ^ 21 - 65536) 65536
     let a := (t.rd .a ma1.base + ma1.disp.signExtend 64).toNat
     let n := (t.rd .a 2).toNat
     n ≠ 0 ∧ n % 65536 = 0 ∧ n ≤ 2 ^ 24 ∧ a % 65536 = 0 ∧ (sa t).rangeBad 1 a n true = none ∧ (sa t).rangeBad 1 a n false = none ∧
     (∃ pa e, (sa t).xlate 1 a .any false = .ok pa e) ∧ a < 2 ^ 57 ∧ ((sa t).ctx 1).lookup a ≠ none ∧
     ((sa t).cluster 0).hints.length < 16 ∧ n % 2 ^ 25 ≠ 0) ∧
    (∃ c k, (sa (t1 (2 ^ 57))).xlate 1 (2 ^ 57) .any false = .bad c k) ∧ ((t2 0 0).rd .a 2).toNat = 0 ∧
    ((t2 0 255).rd .a 2).toNat % 256 ≠ 0 ∧ 2 ^ 24 < ((t2 0 (2 ^ 24 + 256)).rd .a 2).toNat ∧
    ((t2 0 65535).rd .a 2).toNat % 65536 ≠ 0 ∧ 2 ^ 30 < ((t2 0 (2 ^ 30 + 65536)).rd .a 2).toNat ∧ (2 : Reg) ≠ 0 ∧
    16 ≤ (List.replicate 16 (0, (0 : Word), 0)).length ∧
    ((sa t0).cleanL1 0 .device fun _ => true).stuckOut 1 .device (t0.as.podmask ||| (sa t0).downChips 0 fun _ => true) = false ∧
    ((sa t0).cleanL1 0 .system fun _ => true).stuckOut 1 .system ((sa t0).downChips 0 fun _ => true) = false ∧ Scope.cluster ≠ .core := by
  refine ⟨strong_open2 _ _, ⟨by decide +kernel, by decide +kernel, by decide +kernel, by decide +kernel, by decide +kernel, by decide +kernel,
    ⟨_, _, rfl⟩, by decide +kernel, by decide +kernel, by decide +kernel, by decide +kernel⟩, ⟨_, _, rfl⟩, ?_⟩
  decide +kernel

/-- A task with a base in s1 and a length with a slot in s2. -/
def tbind : Task := t2 (2 ^ 21 - 256) (BitVec.ofNat 64 (256 * 2 ^ 32 + 63))

theorem witness_RegionBindings : StrongOpen (sa tbind) tbind ma1.wait ∧
    (let v := tbind.rd .a 2
     let addr := tbind.rd .a ma1.base + ma1.disp.signExtend 64
     bindBad v = false ∧ tbind.as.binds.length < 16 ∧ addr.toNat % 256 = 0 ∧ (sa tbind).pieces 1 addr.toNat 256 ≠ none ∧
     (v.extractLsb' 32 32).toNat = 256 ∧ addr.toNat < 2 ^ 57 ∧ ((sa tbind).ctx 1).lookup addr.toNat ≠ none) ∧
    bindBad ((t2 0 63).rd .a 2) = true ∧ bindBad ((t2 0 (255 * 2 ^ 32)).rd .a 2) = true ∧ 16 ≤ (List.replicate 16 ({ base := 0, len := 0, slot := 0 } : Binding)).length ∧
    (sa (t2 0 63)).idBad ((t2 0 63).rd .a 2) = none ∧ ((sa t0).cleanL1 0 .device fun _ => false).stuckOut 1 .device (t0.as.podmask ||| (sa t0).downChips 0 fun _ => false) = false ∧
    (tget Walker.zero ((sa t0).cluster 0).walkers 3).run = [] ∧ ({ Walker.zero with run := [1] } : Walker).run ≠ [] :=
  ⟨strong_open2 _ _, by decide +kernel⟩

/-! ### Witnesses: walkers -/

/-- A task with a record in s1-s6: rows of `e0` bytes, `e1` of them, and a last register. -/
def trec (a e0 e1 v : Nat) : Task :=
  { t0 with a := { Strand.zero with regs :=
      [(1, BitVec.ofNat 64 a), (2, 0), (3, BitVec.ofNat 64 (e0 + 2 ^ 32 * e1)), (4, 128), (5, 128), (6, BitVec.ofNat 64 v)] } }

/-- A task whose token 0 is PENDING for job 1. -/
def tpend : Task := { t0 with as := { AState.zero with toks := [(0, { st := .pending, errc := 0, done := 0, job := 1 })] } }

/-- A device in which job 1 is the walk program of `placeJob`. -/
def sjob (j : Job) (t : Task) : State := { sa t with jobs := [(1, j)], job := 1 }

theorem witness_WalkerHandoff :
    MemOpen (sa (trec 0 65536 65536 (2 ^ 22 - 1))) (trec 0 65536 65536 (2 ^ 22 - 1)) 0 ∧
    HandOpen (sa (trec 0 65536 65536 (2 ^ 22 - 1))) (trec 0 65536 65536 (2 ^ 22 - 1)) 7 3 ∧
    (let t := trec 0 65536 65536 (2 ^ 22 - 1)
     (∀ k ∈ [CKind.gg, .gs, .sg, .ss], recordBad t 1 (kindSrcG k) (kindDstG k) = false) ∧ (t.rd .a 6).toNat < 2 ^ 22 ∧
     ((sa t).walker (clusterOf 0) 3).timed.length < 32 ∧ (sa t).anyOutside 0 3 ((sa t).walker 0 3) = false) ∧
    recordBad (trec 0 128 1 4) 1 true false = false ∧ recordBad (trec 0 32 1 4) 1 true true = false ∧ ((trec 0 128 1 4).rd .a 6).toNat % 4 = 0 ∧
    (let t := t2 4 255; (t.rd .a 1).toNat % 4 = 0 ∧ (t.rd .a 2).toNat < 2 ^ 17 ∧ (t.rd .a 2).toNat % 256 + (t.rd .a 2).toNat / 256 + 1 ≤ 256) ∧
    (6 : BitVec 3).toNat ≤ 6 ∧ (4095 : BitVec 12) ≠ 0 ∧ recordBad (trec 0 65568 1 0) 1 true true = true ∧
    (tpend.tok 0).st = .pending ∧ tpend.tokWait 0 = false ∧ (sa tpend).here = some tpend :=
  ⟨⟨sa_on _, rfl, rfl, rfl, rfl⟩, ⟨by decide, by decide +kernel⟩, by decide +kernel⟩

theorem witness_WalkerHandoff_tokens :
    MemOpen (sa t0) t0 255 ∧ ((t1 (2 ^ 14 - 1)).rd .a 1).toNat < 2 ^ 14 ∧ ((t2 0 (2 ^ 22 - 1)).rd .a 2).toNat < 2 ^ 22 ∧
    2 ^ 14 ≤ ((t1 (2 ^ 14)).rd .a 1).toNat ∧ 2 ^ 22 ≤ ((t2 0 (2 ^ 22)).rd .a 2).toNat ∧ (t0.tok 7).st ≠ .pending ∧ (tpend.tok 0).st = .pending ∧
    tfind (sjob placeJob tpend).jobs (tpend.tok 0).job = some placeJob ∧ placeJob.walk.isSome = true ∧
    MemOpen (sjob placeJob tpend) tpend 0 := ⟨mem_open _, by decide +kernel, by decide +kernel, by decide +kernel, by decide +kernel, by decide,
      by decide, rfl, rfl, sa_on _, rfl, rfl, rfl, rfl⟩

/-- A write to chip 1, whose route is not valid. -/
def stray : SWrite := { sec := 2 ^ 51 / 32, mask := 1, data := 0, owner := 1, poison := false, port := 0 }

/-- The signal of job 1 on its way to slot 0 of core 0. -/
def sigMsg : SemMsg :=
  { src := .signal 0 0 0 1, core := 0, bank := 0, id := 0, pc := 0, ctx := 1, slot := 0, op := .add 1, own := false, due := 1 }

/-- A copy of one row of 128 bytes from address 0 to the last scratchpad row. -/
def jcopy (st : JobState) : Job :=
  { placeJob with kind := .copy .gs false false false false, st := st, walk := none, ext0 := 128, ext1 := 1, rec1 := 8191 * 128 }

theorem witness_CopyEvents :
    (let s : State := { sjob (jcopy .timed) t0 with clusters := [(0, { Cluster.zero true with walkers := [(0, { Walker.zero with timed := [1] })] })] }
     tfind s.jobs s.job = some (jcopy .timed) ∧ (jcopy .timed).st = .timed ∧ (jcopy .timed).t.toNat ≤ s.dt.toNat ∧
     ((s.walker 0 0).queue false).length < 8 ∧ ((s.dueFor 0 0 false).any fun e => dueBefore e (0, 1)) = false) ∧
    (sjob { jcopy .timed with t := 1 } t0).dt.toNat < ({ jcopy .timed with t := 1 } : Job).t.toNat ∧
    (let s := sjob (jcopy .running) t0
     let j := jcopy .running
     (s.ctx j.ctx).term = none ∧ j.recvs = [] ∧ j.part = [] ∧ j.buf = [] ∧ j.err = none ∧ j.got = j.rows ∧ j.put = j.rows ∧ j.rows < j.ext1 ∧
     s.task j.core j.bank = some t0 ∧ t0.who.id = j.id ∧ j.ext0 = 128 ∧ s.rowConds j j.rows = [] ∧ s.linesHeld j.ctx (sectorsOf 0 128) = false ∧
     (∃ l, s.readSecs (some j.cluster) j.ctx j.snap (sectorsOf 0 128) = .ok l ∧ l.length = 4) ∧
     ((8191 * 128 : Nat) : Int) = j.rec1.toNat + j.rows * j.rec4.toInt ∧ ((0 : Nat) : Int) = j.rec0.toNat + j.rows * j.rec3.toInt ∧
     8191 < t0.win.rows ∧ t0.reserved 8191 = false ∧
     (t0.row 8191).seen ≠ .full) ∧
    (let s := sjob (jcopy .done) t0
     (jcopy .done).st = .done ∧ s.flushPeers.stuckOut 1 .pod (jcopy .done).chips = false ∧ (jcopy .done).sig = false ∧ (jcopy .done).walk = none ∧
     s.signalsOut s.job = false ∧ idCore (0 : BitVec 22) < 768 ∧ idChip (0 : BitVec 22) = s.pod.chip.toNat) ∧
    (let s := { sjob { jcopy .done with chips := 2 } t0 with pod := { (sjob { jcopy .done with chips := 2 } t0).pod with out := [stray] } }
     s.flushPeers.stuckOut 1 .pod (2 : BitVec 64) = true) ∧
    (let s := { sjob (jcopy .ending) t0 with cores := [(0, { Core.zero with inbox := [sigMsg] })] }
     s.signalsOut s.job = true) ∧ (sjob (jcopy .ending) t0).signalsOut 1 = false ∧
    tpend.susp = none ∧ tget Token.zero tpend.as.toks 0 = { st := .pending, errc := 0, done := 0, job := 1 } := by
  refine ⟨by decide +kernel, by decide +kernel, ⟨rfl, rfl, rfl, rfl, rfl, rfl, rfl, by decide, rfl, rfl, rfl, by decide +kernel, by decide +kernel,
    ⟨_, rfl, rfl⟩, by decide +kernel, by decide +kernel, by decide, by decide +kernel, by decide +kernel⟩, by decide +kernel⟩

/-- A walk program with a stack, loops and return addresses. -/
def wk (st : List Word) (lp : List (Word × Nat)) (rt : List Nat) (p : Nat) : Walk :=
  { pc := 0, stack := st, loops := lp, rets := rt, stage := [], permits := p, chain := none, tokd := false, launch := none }

/-- A device whose acting job is such a program. -/
def swalk (w : Walk) : State := sjob { placeJob with walk := some w } t0

theorem walking (w : Walk) : (swalk w).Walking { placeJob with walk := some w } w := ⟨rfl, rfl⟩

theorem witness_WalkerStack : (∀ n ∈ [0, 1, 2, 6, 7, 8], ((List.replicate n (1 : Word)).length ≤ 8)) ∧
    (swalk (wk (List.replicate 8 1) [] [] 0)).Walking { placeJob with walk := some (wk (List.replicate 8 1) [] [] 0) } (wk (List.replicate 8 1) [] [] 0) ∧
    (wk [1, 2] [] [] 0).stack = 1 :: 2 :: [] ∧ (wk [] [] [] 0).stack = [] := ⟨by decide, walking _, rfl, rfl⟩

theorem witness_WalkerControl :
    (swalk (wk [32, 0] [] [] 1)).Walking { placeJob with walk := some (wk [32, 0] [] [] 1) } (wk [32, 0] [] [] 1) ∧
    (wk [0] [] [] 0).stack = 0 :: [] ∧ (1 : Word) ≠ 0 ∧ (wk [1] (List.replicate 3 (2, 1)) [] 0).loops.length < 4 ∧
    4 ≤ (wk [1] (List.replicate 4 (2, 1)) [] 0).loops.length ∧ (wk [] [(1, 1)] [] 0).loops = (1, 1) :: [] ∧ (2 : Word) ≠ 1 ∧
    ((4096 : Word).toNat % 32 = 0 ∧ 32 ≤ (4096 : Word).toNat ∧ (4096 : Word).toNat ≤ 4096 ∧ 32 * (896 : BitVec 10).toNat + 4096 ≤ 32768) ∧
    ((32 : Word).toNat ≤ 32 ∧ 32 * (896 : BitVec 10).toNat + 128 * 32 ≤ 32768) ∧ 4096 < (4128 : Word).toNat ∧
    (1 : BitVec 10).toNat ≤ (wk [] [] [] 1).permits ∧ (wk [] [] [] 0).permits < (1 : BitVec 10).toNat ∧
    (wk [] [] [1, 2, 3] 0).rets.length < 4 ∧ (255 : BitVec 10).toNat ≤ 255 ∧ 4 ≤ (wk [] [] [1, 2, 3, 4] 0).rets.length ∧
    255 < (256 : BitVec 10).toNat ∧ ({ wk [] [] [] 0 with chain := some 5 } : Walk).chain = some 5 ∧ (wk [] [] [] 0).chain = none ∧
    ({ wk [] [] [] 0 with tokd := true } : Walk).tokd = true ∧ (8 ≤ (8 : BitVec 10).toNat ∧ (15 : BitVec 10).toNat ≤ 15) ∧
    (7 : BitVec 10).toNat < 8 ∧ 15 < (16 : BitVec 10).toNat := ⟨walking _, by decide +kernel⟩

theorem witness_WalkerControl_launches :
    (let w : Walk := { wk [] [] [] 0 with launch := some (.fetch 0 0 32) }
     let s := swalk w
     s.Walking { placeJob with walk := some w } w ∧ placeJob.st = .running ∧ (s.ctx placeJob.ctx).term = none ∧
     ∃ l, s.readRange (some 0) 1 0 32 = .bytes l) ∧
    (let w : Walk := { wk [] [] [] 0 with launch := some (.write 0 0 32) }
     ∃ s1, ((swalk w).drainEgress 0).writeRange 1 0 (List.replicate 32 0) = .ok s1 ∧
       s1.flushPeers.stuckOut 1 .pod (placeJob.chips ||| ((swalk w).placesOf 1 (sectorsOf 0 32)).2) = false) ∧
    (let s := { swalk (wk [] [] [] 0) with pod := { (swalk (wk [] [] [] 0)).pod with out := [stray] } }
     s.flushPeers.stuckOut 1 .pod (2 : BitVec 64) = true) ∧
    (let w : Walk := { wk [] [] [] 0 with launch := some (.send 0 8160 32) }
     (swalk w).jobTask { placeJob with walk := some w } = some t0 ∧ 8160 + 32 ≤ t0.win.rows ∧ 1 ≤ 32 ∧ t0.reserved 8160 = false) ∧
    (swalk (wk [] [] [] 0)).signalsOut 1 = false ∧
    ({ swalk (wk [] [] [] 0) with cores := [(0, { Core.zero with inbox := [sigMsg] })] } : State).signalsOut 1 = true :=
  ⟨⟨walking _, rfl, rfl, _, rfl⟩, ⟨_, rfl, by decide +kernel⟩, by decide +kernel, ⟨rfl, by decide⟩, by decide +kernel⟩

/-! ### Witnesses: semaphores and tasks -/

/-- The SEM slot is open for a task whose s1 holds a value. -/
theorem sem_open1 (v : Word) : SemOpen (sa (t1 v)) (t1 v) := ⟨sa_on _, rfl, rfl⟩

/-- A device whose route to chip 1 is valid. -/
def sroute : State := { sa (t1 65536) with pod := { (sa (t1 65536)).pod with members := 3, routes := [(1, (true, 7))] } }

theorem witness_AtomicInstructions : SemOpen (sa (t1 (767 * 64 + 63))) (t1 (767 * 64 + 63)) ∧ t0.guard .a 8 = false ∧ t0.guard .a 0 = true ∧
    2 ^ 22 ≤ ((t1 (2 ^ 22)).rd .a 1).toNat ∧ (((t1 (768 * 64)).rd .a 1).toNat < 2 ^ 22 ∧ 768 ≤ ((t1 (768 * 64)).rd .a 1).toNat / 64 % 1024) ∧
    (sa (t1 (767 * 64 + 63))).idBad ((t1 (767 * 64 + 63)).rd .a 1) = none ∧ idChip (BitVec.ofNat 22 (767 * 64 + 63)) = (sa t0).pod.chip.toNat ∧
    (sa t0).routed (idChip (BitVec.ofNat 22 (767 * 64 + 63))) = true ∧ ({ sroute with pod := { sroute.pod with routes := [(1, (true, 0))] } } : State).idBad 65536 = none ∧
    ({ sroute with pod := { sroute.pod with routes := [(1, (true, 0))] } } : State).routed (idChip (65536 : BitVec 22)) = false :=
  ⟨sem_open1 _, by decide +kernel⟩

/-- An addition of 1 to slot 63 of the own file. -/
def madd : SemMsg :=
  { src := .strand, core := 0, bank := 0, id := 1, pc := 0, ctx := 1, slot := 63, op := .fadd 63 1, own := true, due := 0 }

/-- A device whose core 0 has it to perform; slot 63 is of `owner`. -/
def sslot (owner : Nat) : State :=
  { sa t0 with cores := [(0, { Core.zero with inbox := [madd], sems := [(63, { v := 0xFFFFFFFF, owner := owner })] })] }

theorem witness_SlotPerforms :
    (nextSem ((sslot 1).core 0).cc (sslot 1).dt.toNat ((sslot 1).core 0).served ((sslot 1).core 0).inbox = some (madd, []) ∧ ((sslot 1).ctx madd.ctx).term = none ∧
      ((sslot 1).sem 0 63).owner = madd.ctx ∧ madd.ctx ≠ 0 ∧ ((sslot 2).sem 0 63).owner ≠ madd.ctx) ∧
    ((sslot 1).task madd.core madd.bank = some t0 ∧ t0.who.id = madd.id ∧ 0 < 63 ∧ 63 < 64 ∧ t0.as.mskip = none) := by
  refine ⟨by decide +kernel, rfl, rfl, by decide, by decide, rfl⟩

/-- A wait that its file has refused at tick 0. -/
def tref : Task := { t0 with as := { AState.zero with wait := some { kind := .swait 1, slot := 5, cond := 0, t := 1, phase := .refused 0, pc := 0 } } }

theorem witness_WaitInstructions : SemOpen (sa (t1 63)) (t1 63) ∧ (sa (t1 63)).idBad ((t1 63).rd .a 1) = none ∧ t0.guard .a 8 = false ∧
    t0.guard .a 0 = true ∧ (4095 : BitVec 12) ≠ 0 ∧ (((t1 63).rd .a 1).extractLsb' 6 10 = 0 ∧ ((t1 63).rd .a 1).toNat / 65536 = (sa (t1 63)).pod.chip.toNat) ∧
    (let s : State := { sa (t1 63) with cores := [(0, { Core.zero with sems := [(63, { v := 0, owner := 1 })] })] }
     (s.sem 0 63).owner = (t1 63).who.ctx ∧ (t1 63).as.decls.length < 4) ∧
    (sroute.idBad ((t1 65536).rd .a 1) = none ∧ idChip (((t1 65536).rd .a 1).setWidth 22) ≠ sroute.pod.chip.toNat ∧ sroute.routed 1 = true) ∧
    ((sa tref).here = some tref ∧ (sa tref).cur.bank < 2 ∧ (∃ w, tref.as.wait = some w ∧ w.phase = .refused 0) ∧
      0 + 256 ≤ ({ sa tref with dt := 256 } : State).dt.toNat ∧ ({ sa tref with dt := 255 } : State).dt.toNat < 0 + 256) := by
  refine ⟨sem_open1 _, by decide +kernel, by decide, by decide, by decide, by decide +kernel, by decide +kernel, by decide +kernel, rfl, by decide, ⟨_, rfl, rfl⟩,
    by decide, by decide⟩

/-- A launch of one stage. -/
def la : Launch :=
  { ctx := 1, queue := 0, mask := 0, ceil := 0, lat := true, phase := 0,
    stages := [{ aentry := 0, xentry := 0, cancel := 0, cap := 4, minc := 1, maxc := 1, n := 64, sprows := 4096, actiles := 16, mregs := 64 }],
    consts := [], walk := [], gang := false, cluster := none, granted := true, cores := [(0, 0)], ran := [], recs := [], wait := [],
    rels := [], cond := [], mem := Member.none, tree := [] }

/-- A task that carries 16 registers. -/
def tmask : Task := t1 0x1FFFE

/-- A device with that launch. -/
def slaunch (t : Task) : State := { sa t with fe := { State.reset.fe with launches := [(1, la)] } }

theorem witness_TaskInstructions : SemOpen (slaunch tmask) tmask ∧ tmask.cancel = none ∧
    (let mask := tmask.rd .a 1
     let carried := ((List.range 64).filter fun j => mask.getLsbD j).map fun j => (j, tmask.rd .a (BitVec.ofNat 6 j))
     mask.getLsbD 0 = false ∧ carried.length = 16 ∧ (0 : BitVec 4).toNat ≤ tmask.who.last ∧ tmask.who.depth < 7) ∧
    (tfind (slaunch tmask).fe.launches tmask.who.launch = some la ∧ ∃ e, la.entryFor 0 (tmask.who.depth + 1) = some e) ∧
    (slaunch tmask).idBad (tmask.rd .a 0) = none ∧ (slaunch tmask).routed 0 = true ∧ (3 : BitVec 3).toNat < 4 ∧ 7 ≤ ({ t0.who with depth := 7 }).depth ∧ ¬ (1 : BitVec 4).toNat ≤ t0.who.last ∧
    (let t : Task := { tmask with x := { Strand.zero with ended := true } }; t.x.ended = true ∧ t.xs.flights = [] ∧ t.xs.array = 0) ∧
    tpend.tokWait 1 = true ∧ tpend.as.wait = none ∧ tmask.tokWait 255 = false ∧
    (let t : Task := { t0 with cancel := some 2, cancelpc := 1 }; SemOpen (sa t) t ∧ t.cancel = some 2 ∧ t.cancelpc ≠ 0) ∧
    ((sx t0).On .x t0 ∧ t0.cancel = none) ∧
    (let t : Task := { t0 with cancel := some 2, cancelpc := 1 }; (sx t).On .x t ∧ t.cancel = some 2 ∧ t.cancelpc ≠ 0) := by
  refine ⟨⟨⟨rfl, rfl⟩, rfl, rfl⟩, rfl, by decide +kernel, ⟨rfl, _, rfl⟩, by decide +kernel, by decide +kernel, by decide, by decide, by decide, by decide, by decide,
    by decide, by decide +kernel, ⟨⟨sa_on _, rfl, rfl⟩, rfl, by decide⟩, ⟨sx_on t0, rfl⟩, sx_on _, rfl, by decide⟩

/-! ### Witnesses: system, stream, sampler, group, checkpoint and debug words -/

/-- A command queue of context 1. -/
def q0 : CQueue :=
  { ctx := 1, pf := false, ring := 0, size := 64, bulk := false, head := 0, tail := 0, phase := 0, gp := [], error := false, run := none,
    replay := none, outer := none, stream := none, host := false }

/-- A rung. -/
def rung0 : Rung :=
  { graph := 0, patches := 0, ncmd := 1, npatch := 0, steps := 4, interp := false, w := 128, h := 128, igraph := 0, ipatches := 0,
    incmd := 0, inpatch := 0, es := 1, et := 1, ei := 1 }

/-- A stream descriptor. -/
def desc0 : SDesc :=
  { pnum := 1000, pden := 1, queue := 0, nrung := 1, rstart := 0, codec := 0, base := 10, dline := 1000, rise := 0, ring := 0,
    rslots := 4, scope := 2, slotbytes := 4096, kvb := 0, cs := 65536, wcap := 4, wtab := 0, eqbase := 0, eqslots := 8, credit := 0,
    refb := 0, kbps := 0, qp := 0, keyint := 1, rungs := [rung0] }

/-- A frame that runs. -/
def frame0 : Frame :=
  { n := 3, rung := 0, steps := 4, interp := false, start := 0, last := 0, tk := 0, dropped := false, w := 128, h := 128, tiles := [], read := 0, out := none, after := false }

/-- A stream with that frame and two window entries. -/
def str0 : Stream :=
  { ctx := 1, desc := desc0, next := 4, rung := 0, count := 0, enc := 0, frames := [frame0],
    kv := [{ frame := 1, area := 0, anchor := true }, { frame := 2, area := 1, anchor := false }], pins := [1], descs := [],
    update := none, closing := false, overrun := 0, trunc := false, steps := 4, interp := false, early := [], tick := none, begun := none, held := false }

/-- A task of stream 5, frame 3. -/
def tstr (v : Word) : Task := { t1 v with mem := { Member.none with stream := some 5, frame := 3 } }

/-- A device with queue 0 and stream 5. -/
def sstr (t : Task) : State := { (sa t).putQueue 0 q0 with streams := [(5, str0)] }

theorem witness_SystemInstructions : SemOpen (sstr (tstr 2)) (tstr 2) ∧ (sstr (tstr 2)).queue (tstr 2).who.queue = some q0 ∧
    t0.mem.stream = none ∧ ((t1 255).rd .a 1).toNat < 256 ∧
    ((tstr 2).mem.stream = some 5 ∧ tfind (sstr (tstr 2)).streams 5 = some str0 ∧ str0.ctx = (tstr 2).who.ctx) ∧
    (∃ f, str0.pushStatus 7 (3 + 65536) = (0, f)) ∧ str0.descs.length < 64 ∧ (tstr 2).as.fill = none ∧
    (∃ f, str0.pushStatus 8 3 = (4, f)) ∧
    (∃ e, (str0.kv.find? fun e => e.frame % 65536 == ((tstr 1).rd .a 1).toNat % 65536) = some e ∧ e.anchor = true) ∧
    (∃ e, (str0.kv.find? fun e => e.frame % 65536 == ((tstr 2).rd .a 1).toNat % 65536) = some e ∧ e.anchor = false) ∧
    ((str0.kv.filter fun g => g.anchor).length < 8 ∧ (str0.kv.filter fun g => g.anchor).length < str0.desc.wcap - 1) ∧
    (sstr (tstr 1)).frameOf (tstr 1) = some frame0 ∧
    (frame0.interp = false ∧ ((tstr 1).rd .a 1).toNat = frame0.last + 1 ∧ frame0.last + 1 ≤ frame0.steps ∧ frame0.last + 1 < 256) ∧
    t0.mem.group = none := by
  refine ⟨⟨⟨rfl, rfl⟩, rfl, rfl⟩, rfl, rfl, by decide +kernel, ⟨rfl, rfl, rfl⟩, ⟨_, rfl⟩, by decide, rfl, ⟨_, rfl⟩, ⟨_, rfl, rfl⟩, ⟨_, rfl, rfl⟩,
    by decide, rfl, by decide +kernel, rfl⟩

/-- A sibling that runs. -/
def sib0 : Sib := Sib.zero

/-- A group of one sibling. -/
def grp0 : Group :=
  { ctx := 1, n := 1, aq := none, gscope := 2, record := 0, pbase := 0, slots := [], pstride := 1, seq := 0, sibs := [sib0],
    winner := none, closing := [], closed := none, stage := 0, held := false }

/-- A sampler request with its descriptor at an address. -/
def samp0 (a : Word) : SampReq :=
  { core := 0, bank := 0, id := 1, ctx := 1, k := 0, job := 1, addr := a, spec := 0, lat := true, sib := none, launch := 1, started := false, held := false, got := [],
    stage := 0 }

theorem witness_SystemInstructions_group :
    (let t : Task := { t0 with mem := { Member.none with group := some 7, size := 1 } }
     let s : State := { sa t with groups := [(7, grp0)] }
     t.mem.group = some 7 ∧ tfind s.groups 7 = some grp0 ∧ grp0.ctx = t.who.ctx) ∧
    ((t1 63).rd .a 1).toNat % 64 ≠ 0 ∧ ((t1 (2 ^ 21 - 64)).rd .a 1).toNat % 64 = 0 ∧
    ((sa (t1 (2 ^ 21 - 64))).ctx 1).lookup (2 ^ 21 - 64) ≠ none ∧ (tpend.tok 0).st = .pending ∧ (t0.tok 0).st ≠ .pending ∧
    ((sa t0).ctx 1).lookup (2 ^ 21) = none ∧ 2 ^ 57 ≤ (2 ^ 57 : Word).toNat ∧ t0.as.samp = none ∧ (sa t0).queued (sa t0).leastEngine < 32 ∧
    (let h : Hand := { engine := 7, job := 1, spec := 0, lat := true }
     ({ t0 with as := { AState.zero with samp := some h } } : Task).as.samp = some h ∧ (sa t0).queued h.engine < 32 ∧
     32 ≤ ({ sa t0 with sorrel := [(7, List.replicate 32 (samp0 0))] } : State).queued h.engine) ∧
    (let s : State := { sa t0 with sorrel := (List.range 8).map fun e => (e, List.replicate 32 (samp0 0)) }
     32 ≤ s.queued s.leastEngine) := ⟨⟨rfl, rfl, rfl⟩, by decide +kernel⟩

theorem witness_DebugInstructions : SemOpen (sa (t2 0 0)) (t2 0 0) ∧ (sa (t2 0 0)).copying (t2 0 0) = false ∧ (t2 0 0).settled = true ∧
    ((t2 32 0).rd .a 1).toNat % 64 ≠ 0 ∧ ((t2 0 0).rd .a 1).toNat % 64 = 0 ∧
    ((t2 0 0).rd .a 2).toNat < (((sa (t2 0 0)).launchOf (t2 0 0)).imgLay ((t2 0 0).ckptState 4)).length ∧
    (((sa (t2 0 0)).launchOf (t2 0 0)).imgLay ((t2 0 0).ckptState 4)).length ≤ ((t2 0 (2 ^ 63)).rd .a 2).toNat ∧
    ((sa t0).ctx t0.who.ctx).debug = false ∧ (((sa t0).putCtx 1 { placeCtx with debug := true }).ctx t0.who.ctx).debug = true := by
  refine ⟨⟨sa_on _, rfl, rfl⟩, by decide +kernel, by decide +kernel, by decide +kernel, by decide +kernel, by decide +kernel, by decide +kernel,
    rfl, rfl⟩

/-! ### Witnesses: commands -/

/-- A device whose queue 0 runs a command, and whose memory holds `l` from address 0 on. -/
def scmd (x : CQueue) (l : List Byte) : State :=
  { (sa t0).putQueue 0 x with mem := (l.zipIdx.map fun e => (e.2, e.1)).filter fun e => e.2 != 0 }

/-- A command of device scope. -/
def cmdd (a b : Word) : Cmd := { cmd a b with scope := 2 }

/-- A queue whose command has ended, with a completion record at an address and without one. -/
def qend (caddr : Word) : CQueue :=
  { q0 with run := some { op := 5, cmd := { cmdd 0 0 with caddr := caddr, seq := 9 }, status := some 0, launch := none, old := 0, frame := none } }

/-- A queue that runs launch 1. -/
def qrun : CQueue := { q0 with run := some { op := 1, cmd := cmdd 0 0, status := none, launch := some 1, old := 0, frame := none } }

/-- A device whose launch 1 is over, but for the records given. -/
def sover (rs : List Record) : State :=
  { scmd qrun [] with tasks := [], fe := { (scmd qrun []).fe with launches := [(1, { la with ran := [0, 767], recs := rs })] } }

/-- A record of stage 0. -/
def rec0 : Record :=
  { pc := 8, vals := [(1, 5)], parent := 0, stage := 0, set := 3, depth := 1, join := none, decls := [], mem := Member.none, cond := none,
    entry := none }

theorem witness_CommandCompletion :
    (sover []).queue 0 = some qrun ∧ tfind (sover []).fe.launches 1 = some { la with ran := [0, 767], recs := [] } ∧ (sover []).launchOver 1 = true ∧
    (sover [rec0]).launchOver 1 = false ∧ (cmdd 0 0).caddr = 0 ∧
    (let s1 := [0, 767].foldl (fun s n => s.cleanL1 n .device fun _ => true) (sover [])
     s1.stuckOwn .device 1 = false) := by
  refine ⟨rfl, rfl, by decide +kernel, by decide +kernel, rfl, by decide +kernel⟩

theorem witness_CommandHeads : cmdHeadBad { cmdd 0 0 with z := 1 } = true ∧ cmdHeadBad { cmdd 0 0 with flags := 4 } = true ∧
    (scmd (qend 0) []).queue 0 = some (qend 0) ∧ (scmd (qend 0) []).stuckOwn .device 1 = false ∧ (scmd (qend 0) []).stuckOwn .system 1 = false ∧
    (cmdd 0 0).caddr = 0 ∧ (8 : Word) ≠ 0 ∧
    ∃ s1, (scmd (qend 8) []).writeRange 1 8 (natBytes 8 9 ++ natBytes 8 0) = .ok s1 :=
  ⟨by decide, by decide, rfl, by decide +kernel, by decide +kernel, rfl, by decide, _, rfl⟩

/-- A SLOTS entry of slot 63 of core 767 of this device. -/
def slotWord : Word := BitVec.ofNat 64 (63 + 767 * 64)

/-- A patch of command 0. -/
def patchWord : Word := BitVec.ofNat 64 (2 ^ 12)

theorem witness_FrontEndCommands :
    (scmd q0 []).queue (scmd q0 []).fe.curq = some q0 ∧ cmdHeadBad (cmdd 63 0) = false ∧ (cmdd 63 0).w5 = 0 ∧ (cmdd 63 0).a.toNat ≤ 63 ∧
    63 < (cmdd 64 0).a.toNat ∧ (cmdd 15 0).a.toNat ≤ 15 ∧ (cmdd 4088 7).a.toNat % 8 = 0 ∧
    (scmd q0 []).linesHeld 1 (sectorsOf 4088 8) = false ∧ (∃ l, (scmd q0 []).readRange none 1 4088 8 = .bytes l) ∧
    (∃ l, (scmd q0 (natBytes 8 slotWord.toNat)).readRange none 1 0 8 = .bytes l ∧
      (let es := (bytesWords 1 l).map slotEntry
       (es.any fun e => e.rel || decide (768 ≤ e.core) || !(scmd q0 []).inPod e.chip) = false) ∧
      (let s : State := { scmd q0 (natBytes 8 slotWord.toNat) with cores := [(767, { Core.zero with sems := [(63, { v := 5, owner := 1 })] })] }
       s.freeable ((bytesWords 1 l).map slotEntry) = true ∧ s.servedAny ((bytesWords 1 l).map slotEntry) = false ∧
       ({ s with cores := [(767, { Core.zero with served := [63] })] } : State).servedAny ((bytesWords 1 l).map slotEntry) = true)) ∧
    (∃ g, (scmd q0 []).readRange none 1 0 64 = .bytes g) ∧ (scmd q0 []).linesHeld 1 (sectorsOf 0 64) = false ∧
    (∃ l, (scmd q0 (natBytes 8 patchWord.toNat)).readRange none 1 0 (8 * 1) = .bytes l ∧ (bytesWords 1 l).any (patchBad 1) = false) ∧
    (0 < (cmdd 0 (2 ^ 32 + 4096)).b.toNat % 2 ^ 32 ∧ (cmdd 0 (2 ^ 32 + 4096)).b.toNat % 2 ^ 32 ≤ 4096 ∧
      (cmdd 0 (2 ^ 32 + 4096)).b.toNat / 2 ^ 32 = 1) := by
  refine ⟨rfl, by decide +kernel, rfl, by decide, by decide, by decide, by decide, by decide +kernel, ⟨_, rfl⟩, ⟨_, rfl, ?_, ?_⟩, ⟨_, rfl⟩, by decide +kernel, ⟨_, rfl, ?_⟩, by decide⟩
  all_goals decide +kernel

/-- The bytes of an image of one stage: the header, a table of one section, the stage record. -/
def image0 : List Byte :=
  natBytes 4 0x4951444F ++ natBytes 2 1 ++ natBytes 1 1 ++ natBytes 1 0 ++ natBytes 4 0 ++ natBytes 4 1 ++ natBytes 48 0 ++
    (natBytes 4 1 ++ natBytes 4 64 ++ natBytes 8 128) ++ natBytes 48 0 ++
    (natBytes 24 0 ++ natBytes 2 9 ++ natBytes 2 1 ++ natBytes 2 1 ++ natBytes 1 64 ++ natBytes 33 0)

theorem witness_FrontEndCommands_launch :
    (scmd q0 image0).imageChk 1 0 0 = .fine ∧ (scmd q0 []).imageChk 1 0 0 = .bad 1 ∧
    (scmd q0 image0).memberOf 0 q0 (cmdd 0 0) = some Member.none ∧ (scmd q0 image0).siblingOver Member.none = false ∧
    (let s : State := { scmd q0 [] with groups := [(7, { grp0 with aq := some 0, sibs := [{ sib0 with st := .posted }] })] }
     (let m : Member := { Member.none with group := some 7, index := 0, size := 1 }
      s.memberOf 0 q0 { cmdd 0 0 with flags := 1 } = some m ∧ s.siblingOver m = true) ∧ s.memberOf 0 q0 (cmdd 0 0) = none) := by
  refine ⟨by decide +kernel, by decide +kernel, rfl, rfl, by decide +kernel⟩


/-- A queue of the physical function. -/
def qpf : CQueue := { q0 with pf := true }

/-- A table entry of 64 KiB at 2^21, as MAPLOAD reads it. -/
def entryBytes : List Byte :=
  natBytes 8 (16 + 2 ^ 9 + 2 ^ 12 + 2 ^ 14 + 2 ^ 21) ++ natBytes 24 0

/-- The bytes of a command's context and number. -/
def cmdn (ctx k : Nat) (b : Word) : Cmd := cmdd (BitVec.ofNat 64 (ctx + 65536 * k)) b

theorem witness_TableCommands_maps :
    (scmd qpf entryBytes).queue (scmd qpf entryBytes).fe.curq = some qpf ∧ cmdHeadBad (cmdn 2 1 0) = false ∧ (cmdn 15 1 0).w5 = 0 ∧
    1 ≤ cmdCtx (cmdn 1 1 0) ∧ cmdCtx (cmdn 15 1 0) = 15 ∧ bits (cmdn 2 4096 0).a 8 8 = 0 ∧ bits (cmdn 2 4096 0).a 32 32 = 0 ∧
    bits (cmdn 2 4096 0).a 16 16 = 4096 ∧ bits (cmdn 2 4095 0).a 16 16 = 4095 ∧ (cmdn 2 1 32).b.toNat % 32 = 0 ∧
    (scmd qpf entryBytes).linesHeld 1 (sectorsOf 0 32) = false ∧
    (∃ l, (scmd qpf entryBytes).readRange none 1 0 32 = .bytes l ∧ (scmd qpf entryBytes).anyUnready (bytesWords 4 l) = false ∧
      ∃ e, (scmd qpf entryBytes).entriesOf 4095 (bytesWords 4 l) = some [(4095, e)] ∧
        anyOverlap ((tins ((scmd qpf entryBytes).ctx 2).table 4095 e).map (·.2)) = false) ∧
    (∃ l t, (scmd qpf entryBytes).readRange none 1 0 32 = .bytes l ∧ (scmd qpf entryBytes).entriesOf 0 (bytesWords 4 l) = some t ∧
      t.length = 1 ∧ anyOverlap (t.map (·.2)) = false) ∧
    liveChange (some (ext .backed true true true true 0)) (some { ext .backed true true true true 0 with x := false }) = true ∧
    liveChange (some (ext .backed true true true true 0)) (some (ext .unbacked true true true true 0)) = false := by
  refine ⟨rfl, by decide, rfl, by decide, by decide, by decide, by decide, by decide, by decide, by decide, by decide +kernel,
    ⟨_, rfl, by decide +kernel, _, rfl, by decide +kernel⟩, ⟨_, _, rfl, rfl, by decide +kernel, by decide +kernel⟩, by decide +kernel,
    by decide +kernel⟩

/-- A context with no task, saved task, record or command is idle; one with a task is not. -/
theorem witness_TableCommands_idle :
    (let s := scmd qpf []
     (∀ e ∈ s.tasks, e.2.who.ctx ≠ 2) ∧ (∀ e ∈ s.fe.saved, e.2.task.who.ctx ≠ 2) ∧
     (∀ e ∈ s.fe.launches, e.2.ctx = 2 → e.2.recs = [] ∧ e.2.wait = [] ∧ e.2.cond = []) ∧
     ∀ e ∈ s.fe.queues, e.2.ctx = 2 → e.2.outer = none ∧ (e.1 = s.fe.curq ∨ e.2.run = none)) ∧
    ¬ ∀ e ∈ (scmd qpf []).tasks, e.2.who.ctx ≠ 1 := by decide +kernel

theorem witness_TableCommands_pages :
    bits (cmdn 2 8192 0).a 40 24 = 0 ∧ bits (cmdn 2 8192 0).a 16 16 = 8192 ∧ (cmdn 2 8192 0).b = 0 ∧
    (scmd qpf []).otherResv 2 + 8192 ≤ (scmd qpf []).pageLimit ∧ ((scmd qpf []).ctx 2).resident ≤ 0 ∧
    (let s := (scmd qpf []).putCtx 3 { Ctx.zero with resv := 8192 }; s.pageLimit < s.otherResv 2 + 8192) ∧
    0 < ({ Ctx.zero with pages := [(0, .resident 0)] } : Ctx).resident ∧
    (∃ l, (scmd qpf []).readRange none 1 0 (8 * 1) = .bytes l ∧ (let fs := (bytesWords 1 l).map BitVec.toNat
      (fs.any fun f => (scmd qpf []).unready f 65536) = false ∧ (fs.any fun f => !(scmd qpf []).poolFrame f) = false ∧
        ((scmd qpf []).ctx 2).pool.length + 1 ≤ 4096)) ∧
    (let s := (scmd qpf []).putCtx 2 { Ctx.zero with table := [(4095, ext .unbacked true true true false (2 ^ 48))] }
     let s1 := { s with pod := { s.pod with routes := [(63, (true, 1))] } }
     ∃ e, tfind (s1.ctx 2).table 4095 = some e ∧ e.kind = .unbacked ∧ s1.routed 63 = true ∧ s1.pod.chip.toNat ≠ 63 ∧ ¬ (2, 4095) ∈ s1.pod.moving) ∧
    (2, 4095) ∈ ({ (scmd qpf []).pod with moving := [(2, 4095)] } : Pod).moving ∧ (1 ≤ bits (cmdd (BitVec.ofNat 64 (15 * 2 ^ 32)) 0).a 32 8 ∧
      bits (cmdd (BitVec.ofNat 64 (15 * 2 ^ 32)) 0).a 32 8 ≤ 15) ∧
    q0.pf = false := by
  refine ⟨by decide, by decide, rfl, by decide +kernel, by decide +kernel, by decide +kernel, by decide +kernel, ⟨_, rfl, by decide +kernel⟩,
    ⟨_, rfl, rfl, by decide +kernel⟩, by decide +kernel, by decide +kernel, rfl⟩

/-- A BACKED extent of 2^k bytes at 0 whose frame lies at 0; `placeCtx` has that of 2 MiB. -/
def extN (k : Nat) : Entry :=
  { log2 := k, kind := .backed, r := true, w := true, x := true, present := true, late := false, vbase := 0, target := 0, set := 0, gsh := 0,
    rcap := 0, fmap := 0 }

/-- The extent of `placeCtx`. -/
def ext21 : Entry := extN 21

/-- A device whose context 1 has such an extent first, with the pod of reset and no quarantined way. -/
def Plain (k : Nat) (s : State) : Prop :=
  (s.ctx 1).table.head? = some (0, extN k) ∧ s.pod = State.reset.pod ∧ s.nv = State.reset.nv

/-- A write of context 1 within that extent is in order, and its home is on this device. -/
theorem plain_write (k : Nat) (hk : k ≤ 36) (s : State) (hs : Plain k s) (va : Nat) (h : va < 2 ^ k) :
    s.xlate 1 va .wr false = .ok va (extN k) ∧ s.homeOf 1 (va / 32) = .here (va / 32) := by
  obtain ⟨hc, hp, -⟩ := hs
  have h36 : va < 2 ^ 36 := Nat.lt_of_lt_of_le h (Nat.pow_le_pow_right (by decide) hk)
  have hl : (s.ctx 1).lookup va = some (0, extN k) := by
    rw [Ctx.lookup]
    cases ht : (s.ctx 1).table with
    | nil => rw [ht] at hc; cases hc
    | cons e r =>
      rw [ht] at hc
      injection hc with hc
      subst hc
      exact List.find?_cons_of_pos (by simp [Entry.covers, extN, h])
  have ho : ∀ n, n < 2 ^ 36 → offOf n = n := fun n hn => Nat.mod_eq_of_lt (by omega)
  have hz : ∀ n, n < 2 ^ 36 → chipOf n = 0 := by intro n hn; simp only [chipOf]; omega
  have hs : s.pod.chip.toNat = 0 := by rw [hp]; rfl
  have hn : s.unframed 1 va = false := by
    have a : isCxl0Off va = false := by simp only [isCxl0Off, Bool.and_eq_false_iff, decide_eq_false_iff_not]; omega
    have b : isCxl1Off va = false := by simp only [isCxl1Off, Bool.and_eq_false_iff, decide_eq_false_iff_not]; omega
    have c : isLpddrOff va = false := by simp only [isLpddrOff, Bool.and_eq_false_iff, decide_eq_false_iff_not]; omega
    have d : isUnbackedOff va = false := by simp only [isUnbackedOff, Bool.and_eq_false_iff, decide_eq_false_iff_not]; omega
    simp [State.unframed, State.noFrame, hz va h36, hs, ho va h36, a, b, c, d]
  have hpa : s.paOf (extN k) va = va := by simp [State.paOf, extN]
  constructor
  · have : ¬ 2 ^ 57 ≤ va := by omega
    have k1 : (extN k).kind = .backed := rfl
    have p : (extN k).present = true := rfl
    have w : (extN k).grants .wr = true := rfl
    simp only [State.xlate, this, if_false, hl, hpa, hn, Bool.and_false, Bool.false_eq_true, Bool.false_and, w, Bool.not_true, Bool.or_self,
      State.backOf, k1, p, if_true]
  · have a : chipOf (va / 32 * 32) = s.pod.chip.toNat := by rw [hs]; exact hz _ (by omega)
    have b : isHostOff (va / 32 * 32) = false := by simp only [isHostOff, decide_eq_false_iff_not]; omega
    have c : isUnbackedOff (va / 32 * 32) = false := by simp only [isUnbackedOff, Bool.and_eq_false_iff, decide_eq_false_iff_not]; omega
    simp only [State.homeOf, a, ho _ (show va / 32 * 32 < 2 ^ 36 by omega), b, c, ne_eq, not_true_eq_false, if_false, Bool.false_eq_true]

/-- In such a device a write of parts of sectors goes through, whatever the bytes, and leaves such a device. -/
theorem plain_writeSecs (k : Nat) (hk : k ≤ 36) (l : List (Nat × BitVec 32 × BitVec 256)) (h : ∀ e ∈ l, e.1 < 2 ^ k) :
    ∀ s : State, Plain k s → ∃ s1, s.writeSecs 1 l = .ok s1 ∧ Plain k s1 := by
  induction l with
  | nil => intro s hs; exact ⟨s, rfl, hs⟩
  | cons e r ih =>
    intro s hs
    obtain ⟨va, m, d⟩ := e
    have hv : va < 2 ^ k := h (va, m, d) (by simp)
    have hb : s.bindFor 1 va (extN k) = .done s := rfl
    let w : SWrite := { sec := va / 32, mask := m, data := d, owner := 1, poison := false, port := 0 }
    have hq : (s.keepSource 1 (va / 32)).lineHeld 1 (va / 32 * 32) = false := by
      simp only [State.lineHeld, show (s.keepSource 1 (va / 32)).nv = State.reset.nv from hs.2.2]
      split <;> simp [State.reset]
    have hw : s.writeHome w = (s.keepSource 1 (va / 32)).writeL2 (va / 32) w := by
      simp only [State.writeHome, w, (plain_write k hk (s.keepSource 1 (va / 32)) hs va hv).2, hq, Bool.false_eq_true, if_false]
    have ho := State.writeL2_only (s.keepSource 1 (va / 32)) (va / 32) w
    simp only [State.writeSecs, (plain_write k hk s hs va hv).1, hb]
    rw [show (s.writeHome { sec := va / 32, mask := m, data := d, owner := 1, poison := false, port := 0 }) = s.writeHome w from rfl, hw]
    exact ih (fun e he => h e (by simp [he])) _ (by rw [ho]; exact hs)

/-- Where the parts of a range lie. -/
theorem cut_below (n : Nat) : ∀ (va : Nat) (l : List Byte), ∀ e ∈ cutBytes n va l, e.1 < va + l.length := by
  induction n with
  | zero => intro va l e he; simp [cutBytes] at he
  | succ n ih =>
    intro va l e he
    rw [cutBytes] at he
    split at he
    · simp at he
    · rename_i hl
      have : 0 < l.length := by cases l with | nil => simp at hl | cons _ _ => simp
      rcases List.mem_cons.1 he with rfl | h
      · simpa using this
      · have := ih _ _ e h
        simp only [List.length_drop] at this
        omega

/-- A write of context 1 within that extent goes through, whatever the bytes. -/
theorem plain_writeRange (k : Nat) (hk : k ≤ 36) (s : State) (hs : Plain k s) (va : Nat) (l : List Byte) (h : va + l.length ≤ 2 ^ k) :
    ∃ s1, s.writeRange 1 va l = .ok s1 ∧ Plain k s1 := by
  have hc : s.secConds 1 .wr (sectorsOf va l.length) = [] := by
    rw [State.secConds, List.filterMap_eq_nil_iff]
    intro q hq
    rw [sectorsOf] at hq
    split at hq
    · simp at hq
    · obtain ⟨j, hj, rfl⟩ := List.mem_map.1 hq
      rw [List.mem_range] at hj
      rw [(plain_write k hk s hs _ (by omega)).1]
  rw [State.writeRange, hc]
  exact plain_writeSecs k hk _ (fun e he => by have := cut_below _ _ _ e he; omega) s hs

/-- So does one of a central block. -/
theorem plain_blockPut (k : Nat) (hk : k ≤ 36) (s : State) (hs : Plain k s) (va : Nat) (l : List Byte) (h : va + l.length ≤ 2 ^ k) :
    ∃ s1, s.blockPut 1 0 va l = .made s1 ∧ Plain k s1 := by
  obtain ⟨s1, h1, p⟩ := plain_writeRange k hk s hs va l h
  have hl : s.linesHeld 1 (sectorsOf va l.length) = false := by rw [State.linesHeld, hs.2.2]; rfl
  exact ⟨s1, by rw [State.blockPut, hl, h1]; rfl, p⟩

/-- A list brought to a length has it. -/
theorem length_fixLen (n : Nat) (l : List Byte) : (fixLen n l).length = n := by
  simp [fixLen]

/-- The length of a report (25 R481). -/
theorem length_report (s : State) (ctx : Nat) (nonce : List Byte) : (s.report ctx nonce).length = 3885 := by
  rw [State.report, List.length_append, State.reportBody, length_fixLen]
  split
  · rw [length_fixLen]
  · rw [List.length_replicate]

theorem witness_TableCommands_attest :
    (let c : Cmd := { cmdd 0 0 with w5 := 64, w6 := 3885 }
     c.a = 0 ∧ c.w5.toNat % 64 = 0 ∧ 3885 ≤ c.w6.toNat ∧ c.w6.toNat < 2 ^ 32 ∧ c.w7 = 0 ∧ cmdHeadBad c = false) ∧
    ∃ nonce, (scmd q0 []).readRange none 1 0 32 = .bytes nonce ∧
      (scmd q0 []).linesHeld 1 (sectorsOf 64 ((scmd q0 []).report 1 nonce).length) = false ∧
      ∃ s1, (scmd q0 []).writeRange 1 64 ((scmd q0 []).report 1 nonce) = .ok s1 :=
  by
  obtain ⟨s1, h, -⟩ := plain_writeRange 21 (by decide) (scmd q0 []) ⟨rfl, rfl, rfl⟩ 64 ((scmd q0 []).report 1 (natBytes 32 0)) (by rw [length_report]; decide)
  exact ⟨by decide, _, rfl, rfl, s1, h⟩

/-! ### Witnesses: streams, groups and placement -/

/-- An unbacked extent of 2 MiB behind `ext21`. -/
def extu : Entry := { ext21 with kind := .unbacked, present := false, vbase := 2 ^ 21, target := 2 ^ 48 + 2 ^ 21 }

/-- A device for streams: such an extent beside `ext21`, a second queue for the stream's own, slot 0 of core 0 owned. -/
def sstream (x : CQueue) (l : List Byte) : State :=
  let s := ((scmd x l).putCtx 1 { Ctx.zero with table := [(0, ext21), (1, extu)] }).putQueue 1 q0
  { s with cores := [(0, { Core.zero with sems := [(0, { v := 0, owner := 1 })] })] }

/-- A stream descriptor of one rung of 128 by 128, the longest period, the largest window and ring, the most commands. -/
def descBytes : List Byte :=
  natBytes 8 (2 ^ 40) ++ natBytes 4 1 ++ natBytes 1 1 ++ natBytes 1 1 ++ natBytes 2 0 ++ natBytes 8 10 ++ natBytes 8 1000 ++ natBytes 8 0 ++
    natBytes 8 0 ++ natBytes 1 64 ++ natBytes 1 2 ++ natBytes 2 0 ++ natBytes 4 4096 ++ natBytes 8 0 ++ natBytes 4 65536 ++ natBytes 1 32 ++
    natBytes 3 0 ++ natBytes 8 0 ++ natBytes 8 (2 ^ 21) ++ natBytes 2 8 ++ natBytes 2 0 ++ natBytes 4 0 ++ natBytes 8 0 ++ natBytes 4 0 ++
    natBytes 1 0 ++ natBytes 1 0 ++ natBytes 2 1 ++ natBytes 16 0 ++
    (natBytes 16 0 ++ natBytes 2 4096 ++ natBytes 2 0 ++ natBytes 1 4 ++ natBytes 1 0 ++ natBytes 2 16 ++ natBytes 2 16 ++ natBytes 6 0 ++
      natBytes 32 0) ++ natBytes 448 0

theorem witness_StreamAndGroupCommands_open :
    (sstream q0 descBytes).queue (sstream q0 descBytes).fe.curq = some q0 ∧ cmdHeadBad (cmdd 511 0) = false ∧
    streamCmdBad (sstream q0 descBytes) (cmdd 511 0) true = false ∧ streamCmdBad (sstream q0 descBytes) (cmdd 511 0) false = false ∧
    tfind (sstream q0 descBytes).streams 511 = none ∧ (sstream q0 descBytes).linesHeld 1 (sectorsOf 0 640) = false ∧
    ∃ l, (sstream q0 descBytes).readRange none 1 0 640 = .bytes l ∧
      (let d := sdescOf (listRd l)
       d.bad (sstream q0 descBytes) 1 (flagsBad (listRd l)) = false ∧ (sstream q0 descBytes).streamQueueBad 1 d.queue = false ∧
       (∃ e, (sstream q0 descBytes).encoderFor d = some e) ∧ d.fixed = d.fixed) := by
  refine ⟨rfl, by decide, by decide +kernel, by decide +kernel, rfl, by decide +kernel, _, rfl, ?_, ?_, ⟨0, ?_⟩, rfl⟩
  all_goals decide +kernel

/-- A stream with a descriptor and frames. -/
def strOf (d : SDesc) (fs : List Frame) : Stream := { str0 with desc := d, frames := fs }

theorem witness_StreamAndGroupCommands_close :
    (let s : State := { sstream q0 [] with streams := [(5, strOf desc0 [])] }
     streamCmdBad s (cmdd 5 0) false = false ∧ tfind s.streams (streamId (cmdd 5 0)) ≠ none ∧ s.ownStream 5 = some (strOf desc0 []) ∧
     (strOf desc0 []).frames = [] ∧ (strOf desc0 []).tick = none) ∧
    (let s : State := { sstream q0 [] with streams := [(5, str0)] }
     s.ownStream 5 = some str0 ∧ str0.frames ≠ []) ∧
    (let d := sdescOf (listRd descBytes)
     let s : State := { sstream q0 descBytes with streams := [(5, strOf d [])] }
     streamCmdBad s (cmdd 5 0) true = false ∧ s.ownStream 5 = some (strOf d []) ∧
     ∃ l, s.readRange none 1 0 640 = .bytes l ∧ (sdescOf (listRd l)).bad s 1 (flagsBad (listRd l)) = false ∧
       (sdescOf (listRd l)).fixed = (strOf d []).desc.fixed) := by
  refine ⟨⟨by decide +kernel, by decide +kernel, rfl, rfl, rfl⟩, ⟨rfl, by decide⟩, by decide +kernel, rfl, _, rfl, by decide +kernel, by decide +kernel⟩

/-- A picture being decoded in queue 0, from a bitstream of zeros. -/
def dec0 : BlockJob := { key := 0, stage := 0, tick := 0, held := false, src := List.replicate 64 0 }

theorem witness_StreamAndGroupCommands_decode :
    (let c := cmdd 0 (BitVec.ofNat 64 (2 * 2 ^ 32 + 64))
     c.w7 = 0 ∧ c.b.extractLsb' 40 24 = 0 ∧ (c.b.extractLsb' 32 8).toNat ≤ 2 ∧ c.b.toNat % 2 ^ 32 = 64) ∧
    (sstream q0 []).linesHeld 1 (sectorsOf 0 64) = false ∧ tfind (sstream q0 []).decoders (sstream q0 []).fe.curq = none ∧
    ((sstream q0 []).decoders.filter fun e => !e.2.held).length < 4 ∧
    (∃ l, (sstream q0 []).readRange none 1 0 64 = .bytes l) ∧
    (let s : State := { sstream q0 [] with decoders := [(0, dec0)] }; tfind s.decoders s.fe.curq = some dec0) :=
  ⟨by decide, by decide +kernel, rfl, by decide, ⟨_, rfl⟩, rfl⟩

/-- A device with an extent of 1 GiB. -/
def sbig : State := { ((scmd q0 []).putCtx 1 { Ctx.zero with table := [(0, extN 30)] }) with decoders := [(0, dec0)] }

theorem length_flat (f : Nat → List Byte) (hf : ∀ k, (f k).length = 2) (l : List Nat) : (l.flatMap f).length = 2 * l.length := by
  induction l with
  | nil => rfl
  | cons a r ih => rw [List.flatMap_cons, List.length_append, hf, ih, List.length_cons]; omega

/-- Whatever picture a decoder takes from a bitstream, within the limits its two writes go through. -/
theorem witness_StreamAndGroupCommands_picture (p : Config.Picture) (hw : p.w ≤ 3840) (hh : p.h ≤ 2160) :
    ∃ s1 s2, sbig.blockPut 1 0 0 (p.work.take (6 * p.w * p.h)) = .made s1 ∧ s1.blockPut 1 0 0 (pictureTiles p p.deep) = .made s2 := by
  have m : p.w * p.h ≤ 3840 * 2160 := Nat.mul_le_mul hw hh
  have g : (gridOf p.w p.h).1 * (gridOf p.w p.h).2 ≤ 60 * 34 := Nat.mul_le_mul (by simp only [gridOf]; omega) (by simp only [gridOf]; omega)
  obtain ⟨s1, h1, q1⟩ := plain_blockPut 30 (by decide) sbig ⟨rfl, rfl, rfl⟩ 0 (p.work.take (6 * p.w * p.h))
    (by rw [List.length_take, Nat.mul_assoc]; omega)
  obtain ⟨s2, h2, -⟩ := plain_blockPut 30 (by decide) s1 q1 0 (pictureTiles p p.deep)
    (by rw [pictureTiles, length_flat _ (fun _ => rfl), List.length_range]; omega)
  exact ⟨s1, s2, h1, h2⟩

/-- GROUP_OPEN of group 1023: one sibling, no queue, GSCOPE 4, a record at 0 and one page of the siblings own space. -/
def cgroup : Cmd :=
  { cmdd (BitVec.ofNat 64 (1023 + 2 ^ 16 + 255 * 2 ^ 24 + 4 * 2 ^ 48)) 0 with w5 := BitVec.ofNat 64 (2 ^ 21), w6 := 0, w7 := 1 }

theorem witness_StreamAndGroupCommands_group :
    (let c := cgroup
     let s := sstream q0 []
     bits c.a 56 8 = 0 ∧ bits c.w7 32 32 = 0 ∧ bits c.a 0 16 = 1023 ∧ s.groupOf 1023 = none ∧ bits c.a 16 8 = 1 ∧ bits c.a 32 16 = 0 ∧
     bits c.a 48 8 = 4 ∧ c.b.toNat % 64 = 0 ∧ c.w5.toNat % 65536 = 0 ∧ c.w6.toNat % 4 = 0 ∧ bits c.w7 0 32 = 1 ∧ s.aqBad 1 (bits c.a 24 8) = false ∧
     s.rangeOut 1 c.w5.toNat (65536 * 1 * 1) = false ∧ s.areaBad 1 c.b.toNat 320 = false ∧ s.linesHeld 1 (sectorsOf 0 0) = false ∧
     s.readRange none 1 0 0 = .bytes [] ∧ tfind s.opens s.fe.curq = none ∧ s.opening s.fe.curq 1023 255 = false) ∧
    (let s : State := { sstream q0 [] with cores := [(0, { Core.zero with sems := [(0, { v := 0xFFFFFFFF, owner := 1 })] })] }
     (∃ l, s.readRange none 1 0 4 = .bytes l ∧ pfxIds 1 l = [0]) ∧ s.pfxBad 1 0 = false) ∧
    (let a : Attach := { gid := 1023, aq := 255, n := 1, ids := [767 * 64 + 63], made := 0, out := 0, undo := false }
     let on (a : Attach) : State := { sstream q0 [] with opens := [(0, a)] }
     tfind (on a).opens (on a).fe.curq = some a ∧ a.ids[a.made]? = some (767 * 64 + 63) ∧ idChip (767 * 64 + 63 : BitVec 22) = (on a).pod.chip.toNat ∧
     ({ a with out := 1 } : Attach).out ≠ 0 ∧ ({ a with made := 1 } : Attach).made = a.ids.length ∧ ({ a with undo := true } : Attach).made = 0 ∧
     ({ a with undo := true, made := 1 } : Attach).made ≠ 0) ∧
    (let s : State := { sstream q0 [] with groups := [(1023, grp0)] }; s.groupOf 1023 ≠ none) ∧
    (let s : State := { sstream q0 [] with groups := [(1023, grp0)] }
     let c := cmdd 1023 0
     c.w5 = 0 ∧ bits c.a 16 48 = 0 ∧ bits c.a 0 16 < 1024 ∧ s.groupOf (bits c.a 0 16) = some (1023, grp0) ∧ grp0.ctx = 1 ∧ grp0.closed = none ∧
     ¬ s.fe.curq ∈ grp0.closing) := by
  refine ⟨by decide +kernel, ⟨⟨_, rfl, by decide +kernel⟩, by decide +kernel⟩, by decide +kernel, by decide +kernel, by decide +kernel⟩

/-- A launch with a record that is queued in its own entry and two that wait. -/
def larec : Launch := { la with recs := [{ rec0 with entry := some 1 }], wait := [rec0, { rec0 with depth := 7 }] }

/-- A device without tasks that holds this launch and the saved tasks given. -/
def splace (l : Tab Saved) : State :=
  { State.reset.putCtx 1 placeCtx with fe := { State.reset.fe with launches := [(1, larec)], saved := l } }

/-- A saved task that is ready. -/
def saved0 : Saved :=
  { task := t0, launch := 1, stage := 0, from_ := none, ready := true, copies := [], halt := none, bad := false, low := 0, olds := [],
    cleared := [] }

theorem witness_TaskPlacement :
    (tfind (splace []).fe.launches 1 = some larec ∧ larec.wait = [rec0] ++ { rec0 with depth := 7 } :: [] ∧
      (∀ q ∈ [rec0], q.stage = 0 → larec.entryFor 0 q.depth = none) ∧ larec.entryFor 0 7 = some (some 7)) ∧
    (let g := (splace []).grantAll
     tfind g.fe.launches 1 = some larec ∧ (g.ctx 1).term = none ∧ g.fen.frozen = false ∧ larec.gang = false ∧ larec.granted = true ∧
      g.stageOrder 1 larec = [0] ∧ (∃ ps, g.places larec 0 = (0, 0, false) :: ps) ∧
      g.nextFor 1 larec 0 = some (.rec_ { rec0 with entry := some 1 })) ∧
    (let g := (splace [(4, saved0)]).grantAll
     g.stageOrder 1 larec = [0] ∧ (∃ ps, g.places larec 0 = (0, 0, false) :: ps) ∧ g.nextFor 1 larec 0 = some (.state 4) ∧
      tfind g.fe.saved 4 = some saved0 ∧ saved0.launch = 1 ∧ saved0.task.who.pin = none) ∧
    (tfind (splace [(4, saved0)]).fe.saved 4 = some saved0 ∧ tfind (splace [(4, saved0)]).fe.launches saved0.launch = some larec ∧
      saved0.ready = true ∧ saved0.halt = none ∧ ((splace [(4, saved0)]).ctx 1).term = none ∧ (splace [(4, saved0)]).fen.frozen = false ∧
      ∃ ps, (splace [(4, saved0)]).places larec saved0.stage = (0, 0, false) :: ps) ∧
    ({ splace [] with fe := { (splace []).fe with pick := some 0 } } : State).grantAll.fe.pick = some 0 := by
  refine ⟨by decide +kernel, ⟨by decide +kernel, rfl, rfl, rfl, rfl, by decide +kernel, ⟨_, rfl⟩, by decide +kernel⟩,
    ⟨by decide +kernel, ⟨_, rfl⟩, by decide +kernel, rfl, rfl, rfl⟩, ⟨rfl, rfl, rfl, rfl, rfl, rfl, _, rfl⟩, by decide +kernel⟩

/-- A task whose strands have ended. -/
def tended : Task := { t0 with a := { Strand.zero with ended := true }, x := { Strand.zero with ended := true } }

/-- A task that has halted for a save. -/
def thalted : Task := { t0 with susp := some .halted }

/-- A write to s1 of the X-strand in flight. -/
def tflight (age : Nat) : Task :=
  { t0 with xs := { XState.zero with flights := [{ pc := 0, age := age, lat := 5, kind := .sreg 1 7, word := 0 }] } }

theorem witness_TaskBanks :
    (sa tended).here = some tended ∧ tended.drained = true ∧ tended.who.join = none ∧
    (let s : State := { sa t0 with cores := [(0, { Core.zero with bank := 1 })] }; s.prefers s.cur.core = true) ∧
    (sa t0).prefers (sa t0).cur.core = false ∧ t0.susp = none ∧ t0.stop = none ∧ t0.retiring = false ∧
    (sa thalted).here = some thalted ∧ thalted.susp = some .halted ∧ thalted.settled = true ∧ (sa thalted).jobs = [] ∧
    ((tflight 4).xs.flights = [{ pc := 0, age := 4, lat := 5, kind := .sreg 1 7, word := 0 }] ∧ 5 ≤ 4 + 1) ∧
    (tflight 3).xs.flights = [{ pc := 0, age := 3, lat := 5, kind := .sreg 1 7, word := 0 }] ∧ 3 + 1 < 5 := by
  refine ⟨rfl, by decide +kernel, rfl, by decide +kernel, by decide +kernel, rfl, rfl, rfl, rfl, rfl, by decide +kernel, rfl, ⟨rfl, by decide⟩, rfl,
    by decide⟩

/-- A fault of the task in bank 0 of core 0 at an address. -/
def fault0 (va at_ : Nat) : BFault :=
  { sub := 1, chip := none, va := va, kind := 0, core := 0, bank := 0, id := 1, at_ := at_, saved := none, job := none }

/-- A device whose context 1 has that fault, its task suspended. -/
def sback (va at_ : Nat) : State :=
  (sa { t0 with susp := some (.back 1) }).putCtx 1 { placeCtx with faults := [fault0 va at_], timeout := 100 }

/-- A binding that is done. -/
theorem done_of (a : Alloc) (h : (match a with | .done _ => true | _ => false) = true) : ∃ s, a = .done s := by
  cases a with
  | done s => exact ⟨s, rfl⟩
  | beyond _ => cases h
  | hole => cases h

theorem witness_BackingEvents :
    (∃ k e s1, ((sa t0).ctx 1).lookup 4096 = some (k, e) ∧ (sa t0).bindFor 1 ((sa t0).paOf e 4096) e = .done s1) ∧
    (((sstream q0 []).ctx 1).lookup (2 ^ 22 - 1) = some (1, extu) ∧ extu.kind = .unbacked ∧
      ∃ s1, ((sstream q0 []).putCtx 1 { ((sstream q0 []).ctx 1) with resv := 1 }).bindFor 1 (2 ^ 48 + 2 ^ 22 - 1) extu = .done s1) ∧
    (((sback 0 0).ctx 1).faults = [fault0 0 0] ∧ (sback 0 0).stillBack 1 (fault0 0 0) = false ∧
      (sback 0 0).task 0 0 = some { t0 with susp := some (.back 1) }) ∧
    (let s := (sext (ext .backed true true true false 0) t0).putCtx 1
        { Ctx.zero with table := [(0, ext .backed true true true false 0)], faults := [fault0 0 0] }
     ∀ f ∈ (s.ctx 1).faults, s.stillBack 1 f = true) ∧
    (let s : State := { sback 0 0 with dt := 130000000 }
     (s.ctx 1).faults.find? (fun f => decide ((s.ctx 1).timeout * 1300000 ≤ s.dt.toNat - f.at_)) = some (fault0 0 0)) ∧
    (let s : State := { sback 0 0 with dt := 129999999 }
     ∀ f ∈ (s.ctx 1).faults, s.dt.toNat - f.at_ < (s.ctx 1).timeout * 1300000) := by
  refine ⟨⟨_, _, _, rfl, rfl⟩, ⟨by decide +kernel, rfl, done_of _ (by decide +kernel)⟩, ⟨rfl, by decide +kernel, rfl⟩, by decide +kernel, by decide +kernel, by decide +kernel⟩

/-- A context with an UNBACKED extent of one page, a reservation and a pool. -/
def spool (late : Bool) (resv : Nat) (pool : List Nat) : State :=
  (sa t0).putCtx 1 { Ctx.zero with
    table := [(0, { ext .unbacked true true true false (2 ^ 48) with late := late })], resv := resv, pool := pool }

/-- Residency frames 0 and 12287 are free, and 0 is the lowest. -/
theorem witness_BackingEvents_pages :
    (let e := { ext .unbacked true true true false (2 ^ 48) with late := true }
     ((spool true 1 [0]).ctx 1).extentOf (2 ^ 32) = some e ∧ ((spool true 1 [0]).ctx 1).resident < ((spool true 1 [0]).ctx 1).resv ∧ e.rcap = 0 ∧
     e.late = true) ∧
    ((0 : Nat) < 12288 ∧ (∀ x ∈ (spool true 1 [0]).ctxs, ∀ y ∈ x.2.pages, y.2 ≠ .resident 0) ∧ (spool true 1 [0]).withdrawn 0 = false) ∧
    ¬ ((spool true 0 [0]).ctx 1).resident < ((spool true 0 [0]).ctx 1).resv ∧ ((spool true 0 [0]).ctx 1).pool = [0] ∧
    (∀ x ∈ ((spool true 0 [0]).ctx 1).pool, ¬ x ∈ (spool true 0 [0]).nv.retired) ∧ (spool true 0 [0]).noFrame 0 = false ∧
    (spool true 0 [0]).noFrame (0 + 65535) = false ∧ ((spool true 0 []).ctx 1).pool = [] ∧ (spool true 0 [2 ^ 42]).noFrame (2 ^ 42) = true ∧
    (ext .unbacked true true true false (2 ^ 48)).late = false := by decide +kernel

/-- A post of the task in bank 0 of core 0. -/
def post0 : Post := { core := 0, bank := 0, id := 1, tick := 0, d := 4, hash := 7 }

/-- A device with group 1023 and its sibling. -/
def sgrp (b : Sib) : State := { sa t0 with groups := [(1023, { grp0 with sibs := [b] })] }

theorem witness_GroupEvents :
    (sa t0).posts = [] ∧ (let s : State := { sa t0 with posts := [post0] }
      firstPost s.openPosts = some post0 ∧ s.task post0.core post0.bank = some t0 ∧ t0.who.id = post0.id ∧ t0.mem.group = none) ∧
    (let g : Group := { grp0 with sibs := [sib0] }
     (sgrp sib0).groupOf 1023 = some (1023, g) ∧ g.sibs[0]? = some sib0 ∧ sib0.st ≠ .cancelled ∧ g.closed = none ∧ g.finished 0 = false) ∧
    (let b : Sib := { sib0 with st := .cancelled }
     let g : Group := { grp0 with sibs := [b] }
     (sgrp b).groupOf 1023 = some (1023, g) ∧ b.st = .cancelled ∧ b.release = none ∧ (sgrp b).sibBusy 1023 0 = false) ∧
    (let b : Sib := { sib0 with st := .posted }
     ({ grp0 with sibs := [b] } : Group).finished 0 = true ∧ b.st = .posted) ∧
    (tfind (sgrp sib0).groups 1023 = some { grp0 with sibs := [sib0] } ∧ ({ grp0 with sibs := [sib0] } : Group).sibs[1]? = none ∧
      sib0.st = .running ∧ grp0.winner = none) ∧
    ((sgrp sib0).shallotHeld 1 = false ∧ (sgrp sib0).addsOut 1 = false ∧ ((sgrp sib0).ctx 1).term = none ∧ grp0.stage = 0 ∧
      ∃ a, (sgrp sib0).blockPut grp0.ctx 0 (grp0.record.toNat + 8) grp0.bytes = .made a ∧
        ∃ b, a.blockPut grp0.ctx 0 grp0.record.toNat (natBytes 8 grp0.seq.toNat) = .made b) ∧
    (let g1 : Group := { grp0 with sibs := [{ sib0 with st := .posted, hash := 7, tick := 0 }] }; g1.n / 2 < g1.sibs.countP fun b => decide (b.st = .posted ∧ b.hash = 7)) ∧
    (let m : SemMsg := { sigMsg with src := .block 10 }
     let s : State := { sgrp sib0 with cores := [(0, { Core.zero with inbox := [m] })] }
     s.addsOut 1 = true) ∧
    (let g2 : Group := { grp0 with n := 2, sibs := [{ sib0 with st := .posted, hash := 7, tick := 0 }, sib0] }; (g2.sibs.countP fun b => decide (b.st = .posted ∧ b.hash = 7)) ≤ g2.n / 2) := by
  refine ⟨rfl, ⟨rfl, rfl, rfl, rfl⟩, ⟨rfl, rfl, by decide, rfl, by decide +kernel⟩, by decide +kernel, by decide +kernel, ⟨rfl, rfl, rfl, rfl⟩,
    ⟨rfl, by decide +kernel, rfl, rfl, ?_⟩, by decide +kernel, by decide +kernel, by decide +kernel⟩
  obtain ⟨a, ha, pa⟩ := plain_blockPut 21 (by decide) (sgrp sib0) ⟨rfl, rfl, rfl⟩ 8 grp0.bytes (by decide +kernel)
  obtain ⟨b, hb, -⟩ := plain_blockPut 21 (by decide) a pa 0 (natBytes 8 0) (by decide)
  exact ⟨a, ha, b, hb⟩

/-- A device at a tick with stream 5. -/
def sstr5 (st : Stream) (dt : Word) : State := { (sa t0).putQueue 0 q0 with streams := [(5, st)], dt := dt }

/-- A stream without frames whose next is frame `n`. -/
def stNext (n : Nat) : Stream := { str0 with frames := [], next := n }

theorem plain_sstr5 (st : Stream) (dt : Word) : Plain 21 (sstr5 st dt) := ⟨rfl, rfl, rfl⟩

theorem witness_StreamEvents :
    (tfind (sstr5 (stNext 0) 9).streams 5 = some (stNext 0) ∧ (stNext 0).tick = none ∧ (sstr5 (stNext 0) 9).queue 0 = some q0 ∧
      (9 : Word).toNat < desc0.start 0) ∧
    ((sstr5 (stNext 0) 10).queue (stNext 0).desc.queue = some q0 ∧ (stNext 0).closing = false ∧ (stNext 0).begun = none ∧
      (sstr5 (stNext 0) 10).fen.frozen = false ∧ (sstr5 (stNext 0) 10).chardHeld 5 (stNext 0) = false ∧ q0.run = none ∧ q0.outer = none ∧
      q0.error = false ∧ ((sstr5 (stNext 0) 10).ctx 1).term = none ∧ desc0.start 0 ≤ (10 : Word).toNat ∧ (10 : Word).toNat < desc0.due 0 ∧
      ∃ l, (sstr5 (stNext 0) 10).readRange none 1 desc0.ring 8 = .bytes l ∧ (stNext 0).next < bytesNat l + desc0.rslots) ∧
    (desc0.start 4 ≤ (5010 : Word).toNat ∧ desc0.due 3 ≤ (5010 : Word).toNat ∧
      ∃ l, (sstr5 (stNext 4) 5010).readRange none 1 desc0.ring 8 = .bytes l ∧ bytesNat l + desc0.rslots ≤ (stNext 4).next ∧
        (stNext 3).next < bytesNat l + desc0.rslots) ∧
    (let d : TDesc := { frame := 3, slot := 0, tx := 0, ty := 0 }
     let st : Stream := { str0 with descs := [d] }
     let vas := sectorsOf (desc0.eqbase + 12288 * 0) 12288
     st.frames = [frame0] ∧ st.descs.find? (fun d => d.frame == frame0.n) = some d ∧ (sstr5 st 10).linesHeld 1 vas = false ∧
       firstCond ((sstr5 st 10).secConds 1 .rd vas) = none) ∧
    str0.whole frame0 = false ∧ (sstr5 str0 0).encodesFirst 5 str0 frame0 = false ∧ frame0.out = none ∧
    str0.whole { frame0 with tiles := [(0, 0), (0, 1), (1, 0), (1, 1)] } = true := by
  refine ⟨⟨rfl, rfl, rfl, by decide⟩, ⟨rfl, rfl, rfl, rfl, by decide +kernel, rfl, rfl, rfl, rfl, by decide, by decide, _, rfl, by decide +kernel⟩,
    ⟨by decide, by decide, _, rfl, by decide +kernel, by decide +kernel⟩, ⟨rfl, rfl, by decide +kernel, by decide +kernel⟩, by decide +kernel,
    by decide +kernel, rfl, by decide +kernel⟩

/-- The writes of a frame go through, whatever its bytes: its reference store, its bitstream, its record and its number. -/
theorem witness_StreamEvents_writes (st : Stream) (dt : Word) (refs bytes rec_ wtab : List Byte) (hr : refs.length ≤ 6 * (128 * 128))
    (hb : bytes.length ≤ 4096) (hc : rec_.length ≤ 56) (hw : wtab.length ≤ 256) :
    (∃ a b c e, (sstr5 st dt).blockPut 1 0 desc0.refb refs = .made a ∧ a.blockPut 1 0 (desc0.ring + 8192 + 4096 * 3) bytes = .made b ∧
      b.blockPut 1 0 (desc0.ring + 64 + 64 * 3 + 8) rec_ = .made c ∧ c.blockPut 1 0 (desc0.ring + 64 + 64 * 3) (natBytes 8 4) = .made e) ∧
    ∃ a, (sstr5 st dt).blockPut 1 0 desc0.wtab wtab = .made a := by
  have r0 : desc0.ring = 0 := rfl
  have r1 : desc0.refb = 0 := rfl
  have r2 : desc0.wtab = 0 := rfl
  obtain ⟨a, ha, pa⟩ := plain_blockPut 21 (by decide) (sstr5 st dt) (plain_sstr5 st dt) desc0.refb refs (by omega)
  obtain ⟨b, hb', pb⟩ := plain_blockPut 21 (by decide) a pa (desc0.ring + 8192 + 4096 * 3) bytes (by omega)
  obtain ⟨c, hc', pc⟩ := plain_blockPut 21 (by decide) b pb (desc0.ring + 64 + 64 * 3 + 8) rec_ (by omega)
  obtain ⟨e, he, -⟩ := plain_blockPut 21 (by decide) c pc (desc0.ring + 64 + 64 * 3) (natBytes 8 4) (by rw [show (natBytes 8 4).length = 8 from rfl]; omega)
  obtain ⟨f, hf, -⟩ := plain_blockPut 21 (by decide) (sstr5 st dt) (plain_sstr5 st dt) desc0.wtab wtab (by omega)
  exact ⟨⟨a, b, c, e, ha, hb', hc', he⟩, f, hf⟩

/-- A device whose engine 3 has it. -/
def ssamp (a : Word) : State := { sa t0 with sorrel := [(3, [samp0 a])] }

theorem witness_StreamEvents_sampler :
    (sa t0).engine 3 = [] ∧ (ssamp 0).engine 3 = samp0 0 :: [] ∧ (∀ q ∈ (ssamp 0).engine 3, q.held = false) ∧
    (ssamp 0).sampNext 3 = [samp0 0] ∧ ((ssamp 0).ctx (samp0 0).ctx).term = none ∧ (samp0 0).got = [] ∧
    (∃ d, (ssamp 0).readRange none 1 0 128 = .bytes d) ∧ (ssamp (2 ^ 21)).sampNext 3 = [samp0 (2 ^ 21)] ∧
    (∃ va, (ssamp (2 ^ 21)).readRange none 1 (2 ^ 21 : Word).toNat 128 = .bad 3 4 va) :=
  ⟨rfl, rfl, by decide +kernel, rfl, rfl, rfl, ⟨_, rfl⟩, rfl, _, rfl⟩

/-- The stream once frame 3 is complete, its record still to write. -/
def strOut : Stream := { str0 with frames := [{ frame0 with out := some { key := 0, stage := 2, tick := 9, held := false, src := [] } }] }

theorem witness_StreamEvents_frames :
    (str0.live = frame0 :: [] ∧ ((sstr5 str0 10).ctx str0.ctx).term = none ∧ (sstr5 str0 10).encHeld str0 = false) ∧
    (∃ f o, strOut.frames = f :: [] ∧ f.out = some o ∧ o.stage = 2 ∧ o.held = false ∧ strOut.held = false ∧
      (sstr5 strOut 10).chardHeld 5 strOut = false ∧ ((sstr5 strOut 10).ctx strOut.ctx).term = none ∧
      (natBytes 8 f.n ++ natBytes 4 0 ++ [0] ++ natBytes 1 f.rung ++ natBytes 1 f.steps ++ natBytes 1 0 ++ natBytes 8 f.start ++
        natBytes 8 o.tick ++ natBytes 8 0 ++ natBytes 16 0).length = 56) ∧
    strOut.live = [] := by
  refine ⟨⟨rfl, rfl, by decide +kernel⟩, ⟨_, _, rfl, rfl, rfl, rfl, rfl, by decide +kernel, rfl, by decide +kernel⟩, rfl⟩

/-- A descriptor of `vb` tokens of 1, with its chain at address 64. -/
def sdesc (vb : Nat) : List Byte := natBytes 8 0 ++ natBytes 4 vb ++ natBytes 4 1 ++ natBytes 8 32 ++ [0, 0, 2] ++ natBytes 5 0 ++ [64] ++ natBytes 95 0

/-- A device with the chain, one DRAW, and token 0's logit in memory. -/
def sdraw (logit : Byte) : State :=
  match (ssamp 0).writeRange 1 0 (List.replicate 4 logit ++ natBytes 60 0 ++ [7]) with | .ok s => s | _ => ssamp 0

theorem witness_StreamEvents_record :
    sampDescBad (listRd (sdesc 1)) = false ∧ sampDescBad (listRd (sdesc 0)) = true ∧
    (ssamp 0).areaBad 1 (sampDesc (listRd (sdesc 1))).result 68 = false ∧ (ssamp 0).areaBad 1 (2 ^ 21) 68 = true ∧
    (let m : SampMem := { old := [], got := [], out := SampOut.zero }
     let x := sampDesc (listRd (sdesc 1))
     (∃ m1, ((sdraw 0).sampRun 1 x 0).run.run m = (.ok (), m1)) ∧ (((sdraw 0).sampRun 1 x 0).run.run m).2.out.toks = [0] ∧
     ∃ m1, ((sdraw 255).sampRun 1 x 0).run.run m = (.error .noToken, m1)) ∧
    (samp0 0).stage = 0 ∧ (∃ y : Token, y.st = .pending ∧ y.job = (samp0 0).job) ∧ (ssamp 0).task 0 0 = some t0 ∧ t0.who.id = (samp0 0).id := by
  refine ⟨by decide +kernel, by decide +kernel, by decide +kernel, by decide +kernel, ⟨⟨_, rfl⟩, by decide +kernel, ⟨_, rfl⟩⟩, rfl,
    ⟨{ (t0.tok 0) with st := .pending, job := 1 }, rfl, rfl⟩, rfl, rfl⟩

/-- Two tokens that have been kept, the second the likelier. -/
def kept2 : List Kept := [{ t := 3, x := 0x3F800000, e := 0x3F000000 }, { t := 5, x := 0x40000000, e := 0x3F800000 }]

theorem witness_SamplerPipeline :
    fp32.val 0x7FC00000 = .nan ∧ fp16.val 0x7C00 = .inf false ∧ bf16.val 0xFF80 = .inf true ∧
    (kept2.Pairwise (fun a b => a.t < b.t) ∧ kept2 ≠ []) ∧
    (let r : Rd := fun o n => if o = 16 ∧ n = 4 then 1 else 0; 1 ≤ r 16 4 ∧ r 20 4 = 0 ∧ r 24 4 = 0) ∧
    (let upto (l : List Kept) : Nat := l.foldl (fun c k => add32 c k.e) 0
     (∀ a b, [({ t := 3, x := 0, e := 0x3F000000 } : Kept)] = a ++ b → a ≠ [] → less 0x3F400000 (upto a) = false) ∧
       less 0x3F400000 (upto kept2) = true) ∧
    argmax kept2 = some { t := 5, x := 0x40000000, e := 0x3F800000 } ∧
    ∃ l m1, ((ssamp 0).sampRow 1 (sampDesc (listRd (sdesc 1))) [] 0).run.run { old := [], got := [], out := SampOut.zero } = (.ok l, m1) ∧
      ((5 : Nat) < 6 ∧ (6 : Nat) ≤ 6) := by
  refine ⟨by decide +kernel, by decide +kernel, by decide +kernel, ⟨by decide, by decide⟩, ⟨by decide, by decide, by decide⟩,
    ⟨?_, by decide +kernel⟩, by decide +kernel, _, _, rfl, by decide, by decide⟩
  intro a b h ha
  match a, h with
  | [], _ => exact absurd rfl ha
  | [x], h => 
    obtain ⟨rfl, -⟩ := List.cons.inj h
    decide +kernel

/-! ### Witnesses: errors, contexts, registers and the mailbox -/

/-- A sector with a dirty byte, and a clean one. -/
def sec0 (dirty : BitVec 32) : Sector := { valid := true, poison := false, owner := 1, dirty := dirty, data := 0 }

/-- A device whose core 0 has it. -/
def sl1 (dirty : BitVec 32) : State := { sa t0 with cores := [(0, { Core.zero with l1 := [(0, sec0 dirty)] })] }

theorem witness_ErrorEvents :
    ((sl1 0).l1 0 (31 / 32) = some (sec0 0) ∧ (sec0 0).dirty = 0 ∧ (sec0 0).poison = false) ∧
    ((sl1 1).l1 0 (31 / 32) = some (sec0 1) ∧ (sec0 1).dirty ≠ 0 ∧ (sec0 1).owner ≠ 0 ∧ ((sl1 1).ctx (sec0 1).owner).term = none) ∧
    (sa t0).task 0 0 = some t0 ∧ (3 : Nat) < 4 ∧
    ((63 : Nat) < 64 ∧ (15 : Nat) < 16 ∧ (sa t0).fen.alive.getLsbD 3 = true ∧ ¬ (63, 15) ∈ (sa t0).nv.quarantined ∧
      ((sa t0).nv.quarantined.filter fun e => e.1 == 63).length < 4) ∧
    (let s : State := { sa t0 with nv := { (sa t0).nv with quarantined := [(63, 0), (63, 1), (63, 2), (63, 3)] } }
     s.fen.alive.getLsbD 3 = true ∧ ¬ (63, 15) ∈ s.nv.quarantined ∧ 4 ≤ (s.nv.quarantined.filter fun e => e.1 == 63).length) := by
  refine ⟨⟨rfl, rfl, rfl⟩, ⟨rfl, by decide, by decide, rfl⟩, rfl, by decide, by decide +kernel, by decide +kernel⟩

/-- What a scrub finds, and the lists that stay apart. -/
theorem witness_ErrorEvents_scrubs :
    (let p : ErrPlace := .l2 0 0 0
     let s : State := { sa t0 with latent := [(true, p)], lines := [(0, { owner := 1, way := 0 })] }
     s.latent = [(true, p)] ∧ s.inWay 0 s.patrolAt p = true ∧ ∀ e ∈ s.latent, s.inWay 1 s.patrolAt e.2 = false) ∧
    (let s : State := { sa t0 with latent := [(true, .dram 64)] }
     s.latent = [(true, .dram 64)] ∧ (∀ e ∈ s.latent, s.inWay 0 s.patrolAt e.2 = false) ∧ ∀ e ∈ s.latent, ∀ a, e.2 = .dram a → a / 32 ≠ 96 / 32) ∧
    (sl1 1).ctxs.Pairwise (fun a b => a.1 < b.1) := by
  refine ⟨by decide +kernel, ⟨rfl, by decide +kernel, ?_⟩, by decide +kernel⟩
  intro e he a h
  obtain rfl := List.mem_singleton.1 he
  obtain rfl := ErrPlace.dram.inj h
  decide

theorem witness_ContextEnds : ((sa t0).ctx 1).term = none ∧
    (let s := (sa t0).putCtx 15 { Ctx.zero with term := some 3 }; (s.ctx 15).term = some 3 ∧ s.fen.alive.getLsbD 3 = true ∧
      (∀ e ∈ s.fe.queues, e.2.ctx = 15 → e.2.run = none ∧ e.2.outer = none) ∧ (∀ e ∈ s.streams, e.2.ctx ≠ 15) ∧ (∀ e ∈ s.groups, e.2.ctx ≠ 15) ∧
      (s.ctx 15).begun = false ∧ (s.endFirst 15 none).endHeld 15 = false ∧
      (let d := s.putCtx 15 { Ctx.zero with term := some 3, begun := true }; (d.ctx 15).begun = true ∧ (d.endCentral 15).endHeld 15 = false)) ∧
    (∀ k, ((sa t0).cluster k).egress = []) ∧ (0 : Nat) < 15 ∧ 15 ≤ 15 := by
  refine ⟨rfl, ⟨rfl, by decide +kernel, by decide +kernel, by decide +kernel, by decide +kernel, by decide +kernel⟩, ?_, by decide, by decide⟩
  intro k
  have h : ∀ l : Tab Cluster, (∀ e ∈ l, e.2.egress = []) → (tget (Cluster.zero false) l k).egress = [] := by
    intro l hl
    induction l with
    | nil => rfl
    | cons e r ih =>
      rw [tget]
      split
      · exact hl e (by simp)
      · exact ih fun e he => hl e (by simp [he])
  exact h _ (by decide +kernel)

/-- A termination with F3 dead, one whose queue still waits for its completion, and a byte that a context holds alone. -/
theorem witness_ContextEnds_held :
    (let s := (sa t0).putCtx 15 { Ctx.zero with term := some 3 }
     let d : State := { s with fen := { s.fen with alive := 0xF7 } }
     (d.ctx 15).term = some 3 ∧ d.fen.alive.getLsbD 3 = false) ∧
    (let s := ((sa t0).putCtx 15 { Ctx.zero with term := some 3, begun := true }).putQueue 5 { (qend 0) with ctx := 15 }
     (s.ctx 15).begun = true ∧ s.fen.alive.getLsbD 3 = true ∧ (s.endCentral 15).endHeld 15 = true) ∧
    (sa t0).holdsAlone 1 0 = true ∧ (sa t0).holdsAlone 1 (2 ^ 21) = false := by decide +kernel

/-- A device in operation. -/
def sops : State := let s := (sa t0).putQueue 5 q0; { s with nv := { s.nv with lcs := 2 } }

theorem witness_RegisterWrites :
    sops.queue 5 = some { q0 with } ∧ ((64 : Word).toNat < 2 ^ 32 ∧ (1 = vfOf q0.ctx ∨ (1 = 0 ∧ q0.pf = true)) ∧ (1 = 0 ∨ 1 = 16 ∨ (1 ≤ 15 ∧ sops.nv.lcs = 2))) ∧
    (0 = vfOf qpf.ctx ∨ (0 = 0 ∧ qpf.pf = true)) ∧ 16 = vfOf 0 ∧
    (((64 : Word).setWidth 32 - q0.head).toNat ≤ q0.size ∧ ((64 : Word).setWidth 32 - q0.tail).toNat < 2 ^ 31) ∧
    q0.size < ((65 : Word).setWidth 32 - q0.head).toNat ∧ ¬ ((2 : Nat) = vfOf q0.ctx ∨ ((2 : Nat) = 0 ∧ q0.pf = true)) ∧ sops.present 15 = true ∧ sops.present 16 = true ∧
    sops.present 17 = false ∧ (5 : Nat) < 64 ∧
    (((16 : Word).setWidth 32 - (sops.box 15).inHead).toNat ≤ 16 ∧ ((16 : Word).setWidth 32 - (sops.box 15).inTail).toNat < 2 ^ 31) ∧
    (0x3804 : Nat) % 8 ≠ 0 ∧ (127 : Nat) < 128 := ⟨rfl, by decide +kernel⟩

/-- A vector masked, pending and unmasked. -/
theorem witness_RegisterWrites_vectors :
    (sops.msixEntry 1 2).masked = true ∧
    ((sops.putMsix 1 2 { addr := 0, data := 0, masked := true, pending := true }).msixEntry 1 2).pending = true ∧
    ((sops.putMsix 1 2 { addr := 0, data := 0, masked := false, pending := false }).msixEntry 1 2).masked = false := by decide +kernel

/-- A device that serves a mailbox message. -/
def sbox (x : CQueue) (p1 p2 : Word) (serving : Nat) : State :=
  let s := (sa t0).putQueue 5 x
  { s with fen := { s.fen with serving := serving, msg := { s.fen.msg with p1 := p1, p2 := p2 } } }

theorem witness_MailboxRequests_queues :
    (sbox { q0 with error := true } 5 0 1).namedQueue = some (5, { q0 with error := true }) ∧ (sbox q0 5 0 0).namedQueue = some (5, q0) ∧
    (sbox q0 4 0 0).namedQueue = none ∧
    q0.run = none ∧ q0.outer = none ∧ q0.stream = none ∧ (∀ g ∈ (sbox q0 5 0 0).groups, g.2.aq ≠ some 5) ∧ (qend 0).run.isSome = true ∧
    (sbox q0 5 0 0).queue 0 = none ∧
    (let m := (sbox q0 (BitVec.ofNat 64 (15 + 256 + 65536 * 2 ^ 32)) 4096 0).fen.msg
     (m.p1.extractLsb' 0 8).toNat < 16 ∧ (m.p1.extractLsb' 8 8).toNat < 2 ∧ m.p2.toNat % 4096 = 0 ∧
       (m.p1.extractLsb' 32 32).toNat = 2 ^ (10 + 6)) ∧
    (let m := (sbox q0 (BitVec.ofNat 64 (15 + 65 * 2 ^ 32)) 4096 0).fen.msg
     ¬ ∃ k, k < 11 ∧ (m.p1.extractLsb' 32 32).toNat = 2 ^ (k + 6)) ∧
    (let s : State := { sa t0 with fe := { State.reset.fe with queues := (List.range 64).map fun k => (k, q0) } }
     ∀ k, k < 64 → (s.queue k).isSome = true) := by
  refine ⟨rfl, rfl, by decide +kernel, rfl, rfl, rfl, by decide, rfl, by decide +kernel, by decide +kernel, by decide +kernel,
    by decide +kernel⟩

/-- A QRESET at the head of the ring of context 1's function, of its own queue 5 and of queue 6 of context 2; and a QDESTROY. -/
def smsg (ty q : Word) : State :=
  let s := (sops.putQueue 6 { q0 with ctx := 2 }).putBox 1 { Mbox.zero with inTail := 1, inRing := tset 0 (tset 0 [] 0 ty) 1 q }
  { s with boot := { s.boot with phase := 3 } }

/-- The premises of a request for a queue of context `c`. -/
def Foreign (s : State) (c : Nat) : Prop :=
  (∃ y, s.queue ((s.box 1).front.2.p1.extractLsb' 0 8).toNat = some y ∧ y.ctx = c) ∧ (s.box 1).inHead ≠ (s.box 1).inTail ∧
    s.fen.alive.getLsbD 1 = true ∧ s.nv.lcs ≠ 4 ∧ s.boot.phase = 3 ∧ s.present 1 = true ∧ ctxOf 1 = 1

theorem witness_MailboxRequests_foreign :
    ((smsg 4 5).box 1).front.1 = 4 ∧ Foreign (smsg 4 5) 1 ∧ Foreign (smsg 4 6) 2 ∧ ((smsg 6 5).box 1).front.1 = 6 ∧ Foreign (smsg 6 5) 1 ∧
    Foreign (smsg 6 6) 2 := by
  refine ⟨by decide +kernel, ⟨⟨_, rfl, rfl⟩, ?_⟩, ⟨⟨_, rfl, rfl⟩, ?_⟩, by decide +kernel, ⟨⟨_, rfl, rfl⟩, ?_⟩, ⟨⟨_, rfl, rfl⟩, ?_⟩⟩ <;> decide +kernel

/-- A fault record. -/
def frec : FaultRec := FaultRec.blank 0 1 4 1

theorem witness_MailboxRequests_others :
    (let s : State := sbox q0 0 0 0
     let s1 : State := { s with fen := { s.fen with faults := [frec], nfaults := 1 } }
     s1.recordIn 0 = some frec ∧ s1.recordIn 1023 = none) ∧
    1024 ≤ ((1024 : Word).extractLsb' 0 16).toNat ∧
    ((sbox q0 (BitVec.ofNat 64 (9 * 2 ^ 32)) 0 1).target (some 1) ((BitVec.ofNat 64 (9 * 2 ^ 32)).extractLsb' 32 32) = none ∧
      ((sbox q0 0 0 1).ctx 1).debug = false) ∧
    (sa t0).boot.wiping = none ∧ (∃ n m, lcsRule n m = some false) ∧ (∃ n m, lcsRule n m = none) ∧
    ({ sa t0 with boot := { (sa t0).boot with wiping := some (4, 7) } } : State).boot.wiping = some (4, 7) := by
  refine ⟨by decide +kernel, by decide, by decide +kernel, rfl, ⟨0, 4, rfl⟩, ⟨4, 4, rfl⟩, rfl⟩

/-- A debug request of a context with debugging, and life-cycle requests that need a token. -/
theorem witness_MailboxRequests_debug :
    (let s := (sbox q0 (2 ^ 32) 0 0).putCtx 1 { placeCtx with debug := true }
     (∃ e, s.target none ((2 ^ 32 : Word).extractLsb' 32 32) = some (.bank e t0)) ∧ (s.ctx t0.who.ctx).debug = true) ∧
    (lcsRule 2 3 = some true ∧ (0 : Word) = 0 ∧ (8 : Word) ≠ 0 ∧ (8 : Word).toNat % 8 = 0 ∧ (8 : Word).toNat + 3437 ≤ 2 ^ 50 ∧
      (4 : Word).toNat % 8 ≠ 0) := by
  refine ⟨⟨⟨_, rfl⟩, rfl⟩, by decide +kernel⟩

/-- A device in host-driven mode whose recovery registers name queue 5. -/
def srcv (x : CQueue) (v : Word) : State :=
  let s := (sa t0).putQueue 5 x
  { s with fen := { s.fen with hostmode := true, rcvarg := 5, rcvdata := [(0, v)], faults := [frec] } }

theorem witness_RecoveryOperations :
    ((7 : Nat) < 8 ∧ (sa t0).fen.alive.getLsbD 7 = true) ∧
    (let s : State := { sa t0 with fen := { (sa t0).fen with alive := 0x7F } }; s.fen.alive.getLsbD 7 = false ∧ s.fen.alive ≠ 0xFF) ∧
    (sa t0).fen.alive = 0xFF ∧ (sa t0).fen.tripped = false ∧ (sa t0).queue (sa t0).fen.rcvarg.toNat = none ∧
    ((srcv q0 0).queue (srcv q0 0).fen.rcvarg.toNat = some q0 ∧ (srcv q0 0).fen.hostmode = true ∧ q0.error = false ∧
      ((srcv q0 0).ctx q0.ctx).term = none) ∧
    (srcv q0 1023).recordIn (((srcv q0 1023).rcv 0).toNat % 1024) = some frec ∧ ((srcv q0 32).rcv 0).toNat % 64 ≠ 0 ∧
    (((srcv q0 64).rcv 0).toNat % 64 = 0 ∧ (srcv q0 64).inFrame ((srcv q0 64).rcv 0).toNat = true ∧
      ((srcv q0 64).readL2 (((srcv q0 64).rcv 0).toNat / 32)).bad = none ∧ (srcv q0 64).frameMapWord 64 = none) ∧
    (q0.run = none ∧ q0.outer = none) ∧
    (let s := (srcv q0 64).putCtx 2 { Ctx.zero with table := [(0, { extu with fmap := 64 })] }
     s.frameMapWord (64 + 8 * 3) = some ((s.page 2 (extu.target / 65536 + 3)).word 0)) := by
  refine ⟨by decide +kernel, by decide +kernel, rfl, rfl, rfl, ⟨rfl, rfl, rfl, rfl⟩, by decide +kernel, by decide +kernel, by decide +kernel,
    ⟨rfl, rfl⟩, by decide +kernel⟩

/-- A device with its nine images, and one in SCRAPPED. -/
theorem witness_RecoveryOperations_images :
    (let i : FwImage := { version := 0, bytes := [], edKey := [], mlKey := [], edSig := [], mlSig := [] }
     let s : State := { sa t0 with boot := { (sa t0).boot with images := List.replicate 9 i } }
     s.boot.images[8]? = some i ∧ (sa t0).boot.images[8]? = none) ∧
    (let s : State := { sa t0 with nv := { (sa t0).nv with lcs := 4 } }; s.nv.lcs = 4) ∧
    (srcv q0 1023).recordIn 1022 = none ∧ (srcv q0 (2 ^ 50)).inFrame ((srcv q0 (2 ^ 50)).rcv 0).toNat = false ∧
    (let s : State := { srcv q0 0 with fen := { (srcv q0 0).fen with tripped := true } }; s.fen.alive = 0xFF ∧ s.fen.tripped = true) := by
  refine ⟨⟨rfl, rfl⟩, rfl, by decide +kernel, by decide +kernel, rfl, rfl⟩

theorem witness_PowerEvents_clusters :
    (0 : Nat) < 64 ∧ (63 : Nat) < 64 ∧ ((sa t0).cluster 0).on = true ∧ ((sa t0).cluster 63).on = false ∧ 1300 % 25 = 0 ∧ 600 % 25 = 0 ∧
    ((sa t0).cluster 0).capped = false ∧ (sa t0).fen.alive.getLsbD 4 = true ∧ 1310 % 25 ≠ 0 := by decide +kernel

/-- Island 0 on its way up and down, and a power boundary of full service with a hot island. -/
theorem witness_PowerEvents_points :
    (let s : State := { sa t0 with boot := { (sa t0).boot with phase := 3 } }
     (s.cluster 0).on = true ∧ (s.cluster 0).capped = false ∧ s.fen.alive.getLsbD 4 = true ∧ s.boot.phase = 3) ∧
    (let c : Cluster := { Cluster.zero true with goal := some 1300, vclock := 800, mhz := 800 }
     c.goal = some 1300 ∧ c.vclock = c.mhz ∧ c.mhz < 1300) ∧
    (let c : Cluster := { Cluster.zero true with goal := some 600, vclock := 800, mhz := 800 }
     c.goal = some 600 ∧ c.vclock = c.mhz ∧ 600 < c.mhz) ∧
    (let s0 := (sa t0).putCluster 0 { ((sa t0).cluster 0) with temp := 100 }
     let s : State := { s0 with boot := { s0.boot with phase := 3 }, dt := 1300000 }
     s.boot.phase = 3 ∧ s.dt.toNat % 1300000 = 0 ∧ s.fen.powerAt ≠ s.dt.toNat ∧ (s.cluster 0).on = true ∧ 100 ≤ (s.cluster 0).temp ∧
       600 < (s.cluster 0).mhz ∧ s.fen.alive.getLsbD 4 = true) := by decide +kernel

theorem witness_PowerEvents_boot :
    (sa t0).boot.ptmNext ≤ (sa t0).dt.toNat ∧
    (let s : State := { sa t0 with boot := { (sa t0).boot with ptmNext := 4096 }, dt := 4095 }; s.dt.toNat < s.boot.ptmNext) ∧
    (sa t0).boot.phase = 0 ∧
    (let s : State := { sa t0 with boot := { (sa t0).boot with phase := 1 } }; s.boot.phase = 1 ∧ s.nv.fusedMin ≤ s.nv.version) ∧
    (let s : State := { sa t0 with nv := { (sa t0).nv with fusedMin := 1, version := 0 } }; s.nv.version < s.nv.fusedMin) ∧
    ((23 : Nat) < 24 ∧ (sa t0).boot.lpdone.getLsbD 23 = false) ∧
    (let s : State := { sa t0 with boot := { (sa t0).boot with phase := 2, lpdone := BitVec.allOnes 24, cxlDone := 3 } }
     s.boot.phase = 2 ∧ s.boot.lpdone = BitVec.allOnes 24 ∧ s.boot.cxlDone = 3) := by decide +kernel

/-- Bring-up after 2^35 ticks, and a load of too few images. -/
theorem witness_PowerEvents_late :
    (let s : State := { sa t0 with boot := { (sa t0).boot with phase := 2 }, dt := 2 ^ 35 }; s.boot.phase = 2 ∧ 2 ^ 35 ≤ s.dt.toNat) ∧
    ((sa t0).boot.lpdone ≠ BitVec.allOnes 24 ∧ (sa t0).dt.toNat < 2 ^ 35) ∧ ([] : List FwImage).length ≠ 9 := by decide +kernel

theorem witness_OutsideRequests : (∃ s1, (sa t0).writeRange 1 (2 ^ 21 - 1) [7] = .ok s1) ∧
    (∃ code sub a, (sa t0).writeRange 1 (2 ^ 21 - 1) [7, 8] = .bad code sub a) ∧ (63 : Nat) ≤ 63 ∧ (15 : Nat) ≤ 15 ∧
    (List.replicate 64 63).length ≤ 64 ∧ (∀ c ∈ List.replicate 64 63, c ≤ 63) :=
  ⟨⟨_, rfl⟩, ⟨_, _, _, rfl⟩, by decide, by decide, by decide, by decide⟩

theorem witness_OutsideRequests_pages :
    (let s := (sa t0).putCtx 1 { Ctx.zero with table := [(0, ext21), (1, extu)] }
     (s.ctx 1).lookup (2 ^ 22 - 1) = some (1, extu) ∧ extu.kind = .unbacked) ∧
    (let s : State := { sa t0 with fen := { (sa t0).fen with alive := 0xBF } }; s.fen.alive.getLsbD 6 = false) ∧
    (sa t0).fen.alive.getLsbD 6 = true := by decide +kernel

/-! ### Witnesses: words and steps -/

theorem witness_CoreRoundTrip : wellFormed .nop = true ∧ Instr.nop.legal ≠ .nowhere ∧ wellFormed (.cpy cpy0 true) = true := by decide

theorem witness_CanonicalWords : decodeWord 0x8000000000000000 = .ok .nop := by decide +kernel

/-- The A-strand group of StepRuns: what runs is a `nop` placed where the reset state fetches next, and `exec` goes on. -/
theorem witness_StepRuns_access :
    let s := State.reset.withFetchWord 64 0
    let s1 := ({ s with turn := [] } : State).at_ 0 (s.core 0).bank .a
    let t := placeTask
    let t1 := { t.onSt .a (fun st => { st with via := none }) with point := false, yielded := false }
    let s2 : State := { s1.putHere t1 with stall := none, trapped := false }
    s.turn = [.strand 0 .a] ∧ s1.here = some t ∧ t.susp = none ∧ t.retiring = false ∧ t.as.issued = 0 ∧ t.a.ended = false ∧
      t.a.hold = none ∧ t.slotStalled = false ∧ t.as.gap = 0 ∧ t.cancel = none ∧
      s1.fetchWord 0 t.who.ctx t.a.pc = .word 0x8000000000000000 ∧ stopBit 0x8000000000000000 = true ∧
      groupIll t .a 0 [] [0x8000000000000000] = none ∧ scoreOk t1 .nop = true ∧
      ∃ s3 u, exec .nop s2 = .next s3 ∧ s3.stall = none ∧ s3.trapped = false ∧ s3.here = some u ∧ ∀ b, u.susp ≠ some (.back b) := by
  refine ⟨rfl, rfl, rfl, rfl, rfl, rfl, rfl, by decide +kernel, rfl, rfl, by decide +kernel, by decide, by decide +kernel,
    by decide +kernel, _, _, rfl, rfl, rfl, rfl, ?_⟩
  intro b h
  cases h

/-- A `samp` whose engine's queue is full: the token is bound and the word waits with it. -/
theorem witness_StepRuns_kept :
    let s : State := { sa t0 with sorrel := (List.range 8).map fun e => (e, List.replicate 32 (samp0 0)) }
    (match exec (.samp 0 1) s with
      | .next s3 => s3.stall == some 5 && s3.here.any fun u => u.as.issued == 0 && (u.tok 0).st == .pending
      | _ => false) = true := by decide +kernel

/-- The premises of the X-strand group of StepRuns for a word: the task at the word, and the states before its issue cycle and in it. -/
def XGroup (w : Word) (i : Instr) (p : State → State → State → Prop) : Prop :=
  let s : State := { State.reset.withFetchWord 64 w.toNat with turn := [.strand 0 .x] }
  let s1 := ({ s with turn := [] } : State).at_ 0 (s.core 0).bank .x
  let t := placeTask
  let t1 := t.onX fun x => { x with last := s1.cc }
  let t2 := t1.onX fun x => { x with ic := x.ic + 1, array := x.array - 1, touch := [], waits := 0 }
  let named := t2.groupSlots [{ pc := t.x.pc, w := w, i := some i }]
  let at_ (u : Task) := (u.onSt .x fun st => { st with via := none }).onX fun x => { x with named := named }
  (decodeWord w = .ok i ∧ stopBit w = true ∧ s1.here = some t ∧ t.susp = none ∧ t.cancel = none ∧ t.x.ended = false ∧ t.x.hold = none ∧
    t.xs.freeze = 0 ∧ t.xs.gap = 0 ∧ t.xs.flights = [] ∧ s1.fetchWord 0 t.who.ctx t.x.pc = .word w ∧ groupIll t2 .x 0 [] [w] = none) ∧
  p (s1.putHere t1) { s1.putHere (at_ t1) with stall := none, trapped := false } { s1.putHere (at_ t2) with stall := none, trapped := false }

/-- The X-strand group of StepRuns: a `loopr` that goes on, a `qpop` of an empty queue that waits, and a `trap`. -/
theorem witness_StepRuns_execute :
    (XGroup 0x9500000000000000 (.loopr 0) fun s1 _ s3 =>
      ∃ s4 s5, exec (.loopr 0) s3 = .next s4 ∧ s4.stall = none ∧ s4.trapped = false ∧ xEnd s1 s4 = .done s5) ∧
    (XGroup 0x9900010000000000 (.qpop 1) fun _ _ s3 => ∃ s4, exec (.qpop 1) s3 = .next s4 ∧ s4.stall = some 1) ∧
    (XGroup 0x9E00000200000005 (.trap 5) fun _ s2 s3 => ∃ s4 s5 u v, exec (.trap 5) s3 = .next s4 ∧ s4.stall = none ∧ s4.trapped = true ∧
      exec (.trap 5) s2 = .next s5 ∧ s5.stall = none ∧ s5.trapped = true ∧ s4.here = some u ∧ s5.here = some v ∧ v.x.trap = u.x.trap ∧
      v.x.trappc = u.x.trappc) := by
  refine ⟨⟨⟨by decide +kernel, by decide, rfl, rfl, rfl, rfl, rfl, rfl, rfl, rfl, by decide +kernel, by decide +kernel⟩, _, _, rfl, rfl, rfl, rfl⟩,
    ⟨⟨by decide +kernel, by decide, rfl, rfl, rfl, rfl, rfl, rfl, rfl, rfl, by decide +kernel, by decide +kernel⟩, _, rfl, rfl⟩,
    ⟨⟨by decide +kernel, by decide, rfl, rfl, rfl, rfl, rfl, rfl, rfl, rfl, by decide +kernel, by decide +kernel⟩, _, _, _, _, rfl, rfl, rfl, rfl, rfl,
      rfl, rfl, rfl, rfl, rfl⟩⟩

/-- The walker, queue and event groups of StepRuns: a `halt`, a SETGP, and a reset that the outside has listed. -/
theorem witness_StepRuns_others :
    (let s := State.reset.withFetchWord 16 0x5000
     s.agenda = [] ∧ s.turn = [.walker 1] ∧ tfind s.jobs 1 = some placeJob ∧ placeJob.st = .running ∧ (s.ctx placeJob.ctx).term = none ∧
     s.loadsBefore 1 placeJob = false ∧ (∃ w, placeJob.walk = some w ∧ w.launch = none ∧ w.pc ≤ 255 ∧
       decodeWalker (tget 0 (s.cluster placeJob.cluster).store (s.partition placeJob.cluster placeJob.ctx * 256 + w.pc)) = .ok .walkerHalt) ∧
     ∃ s', exec .walkerHalt { s with turn := [], job := 1 } = .next s') ∧
    (∃ x r, let s := State.reset.withFetchWord 512 3
     s.agenda = [] ∧ s.turn = [.queue 0] ∧ s.queue 0 = some x ∧ x.run = some r ∧ r.status = none ∧ r.launch = none ∧
     s.workEnded r = none ∧ s.nv.lcs ≠ 4 ∧ commandOf r.op r.cmd = some (.setgp r.cmd) ∧
     ∃ s', exec (.setgp r.cmd) { s with turn := [], fe := { s.fe with curq := 0 } } = .next s') ∧
    (∃ a b : Ev, [a, b] = [a] ++ b :: [] ∧ b.rank < a.rank) ∧
    (let s : State := { State.reset with agenda := [{ i := .deviceReset, cur := State.reset.cur, job := 0 }] }
     ∃ e, s.turn = [] ∧ s.agenda = [] ++ e :: [] ∧ ∃ s', exec e.i { s with agenda := [], cur := e.cur, job := e.job } = .next s') := by
  refine ⟨⟨rfl, rfl, rfl, rfl, rfl, by decide +kernel, ⟨_, rfl, rfl, by decide, by decide +kernel⟩, _, rfl⟩,
    ⟨_, { op := 3, cmd := cmd 0 0, status := none, launch := none, old := 0, frame := none }, rfl, rfl, rfl, by decide +kernel, rfl, rfl, rfl, by decide, rfl, _, rfl⟩,
    ⟨{ i := .peerPortRequest (.marker 1 0), cur := State.reset.cur, job := 0 }, { i := .hostMemoryWrite 1 0 [], cur := State.reset.cur, job := 0 }, rfl,
      by decide⟩, _, rfl, rfl, _, rfl⟩

/-- A state with a task, its word in memory, and a next state. -/
theorem witness_MemoryStaysCanonical : Memory.wf (State.reset.withFetchWord 64 0).mem ∧ (State.reset.withFetchWord 64 0).mem ≠ [] ∧
    ∃ s', step (State.reset.withFetchWord 64 0) = .next s' := ⟨by decide +kernel, by decide +kernel, _, rfl⟩

/-- The same state meets the premises of StepInvariant. -/
theorem witness_StepInvariant : (State.reset.withFetchWord 64 0).ClassOk ∧ (State.reset.withFetchWord 64 0).Clear ∧
    (State.reset.withFetchWord 64 0).tasks ≠ [] ∧ ∃ s', step (State.reset.withFetchWord 64 0) = .next s' := by
  refine ⟨⟨?_, ?_⟩, ⟨rfl, rfl⟩, by decide +kernel, _, rfl⟩
  · intro e h
    rcases List.mem_cons.1 h with rfl | h
    · decide
    · cases h
  · intro e h
    cases h

/-! ### Results worked out from the rules -/

/-- A register of the A-strand of the acting task after an instruction. -/
def got (r : Reg) (o : Out) : Option Word :=
  match o with
  | .next s => s.here.map fun t => t.rd .a r
  | _ => none

/-- The code, subcode and PC of a trap that an instruction takes. -/
def gotTrap (o : Out) : Option (BitVec 8 × BitVec 8 × Word) :=
  match o with
  | .next s => s.here.map fun t => (t.a.trap.code, t.a.trap.sub, t.a.trappc)
  | _ => none

/-- 05 R114: a sum wraps; a register shift takes b[5:0]. -/
theorem test_add_wraps : got 3 (exec (.add 3 1 (.imm 1)) (sa (t1 (BitVec.allOnes 64)))) = some 0 := by decide +kernel

theorem test_shl_takes_six_bits : got 3 (exec (.shl 3 1 (.reg 2)) (sa (t2 1 65))) = some 2 := by decide +kernel

/-- 05 R115: the examples of the rule, and division by zero. -/
theorem test_div_truncates :
    got 3 (exec (.divI 3 1 (.imm 2)) (sa (t1 (-7)))) = some (-3) ∧ got 3 (exec (.remI 3 1 (.imm 2)) (sa (t1 (-7)))) = some (-1) := by
  decide +kernel

theorem test_div_by_zero :
    got 3 (exec (.divI 3 1 (.imm 0)) (sa (t1 5))) = some (BitVec.allOnes 64) ∧ got 3 (exec (.remN 3 1 (.imm 0)) (sa (t1 5))) = some 5 := by
  decide +kernel

theorem test_div_overflow :
    got 3 (exec (.divI 3 1 (.imm (-1))) (sa (t1 0x8000000000000000))) = some 0x8000000000000000 := by decide +kernel

/-- 05 R114: the high words of (2^64 - 1)^2: unsigned 2^64 - 2, signed (-1)(-1) = 1, so 0. -/
theorem test_mulh :
    got 3 (exec (.mulhN 3 1 (.reg 1)) (sa (t1 (BitVec.allOnes 64)))) = some 0xFFFFFFFFFFFFFFFE ∧
    got 3 (exec (.mulhI 3 1 (.reg 1)) (sa (t1 (BitVec.allOnes 64)))) = some 0 := by decide +kernel

/-- 05 R114, R116: 64 leading zeros of zero; a field of 4 bits from bit 4, zero- and sign-extended. -/
theorem test_clz_zero : got 3 (exec (.clz 3 0) (sa t0)) = some 64 := by decide +kernel

theorem test_bext :
    got 3 (exec (.bext 3 1 4 3) (sa (t1 0x1A5))) = some 0xA ∧ got 3 (exec (.bextI 3 1 4 3) (sa (t1 0x1A5))) = some (-6) := by decide +kernel

/-- 05 R116: lo + w beyond 64 is ILL 0x0E at the word. -/
theorem test_bext_too_wide : gotTrap (exec (.bext 3 1 63 1) (sa t0)) = some (1, 0x0E, 0) := by decide +kernel

/-- 05 R117: the sequence of the rule. -/
theorem test_lui : got 1 (exec (.lui 1 0x0123456789AB) (sa (t1 0xCDEF))) = some 0x0123456789ABCDEF := by decide +kernel

/-- 03 R56: s0 reads as zero whatever is written. -/
theorem test_s0 : got 0 (exec (.add 0 1 (.imm 1)) (sa (t1 5))) = some 0 := by decide +kernel

end Sys2Proof.Tests
end

section
/-! SUPPORT. Reads after writes of scalar registers and lane masks (03 R56, R58), and the statement assembled from them. -/

namespace Sys2Proof.Machine

/-! ### Scalar registers (03 R56) -/

@[simp] theorem Task.onSt_id (t : Task) (sd : Side) : (t.onSt sd fun st => st) = t := by cases sd <;> rfl

/-- A write to s0 of either strand leaves the whole task as it was. -/
theorem Task.onSt_setReg_zero (t : Task) (sd : Side) (v : Word) : (t.onSt sd fun st => st.setReg 0 v) = t := by
  simp only [Strand.setReg_zero, Task.onSt_id]

/-- A register of a strand read after a write to a register other than s0 of the same strand. -/
theorem Task.onSt_setReg_rd (t : Task) (sd : Side) (r q : Reg) (v : Word) (hr : r ≠ 0) :
    (t.onSt sd fun st => st.setReg r.toNat v).rd sd q = if q = r then v else t.rd sd q := by
  have hn : r.toNat ≠ 0 := BitVec.toNat_ne.mp hr
  by_cases hq : q = r
  · subst hq
    rw [Task.rd, if_neg hr, Task.onSt_st, Strand.setReg_get, if_pos ⟨rfl, hn⟩, if_pos rfl]
  · have hqn : ¬ (q.toNat = r.toNat ∧ r.toNat ≠ 0) := fun e => BitVec.toNat_ne.mp hq e.1
    rw [Task.rd, Task.onSt_st, Strand.setReg_get, if_neg hqn, if_neg hq, Task.rd]

/-! ### Lane masks (03 R58) -/

/-- A write to g0 leaves the whole task as it was. -/
@[simp] theorem Task.performPlain_gmask_zero (t : Task) (v : Word) : t.performPlain (.gmask 0 v) = t := rfl

/-- A write to a mask other than g0 performs as a write of its table entry. -/
theorem Task.performPlain_gmask (t : Task) (g : Nat) (v : Word) (hg : g ≠ 0) :
    t.performPlain (.gmask g v) = t.onX fun x => { x with masks := tset 0 x.masks g v } := if_neg hg

/-- A mask read after a write to a mask other than g0. -/
theorem Task.performPlain_gmask_mask (t : Task) (g h : BitVec 3) (v : Word) (hg : g ≠ 0) :
    (t.performPlain (.gmask g.toNat v)).mask h = if h = g then v else t.mask h := by
  rw [Task.performPlain_gmask t g.toNat v (BitVec.toNat_ne.mp hg), Task.mask, Task.onX_xs, tget_tset]
  by_cases hh : h = g
  · subst hh
    rw [if_neg hg, if_pos rfl, if_pos rfl]
  · rw [if_neg (BitVec.toNat_ne.mp hh), if_neg hh, Task.mask]

/-- An element of one cell is active where its own lane is (02 R27). -/
theorem activeAt_sixteen (g : Word) (e : Nat) : activeAt 16 g e = g.getLsbD e := by
  rw [activeAt, Nat.mul_div_cancel_left e (by decide)]

/-! ### The statement -/

/-- Settles O1: a read gives what the last write to the same number left, and s0 and g0 take no write. -/
theorem scalarRegisters : Obligations.ScalarRegisters :=
  ⟨⟨Task.rd_zero, Task.onSt_setReg_zero, Task.result_zero, Task.onSt_setReg_rd⟩,
    Task.mask_zero, Task.performPlain_gmask_zero, Task.performPlain_gmask_mask, activeAt_sixteen⟩

end Sys2Proof.Machine
end

section
/-! SUPPORT. The shared openings of the one-strand instructions, each on the strand that the opcode map does not allow (04 R81, R98),
and the statement assembled from them. -/

namespace Sys2Proof.Machine

section OtherStrand

variable {s : State} {t : Task}

/-! ### A-strand openings on the X-strand -/

theorem memSlot_x (h : s.On .x t) (w : BitVec 8) (f : Task → State) : memSlot s w f = .next (ill s 0x07) := onlyA_x h _

theorem strongMem_x (h : s.On .x t) (w : BitVec 8) (f : Task → State) : strongMem s w f = .next (ill s 0x07) := memSlot_x h w _

theorem onTile_x (h : s.On .x t) (m : MAddr) (f : Task → Nat → State) : onTile s m f = .next (ill s 0x07) := memSlot_x h m.wait _

theorem startFill_x (h : s.On .x t) (m : MAddr) (form : FillForm) (pat : Task → Word) :
    startFill s m form pat = .next (ill s 0x07) := onTile_x h m _

theorem lineForm_x (h : s.On .x t) (d : Reg) (m : MAddr) (k : Task → (Nat → Bool) → State) :
    lineForm s d m k = .next (ill s 0x07) := strongMem_x h m.wait _

theorem semSlot_x (h : s.On .x t) (f : Task → State) : semSlot s f = .next (ill s 0x07) := onlyA_x h _

theorem strongSem_x (h : s.On .x t) (f : Task → State) : strongSem s f = .next (ill s 0x07) := semSlot_x h _

theorem atomic_x (h : s.On .x t) (a : SArgs) (dest : Bool) (op : Task → SemOp) : atomic s a dest op = .next (ill s 0x07) :=
  strongSem_x h _

theorem pinForm_x (h : s.On .x t) (d a : Reg) (on : Bool) : pinForm s d a on = .next (ill s 0x07) := semSlot_x h _

theorem dbgOp_x (h : s.On .x t) (a : Reg) (f : Task → Option Target → State) : dbgOp s a f = .next (ill s 0x07) := strongSem_x h _

/-- An instruction of the A-strand alone, on the X-strand: its slot's opening answers, whatever its fields are. -/
theorem exec_legal_access_x {i : Instr} (h : s.On .x t) (hi : i.legal = .access) : exec i s = .next (ill s 0x07) := by
  unfold exec
  cases i with
  | bqpush => exact onlyA_x h _
  | pset | parm | pstop | pstat | ldf | ldx | ste | stx | ld | st | pref | prefAdapter | rbind | runbind | cpy | cpym | cpyt | cpyg
  | walk | permit | permitLand | permitUnland | tokw | tokst | wload => exact memSlot_x h _ _
  | tdef | tfree | tstate => exact onTile_x h _ _
  | tfill | tfillEmpty | tfillFull => exact startFill_x h _ _ _
  | lds | sts | disc | discp | fenceRel | fenceAcq | srel | sacq => exact strongMem_x h _ _
  | clean | inval => exact lineForm_x h _ _ _
  | sadd | sfadd | sfaddLive | scas | sset => exact atomic_x h _ _ _
  | ssetm | swait | swaitv | splitAny | splitHere | gpset | gpget | eqpush | samp | bpost | bstat | ckpt | ckptSize | yield =>
    exact strongSem_x h _
  | sdecl | prio | enq | retire | xlq | sslack | srung => exact semSlot_x h _
  | srungPin | srungUnpin => exact pinForm_x h _ _ _
  | dbgSt | dbgRd | dbgWr | dbgHalt | dbgGo => exact dbgOp_x h _ _
  | _ => cases hi

/-! ### X-strand openings on the A-strand -/

theorem lanewiseT_a (h : s.On .a t) (o : VOp) (lat : Nat) (rounds readsD masks : Bool) (d a b : Opd) (f : Task → LaneFn) :
    lanewiseT s o lat rounds readsD masks d a b f = .next (ill s 0x07) := onlyX_a h _

theorem lanewise_a (h : s.On .a t) (o : VOp) (lat : Nat) (rounds readsD masks : Bool) (d a b : Opd) (f : LaneFn) :
    lanewise s o lat rounds readsD masks d a b f = .next (ill s 0x07) := lanewiseT_a h o lat rounds readsD masks d a b _

theorem reduceOp_a (h : s.On .a t) (o : VOp) (op : Nat) (scan : Bool) (d a : Opd) :
    reduceOp s o op scan d a = .next (ill s 0x07) := onlyX_a h _

theorem mclass_a (h : s.On .a t) (tiles : List Nat) (hold : Nat) (k : Task → State) :
    mclass s tiles hold k = .next (ill s 0x07) := onlyX_a h _

/-- A tile form that tests a limit of its fields before it takes the array: both branches open on the X-strand alone, so the strand
is tested before the limit counts. -/
theorem limit_mclass_a (h : s.On .a t) (c : Prop) [Decidable c] (f : Task → State) (tiles : List Nat) (hold : Nat) (k : Task → State) :
    (if c then onlyX s f else mclass s tiles hold k) = .next (ill s 0x07) := by
  split
  · exact onlyX_a h f
  · exact mclass_a h tiles hold k

/-- An instruction of the X-strand alone, on the A-strand: its opening answers, whatever its fields are. -/
theorem exec_legal_execute_a {i : Instr} (h : s.On .a t) (hi : i.legal = .execute) : exec i s = .next (ill s 0x07) := by
  unfold exec
  cases i with
  | loopr | bqbr | vcvt | vmxq | vmxd | vcmp | vhist | vbcast | vperm | vseed | vrand | mzero | mxpose | mshuf | mld | mst =>
    exact onlyX_a h _
  | vadd | vsub | vmul | vfma | vmin | vmax | vabs | vexp2 | vlog2 | vrcp | vrsq | vand | vor | vxor | vshl | vshr | vsar | vclass
  | vorder | mmov => exact lanewise_a h _ _ _ _ _ _ _ _ _
  | vsel | viota => exact lanewiseT_a h _ _ _ _ _ _ _ _ _
  | vred | vscan => exact reduceOp_a h _ _ _ _ _
  | azero | arsc | anorm | astat | amov => exact mclass_a h _ _ _
  | mma | mmag | aread | awrite | asmx | abias | ascale => exact limit_mclass_a h _ _ _ _ _
  | _ => cases hi

end OtherStrand

/-! ### The statement -/

/-- Settles O8: the opening of every one-strand instruction tests the strand first. -/
theorem illegalStrand : Obligations.IllegalStrand := by
  intro s t i ht hi
  rcases hi with ⟨hl, hx⟩ | ⟨hl, ha⟩
  · exact exec_legal_access_x ⟨ht, hx⟩ hl
  · exact exec_legal_execute_a ⟨ht, ha⟩ hl

end Sys2Proof.Machine
end
